-- ==== Sys2Proof/Word.lean ====
section
/-! DEFINITION. The word types of Kalnader: 64-bit registers, 8-bit bytes, and plain byte strings (R3: little-endian). -/

namespace Sys2Proof

/-- A register, a code of a command or a 64-bit value (R456). -/
abbrev Word := BitVec 64

/-- One byte of scratch, of a buffer, of the keeper or of a message. -/
abbrev Byte := BitVec 8

/-- A 64 B block: a request descriptor (R48) or the parameter block of an engine instruction (R112). -/
abbrev Block := BitVec 512

/-- A string of bytes, lowest address first. -/
abbrev Bytes := List Byte

end Sys2Proof
end

