-- ==== Sys2Proof/Syntax.lean ====
section
/-! DEFINITION. The commands of the block: one constructor for each row of the table of operations and events, in the
table's order, with the operands that the row's rule gives it. -/

namespace Sys2Proof

/-- The two control ports (R306). -/
inductive CtlPort where
  | ctla
  | ctlb
deriving DecidableEq, Repr

/-- A coded word of a read in which symbols are in error: its place among the words read, from 0, and their positions
(R281). A word that is not listed is read without error. -/
structure WordErrors where
  word : Nat
  positions : List (BitVec 6)
deriving DecidableEq, Repr

/-- The two kinds of checked pair (R128). -/
inductive PairKind where
  | cipher
  | stream
deriving DecidableEq, Repr

/-- A digest engine: lane 0-31 or the sequencer of a bench (R169). -/
inductive DigestEngine where
  | lane (g : BitVec 5)
  | sequencer (b : BitVec 3)
deriving DecidableEq, Repr

/-- What a deadline bears on (R63, R419): an admitted request in its context, a fetched descriptor that waits for
admission, or a request forwarded from this block. -/
inductive DeadlineTarget where
  | context (c : BitVec 9)
  | waiting (ring : BitVec 16) (entry : BitVec 24)
  | forwarded (link : BitVec 3) (id : BitVec 8)
deriving DecidableEq, Repr

/-- The causes of a census or of a block warm reset need no type of their own; a port reset names its port (R451). -/
inductive ResetPort where
  | doorbell (n : BitVec 7)
  | keeper
  | fuse
  | sideband
  | alert
  | test
  | trace
deriving DecidableEq, Repr

/-- The commands of the block. -/
inductive Instr where
  -- ALU, R101. c is the context that issues.
  | add (c : BitVec 9) (rd ra rb : BitVec 5)
  | sub (c : BitVec 9) (rd ra rb : BitVec 5)
  | and (c : BitVec 9) (rd ra rb : BitVec 5)
  | or (c : BitVec 9) (rd ra rb : BitVec 5)
  | xor (c : BitVec 9) (rd ra rb : BitVec 5)
  | andn (c : BitVec 9) (rd ra rb : BitVec 5)
  | shl (c : BitVec 9) (rd ra rb : BitVec 5)
  | shr (c : BitVec 9) (rd ra rb : BitVec 5)
  | sar (c : BitVec 9) (rd ra rb : BitVec 5)
  | ror (c : BitVec 9) (rd ra rb : BitVec 5)
  | rol (c : BitVec 9) (rd ra rb : BitVec 5)
  | neg (c : BitVec 9) (rd ra : BitVec 5)
  | cmp (c : BitVec 9) (ra rb : BitVec 5)
  | bswap (c : BitVec 9) (rd ra : BitVec 5)
  | clz (c : BitVec 9) (rd ra : BitVec 5)
  | popc (c : BitVec 9) (rd ra : BitVec 5)
  | nop (c : BitVec 9)
  -- immediates, R102
  | addi (c : BitVec 9) (rd ra : BitVec 5) (imm : BitVec 16)
  | andi (c : BitVec 9) (rd ra : BitVec 5) (imm : BitVec 16)
  | ori (c : BitVec 9) (rd ra : BitVec 5) (imm : BitVec 16)
  | xori (c : BitVec 9) (rd ra : BitVec 5) (imm : BitVec 16)
  | cmpi (c : BitVec 9) (ra : BitVec 5) (imm : BitVec 16)
  | shi (c : BitVec 9) (rd ra : BitVec 5) (kind : BitVec 2) (amount : BitVec 6)
  | movi (c : BitVec 9) (rd : BitVec 5) (hw : BitVec 2) (imm : BitVec 16)
  | movk (c : BitVec 9) (rd : BitVec 5) (hw : BitVec 2) (imm : BitVec 16)
  -- multiply and divide, R103
  | mul (c : BitVec 9) (rd ra rb : BitVec 5)
  | mulhu (c : BitVec 9) (rd ra rb : BitVec 5)
  | mulhs (c : BitVec 9) (rd ra rb : BitVec 5)
  | div (c : BitVec 9) (rd rc ra rb : BitVec 5)
  | divu (c : BitVec 9) (rd rc ra rb : BitVec 5)
  -- special registers, R104
  | mfs (c : BitVec 9) (rd num : BitVec 5)
  | movs (c : BitVec 9) (num ra : BitVec 5)
  -- loads and stores, R105: the raw MODE, SZ, SX and ADR fields of format M
  | ld (c : BitVec 9) (rd rb : BitVec 5) (mode : BitVec 3) (sz : BitVec 2) (sx : Bool) (adr : BitVec 10)
      (read : List WordErrors)
  | st (c : BitVec 9) (rd rb : BitVec 5) (mode : BitVec 3) (sz : BitVec 2) (sx : Bool) (adr : BitVec 10)
  | ldw (c : BitVec 9) (rd rb : BitVec 5) (mode : BitVec 3) (sz : BitVec 2) (sx : Bool) (adr : BitVec 10)
      (read : List WordErrors)
  | stw (c : BitVec 9) (rd rb : BitVec 5) (mode : BitVec 3) (sz : BitVec 2) (sx : Bool) (adr : BitVec 10)
  -- control, R107-R109
  | bcc (c : BitVec 9) (cond : BitVec 4) (off : BitVec 22)
  | jal (c : BitVec 9) (rd : BitVec 5) (off : BitVec 21)
  | jr (c : BitVec 9) (rd ra : BitVec 5)
  | rep (c : BitVec 9) (src : BitVec 2) (ra : BitVec 5) (imm : BitVec 16)
  | wait (c : BitVec 9) (rd ra rb : BitVec 5) (any : Bool)
  | waitEnd (c : BitVec 9)
  | tstat (c : BitVec 9) (rd rc ra : BitVec 5)
  -- engine instructions, R112-R126
  | ciph (c : BitVec 9) (rd ra rb : BitVec 5)
  | dgst (c : BitVec 9) (rd ra rb : BitVec 5)
  | pk (c : BitVec 9) (rd ra rb : BitVec 5)
  | kchk (c : BitVec 9) (rd ra rb : BitVec 5)
  | kint (c : BitVec 9) (rd ra rb : BitVec 5)
  | katt (c : BitVec 9) (rd ra rb : BitVec 5)
  | ndraw (c : BitVec 9) (rd rc ra rb : BitVec 5)
  | xgath (c : BitVec 9) (rd ra rb : BitVec 5)
  | xscat (c : BitVec 9) (rd ra rb : BitVec 5)
  | xload (c : BitVec 9) (rd ra rb : BitVec 5)
  | xstore (c : BitVec 9) (rd ra rb : BitVec 5)
  | xlib (c : BitVec 9) (rd ra rb : BitVec 5)
  | cmpct (c : BitVec 9) (rd rc ra rb : BitVec 5) (len : BitVec 6)
  | cmpctDone (c : BitVec 9) (t : BitVec 4) (read : List WordErrors := [])
  | alloc (c : BitVec 9) (rd rc ra rb : BitVec 5)
  | free (c : BitVec 9) (rd rc rb : BitVec 5)
  | join (c : BitVec 9) (rd rb : BitVec 5)
  | post (c : BitVec 9) (reg : Bool) (ra : BitVec 5) (status : BitVec 8)
  | signal (c : BitVec 9) (rd rc ra rb : BitVec 5)
  -- jobs and buffers
  | jobPassedToEngine (c : BitVec 9) (t : BitVec 4)
  | engineQueueAccept (c : BitVec 9)
  | bufferAllocated (c : BitVec 9) (t : BitVec 4)
  | allocWaitExpiry (c : BitVec 9) (t : BitVec 4)
  | bufferZeroed (buf : BitVec 13) (readBack : Bool)
  -- cipher engine
  | stitch (kind : PairKind) (bench : BitVec 3) (agree : Bool) (read : List WordErrors)
  | tagDecision (c : BitVec 9) (t : BitVec 4) (agree : Bool := true) (read : List WordErrors := [])
  | scrubComplete (c : BitVec 9) (t : BitVec 4)
  | scrubStop (c : BitVec 9) (t : BitVec 4)
  | maskReseedRequest (bench : BitVec 3) (checker : Bool)
  | maskReseedArrival (bench : BitVec 3) (checker : Bool)
  | reseedDeadline (bench : BitVec 3) (checker : Bool)
  -- digest engine
  | digestAbsorb (e : DigestEngine) (read : List WordErrors)
  | digestClose (c : BitVec 9) (t : BitVec 4) (read : List WordErrors := [])
  -- public-key units
  | pkJobTake (unit : BitVec 4)
  | pkRelease (unit : BitVec 4) (agree : Bool)
  | pkResultWritten (unit : BitVec 4)
  | burnishEnd (unit : BitVec 4) (clean : Bool)
  | curveSegmentEnd (unit : BitVec 4)
  | ucodeVerifyEnd (agree : Bool := true)
  | identityReady
  -- memory master ports
  | mmReadResponse (port : BitVec 5) (tag : BitVec 7) (data : BitVec 256) (last err : Bool)
  | mmWriteAck (port : BitVec 5) (tag : BitVec 7) (err : Bool)
  | mmResponseTimeout (port : BitVec 5)
  | xferPieceIssue (c : BitVec 9) (t : BitVec 4) (read : List WordErrors)
  -- rings
  | submissionDoorbell (port : Nat) (message : Word)
  | consumeDoorbell (port : Nat) (message : Word)
  | descriptorFetch (ring : BitVec 16)
  | descriptorArrival (ring : BitVec 16)
  | admission
  | recordCommit
  | recordWriteAck (ring : BitVec 16) (k : BitVec 24)
  | recordWriteFail (ring : BitVec 16) (k : BitVec 24)
  | deadlineTimeout (target : DeadlineTarget)
  | notifyTimer (ring : BitVec 16)
  | notificationSend (port : Nat)
  | contextQuiesced (c : BitVec 9)
  | ringReset (port : CtlPort) (ring : BitVec 16) (withRestart : Bool)
  | ringRestart (port : CtlPort) (ring : BitVec 16)
  -- trap queue
  | trapqClaim (port : CtlPort) (both : Bool)
  | advance (port : CtlPort)
  | finish (port : CtlPort)
  | retry (port : CtlPort)
  | abort (port : CtlPort)
  | trapqPcWrite (port : CtlPort) (pc : Word)
  | trapDeadlineExpiry (c : BitVec 9)
  -- cinch and seam
  | cinchTicketRead (port : CtlPort) (both : Bool)
  | noteWr (port : CtlPort) (note : BitVec 16)
  | renew (port : CtlPort)
  | release (port : CtlPort)
  | cinchLeaseExpiry
  | shadowWrite (port : CtlPort) (offset : BitVec 24) (value : Word)
  | go (port : CtlPort) (withDiscard : Bool)
  | discard (port : CtlPort)
  | seamDrainEnd
  | seamCopyEnd
  | configImageAck
  | configPointerAck
  -- modes and bring-up
  | maint (port : CtlPort) (alone : Bool)
  | resume (port : CtlPort) (alone : Bool := true)
  | ftest (port : CtlPort) (alone : Bool := true)
  | seal (port : CtlPort) (alone : Bool := true)
  | maintDrainEnd
  | maintDrainLimit
  | powerFailWarning
  | sealReached
  | sealTimeout
  | porRelease (block : BitVec 3) (idcode : BitVec 32) (kill : Bool)
  | porAssert
  | fuseReadDone (words : List Word) (lockstepOk : Bool)
  | keeperReadResponse (tag : BitVec 6) (err : Bool)
  | configImageRead (currentOk otherOk : Bool)
  | restoreRecord (slot : BitVec 17)
  | pilotEntry
  | pilotEnd
  | entropyStartupPass
  | entropyHealthFail (startup adaptive : Bool) (source : BitVec 2)
  | drbgReseed
  | leaseDurable (block : BitVec 14)
  | chargeWaitExpiry (slot : BitVec 17)
  | keeperAckTimeout
  | format (port : CtlPort)
  | formatComplete
  -- central store patrol
  | patrolRead (bank : BitVec 7) (positions : List (BitVec 6)) (flipped : BitVec 6)
  | correctedWriteBack (buf : BitVec 13) (word : BitVec 7)
  -- key updates
  | start (port : CtlPort)
  | updAbort (port : CtlPort)
  | updData (port : CtlPort) (word : Word)
  | updateVerified (id : BitVec 16)
  | updateStaged (id : BitVec 16)
  | updateFlip (id : BitVec 16)
  | stagingWaitExpiry (id : BitVec 16)
  | partnerUpdateAck (id : BitVec 16)
  | enrolReceipt (id : BitVec 16)
  -- faults and recovery
  | hardwareEvent (unit event : BitVec 8) (detail : BitVec 17)
  | correctedEvent (unit event : BitVec 8) (data : BitVec 16)
  | fatalEvent (unit event : BitVec 8) (data : BitVec 16)
  | errPulseEnd
  | pend (port : CtlPort) (unit : BitVec 8)
  | histClr (port : CtlPort) (unit : BitVec 8)
  | unitRst (port : CtlPort) (unit : BitVec 8)
  | unitResetDone (unit : BitVec 8) (passed : Bool)
  | warm (port : CtlPort)
  | blkRst
  | warmBringupStart
  | arm (port : CtlPort) (unit : BitVec 8) (value : Word)
  | faultInjection (unit : BitVec 8)
  -- microcode, curves, board, trace
  | load (port : CtlPort)
  | raiseFloor (port : CtlPort)
  | clear (port : CtlPort)
  | dgbClearEntry (port : CtlPort) (index : BitVec 8)
  | dgbClearAll (port : CtlPort)
  | traceRecordSent
  -- census
  | cenTriggerGo
  | censusPeriod
  | censusMarker (link : BitVec 3) (initiator : BitVec 3) (seq : BitVec 32)
  | censusLatch (offset : BitVec 24)
  | censusComplete
  | censusDoneReceived (link : BitVec 3) (peer : BitVec 3) (seq : BitVec 32)
  | censusPartialTimeout
  -- recorder
  | freeze (port : CtlPort)
  | thaw (port : CtlPort)
  | flush (port : CtlPort)
  | checkpointTimer
  | tokenRefill (code : BitVec 16)
  | freezeAutoThaw
  | recorderUnitAck (err : Bool)
  | recorderStop (ownState : Bool)
  | tombstoneAck (err : Bool)
  | recRdFetch (port : CtlPort) (page : BitVec 16) (unit : BitVec 6)
  | temperatureSample (celsius : BitVec 16)
  | timeRecordTimer
  -- life cycle, debug, power
  | lcArm (port : CtlPort) (target : BitVec 3)
  | lcGo (port : CtlPort) (target : BitVec 3) (withArm : Bool)
  | dbgGo (port : CtlPort) (target : BitVec 2)
  | idle (port : CtlPort) (withRetain : Bool) (woken : Bool := false)
  | retain (port : CtlPort)
  | autoIdle (woken : Bool := false)
  | wakeEvent
  | retentionReady
  | retentionDrainLimit
  | coreSupplyGood
  | resumeDone (lockstepOk : Bool := true)
  | coreGoodFall
  | killLine
  | tgenStep (data : Word := BitVec.allOnes 64)
  | killAckRelease
  | detectorTrip (detector : BitVec 3) (data : BitVec 16)
  | fuseResponse (data : Word) (err : Bool)
  | fuseTimeout
  -- port resets
  | ctlPortReset (port : CtlPort)
  | mmPortReset (port : BitVec 5)
  | portReset (which : ResetPort)
  -- harness
  | helloReceived (link : BitVec 3) (data : BitVec 256)
  | linkTrainRetry (link : BitVec 3)
  | flitReceived (link : BitVec 3) (data : BitVec 256) (control : Word)
  | nakReceived (link : BitVec 3) (ack : BitVec 12)
  | replayTimer (link : BitVec 3)
  | heartbeatSend
  | heartbeatLoss
  | hnsApprStart (port : CtlPort)
  | hnsApprAbort (port : CtlPort)
  | hnsApprData (port : CtlPort) (word : Word)
  | approvalFromPeer (link : BitVec 3) (message : Bytes)
  | pairingCommit
  | linkKeyExchangeDone (link : BitVec 3) (message : Bytes)
  | linkKeyRetry (link : BitVec 3)
  | secureMessage (link : BitVec 3) (sealed tag : Bytes)
  | sharedSlotCopy (link : BitVec 3) (slot : BitVec 17) (counter : Word) (attr limit : Word) (key : Bytes)
  | forwardArrival (link : BitVec 3) (id : BitVec 8) (domain : BitVec 12) (remain : BitVec 32) (descriptor : Block)
  | forwardData (link : BitVec 3) (id : BitVec 8) (data : Bytes) (end_ : Bool)
  | forwardCompletion (link : BitVec 3) (id : BitVec 8) (status flags : BitVec 8) (bytes invocation : Word)
      (attempts : BitVec 8)
  | forwardWithdrawal (link : BitVec 3) (id : BitVec 8)
  | mirrorLeaseRequest (slot : BitVec 17)
  | mirrorLeaseGrant (slot : BitVec 17) (lease : BitVec 33) (own : Bool)
  | mirrorSeamImage (epoch : BitVec 16) (image : Bytes)
  | convergenceDone (counters floors slots : List (Nat × Word)) (ends : List (Nat × Nat) := []) (digest : Bytes := [])
  -- the rest of the table
  | registerWrite (port : CtlPort) (offset : BitVec 24) (be : BitVec 8) (value : Word) (read : Bool := false)
  | reservedOpcode (c : BitVec 9) (word : BitVec 32)
  | keeperWriteAck (tag : BitVec 6) (err : Bool)
  | maskStall (kind : PairKind) (bench : BitVec 3)
  | supplyRemoved (both : Bool)
  | plPortReset (link : BitVec 3)
  | plPhyUpChange (link : BitVec 3) (up : Bool)
  | powerFailWarningClear
deriving DecidableEq, Repr

end Sys2Proof
end

