-- ==== Sys2Proof/Config.lean ====
section
/-! DEFINITION. What the spec leaves to an implementation, or leaves open: opaque constants without a body, so that a claim holds whatever they are. Each is named in the assumption log. -/

namespace Sys2Proof.Config

/-- Free value number n (log 1): a value that the spec leaves undefined. -/
opaque freeWord : Nat → Word

/-- Byte i of free value number n (log 1). -/
opaque freeByte : Nat → Nat → Byte

/-- Whether free choice number n falls one way (log 1). -/
opaque freeBool : Nat → Bool

/-- KCAP6, fixed at sign-off (R17, log 6). -/
opaque coreMhz : BitVec 16
/-- KCAP6.PK_MHZ (log 6). -/
opaque pkMhz : BitVec 16
/-- KCAP6.MM_MHZ (log 6). -/
opaque mmMhz : BitVec 16

/-- Whether an aon_clk edge falls in core clock n (R447, log 2). -/
opaque aonEdge : Nat → Bool

/-- kp_clk, pk_clk and the like in terms of core clocks: cycles of kp_clk in n core clocks (log 8). -/
opaque kpCycles : Nat → Nat
/-- Cycles of pk_clk in n core clocks (log 8). -/
opaque pkCycles : Nat → Nat

/-! ### The test port's inputs (log 153) -/

/-- Whether a rising edge of tck falls in core clock n. -/
opaque tckEdge : Nat → Bool
/-- The level of tms in core clock n. -/
opaque tms : Nat → Bool
/-- The level of tdi in core clock n. -/
opaque tdi : Nat → Bool
/-- The kind and the operand of the instrument that the bits of the instruction register select. -/
opaque tapCode : List Bool → Nat × Nat

/-- Core clocks from core supply good to the release of the logic's reset, at most 4 µs of them (R393, log 154). -/
opaque logicReset : Nat → Nat

/-! ### What a standard or the spec leaves to the design (log 9) -/

/-- The number from which ECDSA signing takes k: 48 B of hedge mixed with d and e, in a way that the spec does not give
(R195). -/
opaque hedge : Bytes → Nat → Nat → Nat

/-- Base number i of the probable-prime tests of a curve: a fixed expansion of its fingerprint that the spec does not give
(R229). -/
opaque mrBase : Bytes → Nat → Nat

end Sys2Proof.Config
end

