-- ==== Sys2Proof/Machine/Bytes.lean ====
section
/-! DEFINITION. Byte strings and numbers: the conversions of R3, and what the standards' algorithms are written from. -/

namespace Sys2Proof.Machine

/-- n zero bytes. -/
def zeros (n : Nat) : Bytes := List.replicate n 0

/-- A byte string of length n made by an indexed function. -/
def mkBytes (n : Nat) (f : Nat → Byte) : Bytes := (List.range n).map f

/-- The little-endian value of a byte string (R3). -/
def leNat : Bytes → Nat
  | [] => 0
  | b :: r => b.toNat + 256 * leNat r

/-- The n-byte little-endian form of a number. -/
def leBytes : Nat → Nat → Bytes
  | 0, _ => []
  | n + 1, v => BitVec.ofNat 8 v :: leBytes n (v / 256)

/-- The n-byte big-endian form of a number. -/
def beBytes (n v : Nat) : Bytes := (leBytes n v).reverse

/-- The big-endian value of a byte string. -/
def beNat (b : Bytes) : Nat := leNat b.reverse

/-- The number in a byte string from an offset. -/
def leAt (b : Bytes) (off n : Nat) : Nat := leNat ((b.drop off).take n)

/-- Round up to whole units. -/
def ceilDiv (a b : Nat) : Nat := (a + b - 1) / b

/-- The bytes of an ASCII string. -/
def ascii (t : String) : Bytes := t.toList.map fun c => BitVec.ofNat 8 c.toNat

/-- Exclusive or of two strings, over the shorter one's length. -/
def xorBytes (a b : Bytes) : Bytes := List.zipWith (· ^^^ ·) a b

/-- A string cut into pieces of n bytes, the last one as long as what is left. -/
def pieces (n : Nat) (b : Bytes) : List Bytes := (List.range (ceilDiv b.length n)).map fun i => (b.drop (n * i)).take n

/-- A string with zeros behind it up to a multiple of n bytes. -/
def padTo (n : Nat) (b : Bytes) : Bytes := b ++ zeros (n * ceilDiv b.length n - b.length)

/-- A number with its low n bits in reverse order. -/
def revNat (n v : Nat) : Nat := (List.range n).foldl (fun r i => 2 * r + v / 2 ^ i % 2) 0

/-! ### Arithmetic modulo a number -/

/-- b to the e modulo n, by the bits of e. -/
def powMod (n : Nat) : Nat → Nat → Nat → Nat → Nat
  | 0, _, _, a => a
  | f + 1, b, e, a => powMod n f (b * b % n) (e / 2) (if e % 2 = 1 then a * b % n else a)

/-- b to the e modulo n, for e of at most k bits. -/
def modExp (k b e n : Nat) : Nat := if b = 0 then 0 else powMod n k (b % n) e (1 % n)

/-- The inverse of a modulo a prime p; 0 for 0. -/
def invMod (p a : Nat) : Nat := powMod p (Nat.log2 p + 1) (a % p) (p - 2) (1 % p)

/-- a - b modulo n, for b below n. -/
def subMod (n a b : Nat) : Nat := (a + (n - b % n)) % n

/-- The largest r of at most k bits for which `small r` holds, by its bits, highest first. -/
def largestNat (small : Nat → Bool) : Nat → Nat → Nat
  | 0, r => r
  | k + 1, r => largestNat small k (if small (r + 2 ^ k) then r + 2 ^ k else r)

/-- Miller-Rabin: n passes the test to the base a (R229). n - 1 is `d` times 2 to the power s. -/
def millerRabin (n a : Nat) : Bool :=
  let s := ((List.range (Nat.log2 n + 1)).find? fun i => (n - 1) / 2 ^ i % 2 = 1).getD 0
  let x := powMod n (Nat.log2 n + 1) (a % n) ((n - 1) / 2 ^ s) 1
  x = 1 || (List.range s).any fun i => powMod n (i + 1) x (2 ^ i) 1 = n - 1

end Sys2Proof.Machine
end

