-- ==== Sys2Proof/Machine/Aes.lean ====
section
/-! DEFINITION. AES (FIPS 197) and the AES modes of R129: CTR and CBC (SP 800-38A), GCM and GMAC (SP 800-38D), CMAC
(SP 800-38B), key wrap (SP 800-38F) and XTS (IEEE 1619), as the spec names them; their text is PRESUMED (log 9). -/

namespace Sys2Proof.Machine

/-! ### The block cipher -/

/-- Multiply by x in the field of AES. -/
def gfDouble (a : Byte) : Byte := (a <<< 1) ^^^ (if a.msb then 0x1B else 0)

/-- The product of two field elements. -/
def gfMul (a b : Byte) : Byte :=
  ((List.range 8).foldl (fun (r : Byte × Byte) i => (if b.getLsbD i then r.1 ^^^ r.2 else r.1, gfDouble r.2)) (0, a)).1

/-- The inverse of a field element, its power 254; 0 for 0. -/
def gfInv (a : Byte) : Byte :=
  let a2 := gfMul a a
  let a4 := gfMul a2 a2
  let a8 := gfMul a4 a4
  let a16 := gfMul a8 a8
  let a32 := gfMul a16 a16
  let a64 := gfMul a32 a32
  gfMul (gfMul (gfMul (gfMul (gfMul (gfMul (gfMul a64 a64) a64) a32) a16) a8) a4) a2

/-- SBOX. -/
def aesSub (a : Byte) : Byte :=
  let i := gfInv a
  i ^^^ i.rotateLeft 1 ^^^ i.rotateLeft 2 ^^^ i.rotateLeft 3 ^^^ i.rotateLeft 4 ^^^ 0x63

/-- INVSBOX. -/
def aesInvSub (a : Byte) : Byte := gfInv (a.rotateLeft 1 ^^^ a.rotateLeft 3 ^^^ a.rotateLeft 6 ^^^ 0x05)

/-- SHIFTROWS by k columns: 1 to encrypt, 3 to decrypt. Byte r + 4c of a block is row r of column c. -/
def aesShift (k : Nat) (b : Bytes) : Bytes := mkBytes 16 fun i => b.getD (i % 4 + 4 * ((i / 4 + k * (i % 4)) % 4)) 0

/-- Each column multiplied by a circulant matrix, given by its first row. -/
def aesMix (row : List Byte) (b : Bytes) : Bytes :=
  mkBytes 16 fun i => (List.range 4).foldl (fun a k => a ^^^ gfMul (row.getD ((k + 4 - i % 4) % 4) 0) (b.getD (i / 4 * 4 + k) 0)) 0

/-- The next word of the key schedule: word i, of a key of n words, behind the words so far. -/
def keyWord (n : Nat) (ws : List Bytes) (i : Nat) : Bytes :=
  let w := ws.getD (i - 1) []
  let t := if i % n = 0 then
      xorBytes ((w.drop 1 ++ w.take 1).map aesSub) [(List.range (i / n - 1)).foldl (fun a _ => gfDouble a) 1, 0, 0, 0]
    else if 6 < n && i % n = 4 then w.map aesSub
    else w
  xorBytes (ws.getD (i - n) []) t

/-- KEYEXPANSION: the round keys of 16 B. -/
def roundKeys (key : Bytes) : List Bytes :=
  let n := key.length / 4
  let ws := (List.range (4 * (n + 7) - n)).foldl (fun ws k => ws ++ [keyWord n ws (n + k)]) (pieces 4 key)
  (List.range (n + 7)).map fun i => ((ws.drop (4 * i)).take 4).flatten

/-- CIPHER under round keys. -/
def aesEnc (rk : List Bytes) (b : Bytes) : Bytes :=
  let last := rk.length - 1
  (List.range last).foldl (fun b i =>
    let c := aesShift 1 (b.map aesSub)
    xorBytes (if i + 1 = last then c else aesMix [2, 3, 1, 1] c) (rk.getD (i + 1) [])) (xorBytes b (rk.headD []))

/-- INVCIPHER. -/
def aesDec (rk : List Bytes) (b : Bytes) : Bytes :=
  let last := rk.length - 1
  (List.range last).foldl (fun b i =>
    let c := xorBytes ((aesShift 3 b).map aesInvSub) (rk.getD (last - 1 - i) [])
    if i + 1 = last then c else aesMix [14, 11, 13, 9] c) (xorBytes b (rk.getD last []))

/-! ### CTR and CBC -/

/-- The key stream of n bytes from a 128-bit counter of which the low `w` bits count. -/
def ctrStream (rk : List Bytes) (w ctr n : Nat) : Bytes :=
  ((List.range (ceilDiv n 16)).flatMap fun i =>
    aesEnc rk (beBytes 16 (ctr / 2 ^ w * 2 ^ w + (ctr + i) % 2 ^ w))).take n

/-- CTR with a whole counter (R133). -/
def aesCtr (key iv msg : Bytes) : Bytes := xorBytes msg (ctrStream (roundKeys key) 128 (beNat iv) msg.length)

/-- CBC, encryption. -/
def cbcEnc (key iv msg : Bytes) : Bytes :=
  let rk := roundKeys key
  ((pieces 16 msg).foldl (fun (r : Bytes × Bytes) b => let c := aesEnc rk (xorBytes b r.2); (r.1 ++ c, c)) ([], iv)).1

/-- CBC, decryption. -/
def cbcDec (key iv msg : Bytes) : Bytes :=
  let rk := roundKeys key
  ((pieces 16 msg).foldl (fun (r : Bytes × Bytes) c => (r.1 ++ xorBytes (aesDec rk c) r.2, c)) ([], iv)).1

/-! ### GCM -/

/-- The product of two blocks as GHASH takes them: bit 0 of a block is the most significant bit of its first byte. -/
def ghashMul (x y : Nat) : Nat :=
  ((List.range 128).foldl (fun (r : Nat × Nat) i =>
    (if x / 2 ^ (127 - i) % 2 = 1 then r.1 ^^^ r.2 else r.1,
     if r.2 % 2 = 1 then (r.2 / 2) ^^^ (0xE1 * 2 ^ 120) else r.2 / 2)) (0, y)).1

/-- GHASH. -/
def ghash (h : Nat) (b : Bytes) : Nat := (pieces 16 b).foldl (fun y c => ghashMul (y ^^^ beNat c) h) 0

/-- The first counter block of a 96-bit IV. -/
def gcmStart (iv : Bytes) : Nat := beNat iv * 2 ^ 32 + 1

/-- GCM, either direction: the output that the input gives. -/
def gcmOut (key iv msg : Bytes) : Bytes :=
  let j := gcmStart iv
  xorBytes msg (ctrStream (roundKeys key) 32 (j / 2 ^ 32 * 2 ^ 32 + (j + 1) % 2 ^ 32) msg.length)

/-- The tag of GCM over additional data and ciphertext. -/
def gcmTag (key iv aad ct : Bytes) : Bytes :=
  let rk := roundKeys key
  let s := ghash (beNat (aesEnc rk (zeros 16))) (padTo 16 aad ++ padTo 16 ct ++ beBytes 8 (8 * aad.length) ++ beBytes 8 (8 * ct.length))
  xorBytes (beBytes 16 s) (aesEnc rk (beBytes 16 (gcmStart iv)))

/-! ### CMAC -/

/-- A subkey from a block, doubled in the field of CMAC. -/
def cmacDouble (b : Bytes) : Bytes :=
  let v := beNat b
  beBytes 16 ((2 * v % 2 ^ 128) ^^^ (if 2 ^ 127 ≤ v then 0x87 else 0))

/-- CMAC. -/
def aesCmac (key msg : Bytes) : Bytes :=
  let rk := roundKeys key
  let k1 := cmacDouble (aesEnc rk (zeros 16))
  let n := 16 * (ceilDiv msg.length 16 - 1)
  let rest := msg.drop n
  let last := if rest.length = 16 then xorBytes rest k1 else xorBytes (rest ++ [0x80] ++ zeros (15 - rest.length)) (cmacDouble k1)
  ((pieces 16 (msg.take n)) ++ [last]).foldl (fun y b => aesEnc rk (xorBytes y b)) (zeros 16)

/-! ### Key wrap -/

/-- The standard's initial value. -/
def kwInit : Bytes := List.replicate 8 0xA6

/-- Wrap: the 6n steps over A and the semiblocks. -/
def kwWrap (key : Bytes) (p : List Bytes) : Bytes × List Bytes :=
  let rk := roundKeys key
  let n := p.length
  (List.range (6 * n)).foldl (fun (a : Bytes × List Bytes) t =>
    let b := aesEnc rk (a.1 ++ a.2.getD (t % n) [])
    (xorBytes (b.take 8) (beBytes 8 (t + 1)), a.2.set (t % n) (b.drop 8))) (kwInit, p)

/-- Unwrap: the steps in reverse, from C0 and C1 to Cn. -/
def kwUnwrap (key c0 : Bytes) (c : List Bytes) : Bytes × List Bytes :=
  let rk := roundKeys key
  let n := c.length
  ((List.range (6 * n)).reverse).foldl (fun (a : Bytes × List Bytes) t =>
    let b := aesDec rk (xorBytes a.1 (beBytes 8 (t + 1)) ++ a.2.getD (t % n) [])
    (b.take 8, a.2.set (t % n) (b.drop 8))) (c0, c)

/-! ### XTS -/

/-- A tweak block multiplied by x; blocks are little-endian numbers (IEEE 1619). -/
def xtsDouble (b : Bytes) : Bytes :=
  let v := leNat b
  leBytes 16 ((2 * v % 2 ^ 128) ^^^ (if 2 ^ 127 ≤ v then 0x87 else 0))

/-- One block under its tweak block. -/
def xtsBlock (rk : List Bytes) (dec : Bool) (t b : Bytes) : Bytes :=
  xorBytes t (if dec then aesDec rk (xorBytes b t) else aesEnc rk (xorBytes b t))

/-- One data unit of at least 16 B, its last part by ciphertext stealing (R132). K1 and K2 are the halves of the key. -/
def xtsUnitOut (key : Bytes) (dec : Bool) (tweak : Nat) (unit : Bytes) : Bytes :=
  let rk := roundKeys (key.take (key.length / 2))
  let t0 := aesEnc (roundKeys (key.drop (key.length / 2))) (leBytes 16 tweak)
  let full := unit.length / 16
  let r := unit.length % 16
  let ts := ((List.range full).foldl (fun (a : List Bytes × Bytes) _ => (a.1 ++ [a.2], xtsDouble a.2)) ([], t0))
  let plain := if r = 0 then full else full - 1
  let head := ((pieces 16 (unit.take (16 * plain))).zip ts.1).flatMap fun p => xtsBlock rk dec p.2 p.1
  if r = 0 then head
  else
    let tm := ts.1.getLastD []
    let tn := ts.2
    let b := (unit.drop (16 * plain)).take 16
    let c := xtsBlock rk dec (if dec then tn else tm) b
    head ++ xtsBlock rk dec (if dec then tm else tn) (unit.drop (16 * full) ++ c.drop r) ++ c.take r

end Sys2Proof.Machine
end

