-- ==== Sys2Proof/Machine/ChaCha.lean ====
section
/-! DEFINITION. ChaCha20-Poly1305 (RFC 8439), as R129 names it; its text is PRESUMED (log 9). -/

namespace Sys2Proof.Machine

/-- One quarter round on words a, b, c, d of the state. -/
def chachaQuarter (s : List (BitVec 32)) (q : Nat × Nat × Nat × Nat) : List (BitVec 32) :=
  let step := fun (s : List (BitVec 32)) (x y z r : Nat) =>
    let s := s.set x (s.getD x 0 + s.getD y 0)
    s.set z ((s.getD z 0 ^^^ s.getD x 0).rotateLeft r)
  let (a, b, c, d) := q
  step (step (step (step s a b d 16) c d b 12) a b d 8) c d b 7

/-- Two rounds: the columns, then the diagonals. -/
def chachaDouble (s : List (BitVec 32)) : List (BitVec 32) :=
  [(0, 4, 8, 12), (1, 5, 9, 13), (2, 6, 10, 14), (3, 7, 11, 15), (0, 5, 10, 15), (1, 6, 11, 12), (2, 7, 8, 13), (3, 4, 9, 14)].foldl
    chachaQuarter s

/-- One 64 B block of the key stream. -/
def chachaBlock (key nonce : Bytes) (ctr : Nat) : Bytes :=
  let init := (pieces 4 (ascii "expand 32-byte k" ++ key ++ leBytes 4 ctr ++ nonce)).map fun b => BitVec.ofNat 32 (leNat b)
  let out := (List.range 10).foldl (fun s _ => chachaDouble s) init
  (List.zipWith (· + ·) out init).flatMap fun w => leBytes 4 w.toNat

/-- ChaCha20 from counter 1, either direction. -/
def chachaOut (key nonce msg : Bytes) : Bytes :=
  xorBytes msg ((List.range (ceilDiv msg.length 64)).flatMap fun i => chachaBlock key nonce (i + 1))

/-- Poly1305 under its 32 B one-time key. -/
def poly1305 (key msg : Bytes) : Bytes :=
  let p := 2 ^ 130 - 5
  let r := leNat (key.take 16) &&& 0x0FFFFFFC0FFFFFFC0FFFFFFC0FFFFFFF
  let a := (pieces 16 msg).foldl (fun a b => (a + leNat b + 256 ^ b.length) * r % p) 0
  leBytes 16 (a + leNat (key.drop 16))

/-- The tag over additional data and ciphertext. -/
def chachaTag (key nonce aad ct : Bytes) : Bytes :=
  poly1305 ((chachaBlock key nonce 0).take 32) (padTo 16 aad ++ padTo 16 ct ++ leBytes 8 aad.length ++ leBytes 8 ct.length)

end Sys2Proof.Machine
end

