-- ==== Sys2Proof/Machine/Sha.lean ====
section
/-! DEFINITION. SHA-2 (FIPS 180-4) with HMAC (FIPS 198-1), and Keccak with SHA-3 and SHAKE (FIPS 202), cSHAKE, KMAC and
ParallelHash (SP 800-185), as R169 names them; their text is PRESUMED (log 9). -/

namespace Sys2Proof.Machine

/-! ### SHA-2 -/

/-- The first primes: 80 of them are below 410. -/
def smallPrimes : List Nat := (List.range 410).filter fun n => 2 ≤ n && (List.range 21).all fun d => d < 2 || n ≤ d || n % d != 0

/-- The first w bits of the fractional part of the square root (k = 2) or cube root (k = 3) of a number. -/
def rootBits (w k n : Nat) : Nat := largestNat (fun r => r ^ k ≤ n * 2 ^ (k * w)) (w + 6) 0 % 2 ^ w

/-- The round constants: fractional parts of cube roots. -/
def shaK (w : Nat) : List (BitVec w) :=
  (smallPrimes.take (if w = 32 then 64 else 80)).map fun p => BitVec.ofNat w (rootBits w 3 p)

/-- A function of two rotations and a shift, or of three rotations (the shift 0). -/
def shaSigma {w : Nat} (x : BitVec w) (a b c : Nat) (shift : Bool) : BitVec w :=
  x.rotateRight a ^^^ x.rotateRight b ^^^ (if shift then x >>> c else x.rotateRight c)

/-- The message schedule of one block. -/
def shaSchedule {w : Nat} (b : List (BitVec w)) (n : Nat) : List (BitVec w) :=
  (List.range (n - 16)).foldl (fun ws t =>
    let x := ws.getD (t + 14) 0
    let y := ws.getD (t + 1) 0
    let s1 := if w = 32 then shaSigma x 17 19 10 true else shaSigma x 19 61 6 true
    let s0 := if w = 32 then shaSigma y 7 18 3 true else shaSigma y 1 8 7 true
    ws ++ [s1 + ws.getD (t + 9) 0 + s0 + ws.getD t 0]) b

/-- One round over the working variables a to h. -/
def shaRound {w : Nat} (v : List (BitVec w)) (kw : BitVec w × BitVec w) : List (BitVec w) :=
  match v with
  | [a, b, c, d, e, f, g, h] =>
    let s1 := if w = 32 then shaSigma e 6 11 25 false else shaSigma e 14 18 41 false
    let s0 := if w = 32 then shaSigma a 2 13 22 false else shaSigma a 28 34 39 false
    let t1 := h + s1 + ((e &&& f) ^^^ (~~~e &&& g)) + kw.1 + kw.2
    let t2 := s0 + ((a &&& b) ^^^ (a &&& c) ^^^ (b &&& c))
    [t1 + t2, a, b, c, d + t1, e, f, g]
  | _ => v

/-- SHA-2 with w-bit words from an initial hash value: the whole final value. -/
def sha2 (w : Nat) (init : List (BitVec w)) (msg : Bytes) : Bytes :=
  let k := shaK w
  let block := 2 * w
  let room := (msg.length + 1 + w / 4) % block
  let padded := msg ++ [0x80] ++ zeros (if room = 0 then 0 else block - room) ++ beBytes (w / 4) (8 * msg.length)
  let h := (pieces block padded).foldl (fun h b =>
    let ws := shaSchedule ((pieces (w / 8) b).map fun x => BitVec.ofNat w (beNat x)) k.length
    List.zipWith (· + ·) h ((k.zip ws).foldl shaRound h)) init
  h.flatMap fun x => beBytes (w / 8) x.toNat

/-- Fractional parts of square roots of eight primes from a position. -/
def shaInit (w from_ : Nat) : List (BitVec w) := ((smallPrimes.drop from_).take 8).map fun p => BitVec.ofNat w (rootBits w 2 p)

/-- SHA-256. -/
def sha256 (b : Bytes) : Bytes := sha2 32 (shaInit 32 0) b
/-- SHA-224: its initial value is the low half of SHA-384's words. -/
def sha224 (b : Bytes) : Bytes := (sha2 32 ((shaInit 64 8).map (·.setWidth 32)) b).take 28
/-- SHA-512. -/
def sha512 (b : Bytes) : Bytes := sha2 64 (shaInit 64 0) b
/-- SHA-384. -/
def sha384 (b : Bytes) : Bytes := (sha2 64 (shaInit 64 8) b).take 48

/-- HMAC over a hash with blocks of n bytes. -/
def hmac (hash : Bytes → Bytes) (n : Nat) (key msg : Bytes) : Bytes :=
  let k := (if n < key.length then hash key else key)
  let k := k ++ zeros (n - k.length)
  hash (k.map (· ^^^ 0x5C) ++ hash (k.map (· ^^^ 0x36) ++ msg))

/-! ### Keccak -/

/-- Bit t of the sequence that the round constants are made of. -/
def keccakBit (t : Nat) : Bool :=
  ((List.range (t % 255)).foldl (fun (r : Nat) _ => if 128 ≤ r then (2 * r) % 256 ^^^ 0x71 else 2 * r) 1) % 2 = 1

/-- The constant of round i. -/
def keccakRc (i : Nat) : BitVec 64 :=
  (List.range 7).foldl (fun (r : BitVec 64) j => if keccakBit (j + 7 * i) then r ||| (1#64 <<< (2 ^ j - 1)) else r) 0

/-- The rotation of each lane, from the walk of FIPS 202. -/
def keccakRho : List Nat :=
  ((List.range 24).foldl (fun (r : List Nat × Nat × Nat) t =>
    let (l, x, y) := r
    (l.set (x + 5 * y) ((t + 1) * (t + 2) / 2 % 64), y, (2 * x + 3 * y) % 5)) (List.replicate 25 0, 1, 0)).1

/-- One round on 25 lanes; lane x + 5y. -/
def keccakRound (a : List (BitVec 64)) (rc : BitVec 64) : List (BitVec 64) :=
  let col := (List.range 5).map fun x => (List.range 5).foldl (fun s y => s ^^^ a.getD (x + 5 * y) 0) 0
  let d := (List.range 5).map fun x => col.getD ((x + 4) % 5) 0 ^^^ (col.getD ((x + 1) % 5) 0).rotateLeft 1
  let rho := keccakRho
  -- theta, rho and pi: lane (x, y) of the result comes from lane (x + 3y, x)
  let b := (List.range 25).map fun i =>
    let x := i % 5
    let y := i / 5
    let j := (x + 3 * y) % 5 + 5 * x
    (a.getD j 0 ^^^ d.getD (j % 5) 0).rotateLeft (rho.getD j 0)
  let c := (List.range 25).map fun i =>
    let x := i % 5
    let y := i / 5
    b.getD i 0 ^^^ (~~~(b.getD ((x + 1) % 5 + 5 * y) 0) &&& b.getD ((x + 2) % 5 + 5 * y) 0)
  match c with
  | [] => []
  | z :: r => (z ^^^ rc) :: r

/-- Keccak-f[1600] on 200 B. -/
def keccakF (b : Bytes) : Bytes :=
  let a := (pieces 8 b).map fun x => BitVec.ofNat 64 (leNat x)
  (((List.range 24).map keccakRc).foldl keccakRound a).flatMap fun x => leBytes 8 x.toNat

/-- n rate blocks squeezed from a state. -/
def squeeze (rate : Nat) : Nat → Bytes → Bytes
  | 0, _ => []
  | n + 1, s => s.take rate ++ (if n = 0 then [] else squeeze rate n (keccakF s))

/-- The sponge with a rate, a domain suffix that takes the first bit of the padding, and an output length. -/
def sponge (rate : Nat) (suffix : Byte) (msg : Bytes) (n : Nat) : Bytes :=
  let fill := rate - msg.length % rate
  let padded := if fill = 1 then msg ++ [suffix ^^^ 0x80] else msg ++ [suffix] ++ zeros (fill - 2) ++ [0x80]
  let s := (pieces rate padded).foldl (fun s b => keccakF (xorBytes s (b ++ zeros (200 - rate)))) (zeros 200)
  (squeeze rate (ceilDiv n rate) s).take n

/-- SHA-3 with an n-byte result. -/
def sha3 (n : Nat) (b : Bytes) : Bytes := sponge (200 - 2 * n) 0x06 b n
/-- SHAKE128. -/
def shake128 (b : Bytes) (n : Nat) : Bytes := sponge 168 0x1F b n
/-- SHAKE256. -/
def shake256 (b : Bytes) (n : Nat) : Bytes := sponge 136 0x1F b n

/-! ### SP 800-185 -/

/-- The bytes of a number, big-endian, at least one. -/
def numBytes (x : Nat) : Bytes := beBytes (max 1 (ceilDiv (if x = 0 then 0 else Nat.log2 x + 1) 8)) x
/-- left_encode. -/
def leftEncode (x : Nat) : Bytes := BitVec.ofNat 8 (numBytes x).length :: numBytes x
/-- right_encode. -/
def rightEncode (x : Nat) : Bytes := numBytes x ++ [BitVec.ofNat 8 (numBytes x).length]
/-- encode_string. -/
def encodeString (b : Bytes) : Bytes := leftEncode (8 * b.length) ++ b
/-- bytepad. -/
def bytepad (b : Bytes) (w : Nat) : Bytes := padTo w (leftEncode w ++ b)

/-- cSHAKE with a rate of 168 or 136 B, function name and customization. -/
def cshake (rate : Nat) (name cust msg : Bytes) (n : Nat) : Bytes :=
  if name = [] && cust = [] then sponge rate 0x1F msg n
  else sponge rate 0x04 (bytepad (encodeString name ++ encodeString cust) rate ++ msg) n

/-- KMAC (R179). -/
def kmac (rate : Nat) (key cust msg : Bytes) (n : Nat) : Bytes :=
  cshake rate (ascii "KMAC") cust (bytepad (encodeString key) rate ++ msg ++ rightEncode (8 * n)) n

/-- ParallelHash with blocks of `size` bytes (R176, R177). -/
def parallelHash (rate size : Nat) (cust msg : Bytes) (n : Nat) : Bytes :=
  let blocks := pieces size msg
  let z := leftEncode size ++ blocks.flatMap (fun b => sponge rate 0x1F b (if rate = 168 then 32 else 64)) ++
    rightEncode blocks.length ++ rightEncode (8 * n)
  cshake rate (ascii "ParallelHash") cust z n

end Sys2Proof.Machine
end

