-- ==== Sys2Proof/Machine/Standards.lean ====
section
/-! DEFINITION. The modes of R129 and the algorithms of R169 by their codes, over the standards that the spec names. -/

namespace Sys2Proof.Machine

/-! ### Ciphers (R129, R132 to R135) -/

/-- What a cipher function depends on: mode, direction (true: decrypt or verify), key, IV or tweak, additional data or C0 of
an unwrap, and the input so far. -/
structure CipherIn where
  mode : BitVec 8
  dir : Bool
  key : Bytes
  iv : Bytes
  aad : Bytes
  msg : Bytes
deriving DecidableEq, Repr

/-- The output that an input gives. -/
def cipherOutput (i : CipherIn) : Bytes :=
  match i.mode.toNat with
  | 1 => gcmOut i.key i.iv i.msg
  | 3 => xtsUnitOut i.key i.dir (leNat i.iv) i.msg
  | 4 => aesCtr i.key i.iv i.msg
  | 5 => if i.dir then cbcDec i.key i.iv i.msg else cbcEnc i.key i.iv i.msg
  | 7 => (if i.dir then kwUnwrap i.key i.aad (pieces 8 i.msg) else kwWrap i.key (pieces 8 i.msg)).2.flatten
  | 16 => chachaOut i.key i.iv i.msg
  | _ => []

/-- The whole tag or MAC of an input, or C0 of a wrap. A tag is over the ciphertext, whichever side it stands on. -/
def cipherTag (i : CipherIn) : Bytes :=
  let ct := if i.dir then i.msg else cipherOutput i
  match i.mode.toNat with
  | 1 => gcmTag i.key i.iv i.aad ct
  | 2 => gcmTag i.key i.iv (i.aad ++ i.msg) []
  | 6 => aesCmac i.key i.msg
  | 7 => (kwWrap i.key (pieces 8 i.msg)).1
  | 16 => chachaTag i.key i.iv i.aad ct
  | _ => []

/-- An unwrap recovers the standard's initial value (R134). -/
def unwrapOk (key c0 c : Bytes) : Bool := (kwUnwrap key c0 (pieces 8 c)).1 = kwInit

/-! ### Digests (R169, R173, R174, R176, R179) -/

/-- What a digest depends on: algorithm, key, strings S and N, ParallelHash block size, message. -/
structure DigestIn where
  alg : BitVec 8
  key : Bytes
  cust : Bytes
  name : Bytes
  blockLog2 : Nat
  msg : Bytes
deriving DecidableEq, Repr

/-- A result of n bytes: the leading bytes of a fixed one, or an output of that length. -/
def digestOf (i : DigestIn) (n : Nat) : Bytes :=
  let m := i.msg
  match i.alg.toNat with
  | 0x01 => (sha224 m).take n
  | 0x02 => (sha256 m).take n
  | 0x03 => (sha384 m).take n
  | 0x04 => (sha512 m).take n
  | 0x08 => (sha3 28 m).take n
  | 0x09 => (sha3 32 m).take n
  | 0x0A => (sha3 48 m).take n
  | 0x0B => (sha3 64 m).take n
  | 0x0C => shake128 m n
  | 0x0D => shake256 m n
  | 0x0E => cshake 168 i.name i.cust m n
  | 0x0F => cshake 136 i.name i.cust m n
  | 0x10 => parallelHash 168 (2 ^ i.blockLog2) i.cust m n
  | 0x11 => parallelHash 136 (2 ^ i.blockLog2) i.cust m n
  | 0x20 => (hmac sha256 64 i.key m).take n
  | 0x21 => (hmac sha384 128 i.key m).take n
  | 0x22 => (hmac sha512 128 i.key m).take n
  | 0x28 => kmac 168 i.key i.cust m n
  | 0x29 => kmac 136 i.key i.cust m n
  | _ => []

/-! ### The DRBG (R244): CTR_DRBG of SP 800-90A, AES-256 with the derivation function -/

/-- The working state: Key and V. -/
structure Drbg where
  key : Bytes := zeros 32
  v : Bytes := zeros 16
deriving DecidableEq, Repr

/-- 48 B of the block cipher from a counter, each block under the next value of it. -/
def drbgBlocks (d : Drbg) (n : Nat) : Bytes :=
  ctrStream (roundKeys d.key) 128 ((beNat d.v + 1) % 2 ^ 128) n

/-- CTR_DRBG_Update. -/
def Drbg.update (d : Drbg) (data : Bytes) : Drbg :=
  let t := xorBytes (drbgBlocks d 48) data
  { key := t.take 32, v := t.drop 32 }

/-- Block_Cipher_df to 48 B. -/
def drbgDerive (input : Bytes) : Bytes :=
  let s := padTo 16 (beBytes 4 input.length ++ beBytes 4 48 ++ input ++ [0x80])
  let rk := roundKeys (mkBytes 32 fun i => BitVec.ofNat 8 i)
  let bcc := fun i => (pieces 16 (beBytes 4 i ++ zeros 12 ++ s)).foldl (fun y b => aesEnc rk (xorBytes y b)) (zeros 16)
  let t := bcc 0 ++ bcc 1 ++ bcc 2
  let rk := roundKeys (t.take 32)
  let x1 := aesEnc rk (t.drop 32)
  let x2 := aesEnc rk x1
  x1 ++ x2 ++ aesEnc rk x2

/-- Instantiate from entropy and a personalization string, or reseed with an empty one. -/
def Drbg.seed (d : Drbg) (entropy personal : Bytes) : Drbg := d.update (drbgDerive (entropy ++ personal))

/-- One generate request for n bytes. -/
def Drbg.generate (d : Drbg) (n : Nat) : Bytes × Drbg :=
  (drbgBlocks d n, ({ d with v := beBytes 16 ((beNat d.v + ceilDiv n 16) % 2 ^ 128) } : Drbg).update (zeros 48))

end Sys2Proof.Machine
end

