-- ==== Sys2Proof/Machine/State.lean ====
section
/-! DEFINITION. The state of Kalnader as plain data, with the state at power-on reset, the reasons a command can stop,
and the sparse tables that hold the block's many entries. -/

namespace Sys2Proof.Machine

/-- Why a command stops the machine. -/
inductive Fault where
  /-- Raised by a doorbell, notification or port-reset command that names a doorbell port above 95: R428 gives 96 ports,
  so the command names nothing. Safe: the hardware has no such event. -/
  | noSuchPort
deriving DecidableEq, Repr

/-- Why a command has no meaning here. -/
inductive Refusal where
  /-- The command named by the string has no meaning in this model yet. Safe: nothing is claimed of it. -/
  | notModelled (mnemonic : String)
deriving DecidableEq, Repr

/-- A sparse table in one canonical form: keys strictly rising, no entry at the default value. -/
abbrev Table (α : Type) := List (Nat × α)

/-- A byte memory in the canonical form of a table, an unlisted byte reading 0. -/
abbrev Memory := List Host.Cell

/-! ### Time -/

/-- Counts of time: core clocks, aon_clk periods since Cold (R343), and the operating time and power cycles of R302. -/
structure Clock where
  core : Nat := 0
  aon : Nat := 0
  opBase : Nat := 0  -- operating seconds of the time record read at bring-up
  op : Nat := 0  -- aon_clk periods out of Cold and Off since then
  cycles : BitVec 32 := 0
deriving DecidableEq, Repr

/-! ### Modes and bring-up -/

/-- The operating modes of R322. -/
inductive Mode where
  | cold | pilot | full | degraded | seal | held | maint | ftest
deriving DecidableEq, Repr

/-- Where the keeper reads of bring-up stand, in the order of R303. -/
inductive BringPhase where
  | off | fuses | head | counters | image | imageHash | tackDir | tackBodies | tackLeases | slotDir | leaseArea | bodies
  | done
deriving DecidableEq, Repr

/-- Progress of bring-up (R327, R329). -/
structure Bringup where
  phase : BringPhase := .off
  unit : Nat := 0  -- next 64 B unit of the phase
  startedAt : Nat := 0  -- core clock of the release
  fusesDone : Bool := false
  entropyDone : Bool := false  -- the start-up tests have passed or failed
  pilotSetDone : Bool := false
  fullSetDone : Bool := false
  pilotAt : Nat := 0
  fullAt : Nat := 0  -- core clock at which the last record of the Full set was restored, or the keeper was fenced
  queue : List Nat := []  -- slots whose bodies are still to be restored in this phase
  tackWrites : List Nat := []  -- lease blocks of step 8 not yet acknowledged
  warm : Bool := false  -- this bring-up follows a block warm reset
deriving DecidableEq, Repr

/-- The mode controller (unit 0x8B). -/
structure ModeCtl where
  mode : Mode := .cold
  por : Bool := true  -- por_n is low (R449)
  draining : Bool := false
  drainAt : Nat := 0  -- core clock at which a drain, of Maintenance or of Retention, began
  sealed : Bool := false
  sealLate : Bool := false  -- the limit of this Seal has passed (R335)
  sealSrc : BitVec 2 := 0
  sealAt : Nat := 0
  pfw : Bool := false
  warm : Bool := false
  noKeeper : Bool := false
  budgetMiss : Bool := false
  cfg : Word := 0x0064#64  -- MODE_CFG
  pilotUs : BitVec 32 := 0
  fullUs : BitVec 32 := 0
  sealWrites : BitVec 16 := 0
  lastClk : BitVec 32 := 0
  bring : Bringup := {}
deriving DecidableEq, Repr

/-! ### Cinch and seam -/

/-- The cinch (R308 to R312). -/
structure Cinch where
  owner : Option CtlPort := none
  gen : BitVec 16 := 0
  note : BitVec 16 := 0
  lease : Word := 0x03E8#64  -- CINCH_LEASE
  leaseEnd : Nat := 0  -- in aon_clk periods
  broken : Bool := false
  discarded : Bool := false
  cause : BitVec 3 := 0
  deniedA : BitVec 16 := 0
  deniedB : BitVec 16 := 0
  lastTie : CtlPort := .ctlb  -- winner of the previous tie of ticket reads
deriving DecidableEq, Repr

/-- SEAM_STATUS.STATE. -/
inductive SeamState where
  | ready | draining | copying
deriving DecidableEq, Repr

/-- The seam (R313 to R320). -/
structure Seam where
  st : SeamState := .ready
  epoch : BitVec 16 := 0
  oldEpoch : BitVec 16 := 0
  cmdGen : BitVec 16 := 0
  result : BitVec 4 := 0
  editLost : Bool := false
  dirty : Bool := false
  lastDrain : BitVec 32 := 0
  seamAt : Nat := 0
  copyAt : Nat := 0
deriving DecidableEq, Repr

/-- A configuration set (R313): every shadowed 64-bit word, keyed by its register offset divided by 8. -/
abbrev CfgSet := Table Word

/-! ### Rings -/

/-- State of one fetched descriptor that is not yet admitted or committed (R46, R54). -/
inductive FetchState where
  | issued      -- the fetch is outstanding
  | cut         -- outstanding, issued before its ring was stopped or lost (R54)
  | held        -- its data has returned and awaits its check
  | late        -- the data of a cut fetch has returned
  | waiting     -- valid, waiting for admission
deriving DecidableEq, Repr

/-- One fetched descriptor. -/
structure Fetched where
  k : BitVec 24
  st : FetchState
  desc : Block
  t0 : Nat  -- core clock in which its data returned, and its deadline cycle (R62)
  epoch : BitVec 16
  deadline : Option Nat := none
deriving DecidableEq, Repr

/-- A completion record (R57), and whether its descriptor asked for NOTIFY_NOW. -/
structure CplRecord where
  status : BitVec 8
  flags : BitVec 8
  epoch : BitVec 16
  tag : BitVec 32
  bytes : Word
  invocation : Word
  duration : BitVec 32
  attempts : BitVec 8
  notifyNow : Bool
deriving DecidableEq, Repr

/-- A committed record whose write is not yet acknowledged (R59). -/
structure CplWrite where
  k : BitVec 24
  record : CplRecord
  issued : Bool
  done : Bool
deriving DecidableEq, Repr

/-- The live state of one ring (R41). `next` counts the records committed (slots assigned), `commit` those counted. -/
structure Ring where
  tail : BitVec 24 := 0
  head : BitVec 24 := 0
  commit : BitVec 24 := 0
  consumed : BitVec 24 := 0
  next : BitVec 24 := 0
  stopped : Bool := false
  lostCpl : BitVec 16 := 0
  dropBad : BitVec 16 := 0
  dropPort : BitVec 16 := 0
  fetched : List Fetched := []
  open_ : List (BitVec 24) := []  -- entries fetched whose records have not committed (R54)
  writes : List CplWrite := []
  unnotified : Nat := 0
  oldest : Nat := 0
  notifyNow : Bool := false
  due : Bool := false  -- a notification is due and not yet queued (R61, R436)
  inFlight : Nat := 0  -- admitted requests of the ring not yet committed
deriving DecidableEq, Repr

/-- Deficit round robin at one shared engine (R34): the credit of each domain and the domain being served. -/
structure Arb where
  credit : Table Int := []
  turn : Nat := 0
deriving DecidableEq, Repr

/-- A record that is ready to commit (R55, R83): of a context, or of an entry never granted one, with its deadline cycle,
and its admission when it was forwarded (R417). -/
inductive Ready where
  | context (c : Nat)
  | never (ring : BitVec 16) (k : BitVec 24) (record : CplRecord) (deadline : Option Nat)
      (forwarded : Option (Nat × Nat))  -- its admission and its mask (R360, R417)
deriving DecidableEq, Repr

/-- The ring manager (unit 0x85). -/
structure RingMgr where
  cfg : Word := 0x0640#64  -- RING_MGR_CFG
  arb : Arb := {}
  ringTurn : Table Nat := []  -- domain to the ring served last
  lastBench : Nat := 7
  ready : List Ready := []
  readyAt : Nat := 0  -- the core clock in which a record last became ready (R55)
  readyNew : List Ready := []  -- those that did in it
  admitted : Word := 0  -- requests admitted since reset (R380, log 44)
  admitAt : Nat := 0  -- the first core clock in which another request can be admitted (R55)
  commitAt : Nat := 0  -- the first core clock in which another record can commit (R55)
deriving DecidableEq, Repr

/-- One doorbell port (R435, R436). -/
structure DbPort where
  out : List (BitVec 16 × BitVec 24) := []
  cntIn : BitVec 32 := 0
  cntOut : BitVec 32 := 0
  inReset : Bool := false
  held : List Word := []  -- doorbells whose senders hold them while ready is low, oldest first (R429, R435)
deriving DecidableEq, Repr

/-! ### Awl contexts -/

/-- The states of a context (R67). -/
inductive CtxState where
  | free | ready | waiting | trapped | quiescing
deriving DecidableEq, Repr

/-- What holds a WAITING context: a WAIT (R82), or a full engine queue with the instruction it holds (R81). -/
inductive Hold where
  | none
  | wait (rd : BitVec 5) (set : BitVec 16) (any : Bool) (timeout : Option Nat)
  | queue (i : Instr)
deriving DecidableEq, Repr

/-- The six flags (R78). -/
structure Flags where
  z : Bool := false
  n : Bool := false
  c : Bool := false
  v : Bool := false
  dz : Bool := false
  t : Bool := false
deriving DecidableEq, Repr

/-- The repeat engine of a context (R84 to R86). -/
structure Repeat where
  remain : BitVec 32 := 0
  lcWritten : Bool := false
deriving DecidableEq, Repr

/-- The states of a ticket (R80). -/
inductive TicketState where
  | free | pending | done
deriving DecidableEq, Repr

/-- One ticket. `verdict` marks a verdict ticket (R78). -/
structure Ticket where
  st : TicketState := .free
  status : BitVec 8 := 0
  result : Word := 0
  verdict : Bool := false
deriving DecidableEq, Repr

/-- The states of a buffer handle (R73, R123). -/
inductive HandleState where
  | closed | allocating | live | freeing
deriving DecidableEq, Repr

/-- One handle: its map of buffers (R285). -/
structure Handle where
  st : HandleState := .closed
  count : Nat := 0
  bufs : List Nat := []
deriving DecidableEq, Repr

/-- A cipher stream (R117, R143). Its chaining state is held as the input it has taken so far. -/
structure CipherStream where
  num : Nat := 0                    -- STREAM, 0-3
  isOpen : Bool := false            -- open for issue
  started : Bool := false           -- its FIRST job has started
  failed : Option (BitVec 8) := none
  ending : Option (BitVec 8) := none -- a later job has failed while earlier ones are not done: the status it leaves (R117)
  mode : BitVec 8 := 0
  dir : Bool := false
  slot : BitVec 17 := 0
  rel : Bool := false
  key : Bytes := []
  iv : Bytes := []
  aad : Bytes := []
  msg : Bytes := []                 -- the bytes of SRC processed so far, lowest first
  holdBufs : Nat := 0               -- buffers reserved against HOLD_BUF (R157)
  heldBytes : Nat := 0
  held : List Word := []            -- range words held (R75), or released and undecided (R159)
  undecided : Bool := false         -- tagged decryption whose tag is not decided
deriving DecidableEq, Repr

/-- A digest stream (R117, R170). Its chaining state is held as the input it has absorbed so far (R171). -/
structure DigestStream where
  num : Nat := 0                    -- STREAM, 0-3
  isOpen : Bool := false
  started : Bool := false
  failed : Option (BitVec 8) := none
  ending : Option (BitVec 8) := none -- a later job has failed while earlier ones are not done: the status it leaves (R117)
  alg : BitVec 8 := 0
  slot : BitVec 17 := 0
  key : Bytes := []
  bound : Bool := false
  engine : Nat := 0                 -- 0-31 a lane, 32-39 a sequencer
  claimed : List Nat := []          -- ParallelHash lanes, home lane first (R177)
  lanes : Nat := 0                  -- LANES of the opening job
  blockLog2 : Nat := 0
  crcInit : BitVec 32 := 0
  cust : Bytes := []
  name : Bytes := []
  msg : Bytes := []
deriving DecidableEq, Repr

/-- One entry of a fragment list as read (R50). -/
structure Fragment where
  addr : Word
  len : Nat
deriving DecidableEq, Repr

/-- A fragment list as far as Kalnader has walked it (R50, R51). -/
structure ListWalk where
  frags : List Fragment := []
  entries : Nat := 0
  nextSeg : Word := 0
  started : Bool := false
  reading : Bool := false
  ended : Bool := false
  fail : Option (BitVec 8) := none
deriving DecidableEq, Repr

/-- A request as admitted (R48, R53). -/
structure Request where
  ring : BitVec 16
  k : BitVec 24
  desc : Block
  domain : BitVec 12
  epoch : BitVec 16
  admittedAt : Nat
  deadline : Option Nat
  pilot : Bool
  fromPeer : Option (BitVec 3 × BitVec 8)
deriving DecidableEq, Repr

/-- A scrub that runs for a context (R160): the job it ends, if any, and how. -/
structure Scrub where
  ticket : Option Nat := none       -- the job whose ticket waits for the scrub
  post : Bool := false              -- the scrub replaces the posted status (R162)
  status : BitVec 8 := 0            -- the status when the scrub completes
  stopStatus : BitVec 8 := 0        -- the status when the scrub stops (R161)
  out : Nat := 0                    -- transactions outstanding
  refused : Bool := false
  pair : Nat := 0                   -- the pair that scrubs
  also : List (Nat × BitVec 8 × BitVec 8) := [] -- further tickets that wait, with their statuses as above
deriving DecidableEq, Repr

/-- One awl context with its request. -/
structure Ctx where
  st : CtxState := .free
  hold : Hold := .none
  regs : Table Word := []
  lc : Word := 0
  mbase : Word := 0
  mlen : Word := 0
  brw : BitVec 5 := 0
  flags : Flags := {}
  dztrap : Bool := false
  pc : Word := 0
  scratch : Memory := []
  rep : Option Repeat := none
  retired : Nat := 0
  entry : BitVec 12 := 0
  req : Option Request := none
  inWalk : ListWalk := {}
  outWalk : ListWalk := {}
  inCursor : Nat := 0
  outCursor : Nat := 0
  tickets : Table Ticket := []
  handles : Table Handle := []
  holders : Table (Option (BitVec 17 × Word)) := []  -- absent: the holder is empty
  cstreams : Table CipherStream := []
  dstreams : Table DigestStream := []
  scrub : List (Nat × Nat) := []         -- the scrub list: system pieces written from released ranges (R159)
  scrubbing : Option Scrub := none
  posted : Option (BitVec 8) := none
  withdrawn : Option (BitVec 8) := none
  noRecord : Bool := false  -- ended by Seal or Held (R333, R337)
  deferred : Bool := false  -- its timeout is deferred by a key-intake commit (R65)
  committed : Bool := false
  mismatch : Bool := false  -- R52
  lostData : Bool := false  -- R286
  held : Bool := false
  scrubbed : Bool := false
  unscrubbed : Bool := false
  emulated : Bool := false
  bytes : Word := 0
  invocation : Option Word := none
  attempts : BitVec 8 := 0
deriving DecidableEq, Repr

/-! ### Jobs -/

/-- What an engine instruction asks for (R112 to R126). -/
inductive JobOp where
  | ciph (block : Block)
  | dgst (block : Block)
  | pk (block : Block)
  | kchk (w0 : Word)
  | kint (range : Word)
  | katt (slot : BitVec 17) (range : Word)
  | ndraw (slot : BitVec 17) (holder : Nat)
  | xgath (range : Word)
  | xscat (range : Word)
  | xload (addr : Word) (range : Word)
  | xstore (addr : Word) (range : Word)
  | xlib (addr : Word) (range : Word)
  | cmpct (a b : Word) (len : Nat)
  | alloc (h : Nat) (n : Nat)
  | free (h : Nat)
  | join
  | post
  | signal (addr value : Word)
deriving DecidableEq, Repr

/-- Where a job stands. -/
inductive JobPhase where
  | after        -- waits in the bench router for its AFTER set or a handle (R113, R114)
  | queued       -- in its engine's queue
  | running      -- the engine works on it
  | closing      -- its input is consumed; a tag, result or acknowledgement is left
  | charging     -- waits for a durable lease (R151)
  | allocating   -- waits for buffers (R30)
  | scrubbing    -- writes zeros over released plaintext (R160)
deriving DecidableEq, Repr

/-- One named predecessor of a job and, once it is DONE, its status (R113). -/
structure Pred where
  ticket : BitVec 4
  status : Option (BitVec 8)
deriving DecidableEq, Repr

/-- One issued piece of a transfer (R26, R27): its bytes, its transactions outstanding, whether one was refused. -/
structure Piece where
  len : Nat
  out : Nat
  bad : Bool
deriving DecidableEq, Repr

/-- One job. The key of the job table is 16 × context + ticket. -/
structure Job where
  op : JobOp
  preds : List Pred := []
  phase : JobPhase := .after
  issued : Nat := 0              -- order of issue
  seq : Nat := 0                 -- order of arrival at its engine
  stream : Nat := 0              -- the stream of a cipher or digest job, by the issue order of its FIRST job
  started : Bool := false        -- a cipher or digest job has started
  pos : Nat := 0                 -- bytes consumed, or issued by a transfer
  start : Nat := 0               -- first byte of a gather's or scatter's span
  span : Nat := 0                -- length of that span
  charged : Nat := 0             -- XTS bytes charged (R461)
  readyAt : Nat := 0             -- the core clock from which a chained cipher job has its next stitch ready (R145)
  port : Option Nat := none      -- bound memory master port (R434)
  pieces : List Piece := []      -- pieces issued, oldest first
  stopped : Bool := false        -- no further piece is issued (R27)
  final : BitVec 8 := 0          -- the status with which the job ends when nothing is outstanding
  since : Nat := 0               -- core clock at which a wait began
  data : Bytes := []             -- a fingerprint that a public-key job waits for, or a statement as snapshotted (R228, R247)
  parts : List Nat := []         -- public-key parts of a katt not yet taken (R250)
  partsLeft : Nat := 0           -- its parts not yet ended
  partsNext : List Nat := []     -- its parts that follow once those have ended
deriving DecidableEq, Repr

/-! ### Traps -/

/-- A trap record and its deadline (R88 to R92). -/
structure TrapRecord where
  ctx : Nat
  cls : BitVec 4
  pc : BitVec 32
  word : BitVec 32
  repRemain : BitVec 32
  repActive : Bool
  deadline : Nat
  nextPc : Option Word := none    -- the program counter an emulator has written (R90, R93)
  lcWritten : Bool := false       -- an emulator has written LC
deriving DecidableEq, Repr

/-- The trap queue (R90 to R94). -/
structure TrapQ where
  cfg : Word := 0x0064#64  -- TRAPQ_CFG
  queue : List TrapRecord := []
  claimA : Option TrapRecord := none
  claimB : Option TrapRecord := none
  expired : BitVec 16 := 0
  wdrawnA : Bool := false
  wdrawnB : Bool := false
  lastTie : CtlPort := .ctlb  -- winner of the last tie of claims: the first tie after reset goes to CTLA (log 141)
deriving DecidableEq, Repr

/-! ### Central store -/

/-- The state of one 4 KiB buffer (R37, R286, R287). -/
inductive BufState where
  | free | owned (domain : BitVec 12) | zeroing | retired
deriving DecidableEq, Repr

/-- The central store (unit 0x80). -/
structure CentralStore where
  bytes : Memory := []
  bufs : Table BufState := []
  poisoned : List Nat := []
  zeroQ : List Nat := []
  recheck : List Nat := []  -- buffers whose zeroing is followed by a read-back (R286, R287)
  count : Table Nat := []  -- buffers held by each domain
  holds : Table Nat := []  -- buffers under hold reservations
  waiters : List Nat := []  -- job keys waiting for the unreserved pool, oldest first
  cntCorr : Word := 0
  cntInUse : BitVec 32 := 0
  cntFree : BitVec 32 := 0
  patrolRow : BitVec 13 := 0
  patrolBanks : List Nat := []  -- banks read in the present row
  passes : BitVec 32 := 0
  corrections : Table Nat := []  -- 36 × bank + position to rows corrected in this pass
  marks : Table (List (BitVec 6)) := []  -- bank to marked positions
  writeBacks : List (Nat × Nat) := []  -- buffer and word awaiting a write-back (R284)
deriving DecidableEq, Repr

/-! ### Cipher and digest engines, board, trace -/

/-- One checked pair (R128, R141, R167). Keys 0-7 are cipher pairs, 8-15 stream pairs. -/
structure Pair where
  cfg : Word := 0
  arb : Arb := {}
  workerOut : Nat := 0
  checkerOut : Nat := 0
  workerAsked : Bool := false
  checkerAsked : Bool := false
  entStop : Bool := false
  seeded : Bool := false
  stitches : Word := 0
  stallClk : Word := 0
  nextAt : Nat := 0                 -- the core clock from which the pair takes its next stitch (R144, R165)
  pipeUntil : Nat := 0              -- the core clock at which its pipes hold no work any more (R141)
  stallFrom : Option Nat := none    -- since when a stitch waits for masks (R140, R167)
  stallSaid : Bool := false         -- that stall has passed 1,024 core clocks (R168)
  pass : BitVec 32 := 0
  fail : BitVec 32 := 0
  scrubbed : BitVec 32 := 0
  unscrubbed : BitVec 32 := 0
deriving DecidableEq, Repr

/-- One digest lane or sequencer (R188). Keys 0-31 are lanes, 32-39 sequencers. -/
structure DigestUnit where
  arb : Arb := {}
  bytes : Word := 0
  pass : BitVec 32 := 0
  fail : BitVec 32 := 0
  posted : BitVec 32 := 0
  refusedPosts : BitVec 32 := 0
deriving DecidableEq, Repr

/-- One entry of the public digest board (R184). -/
structure BoardEntry where
  seq : BitVec 32 := 0
  alg : BitVec 8 := 0
  len : BitVec 7 := 0
  domain : BitVec 12 := 0
  data : Block := 0
  own : Word := 0
deriving DecidableEq, Repr

/-- The public digest board and the trace queue (R184 to R187, R444). -/
structure Board where
  entries : Table BoardEntry := []
  posts : BitVec 32 := 0
  traceLost : BitVec 16 := 0
  ctl : Word := 1#64
  trace : List (List Word) := []
deriving DecidableEq, Repr

/-! ### Public-key engines -/

/-- Why a unit works: a program's job, a part of an attestation (R250), or a segment of a curve check (R229). -/
inductive PkWork where
  | job (key : Nat)
  | katt (key : Nat) (part : Nat)
  | segment (bench : Nat) (id : Nat)
  | inner (id part mark : Nat)      -- part of the key intake's update `id`, as its work stood at mark (R245, R266, R268)
  | identity                        -- the identity's public keys (R246)
deriving DecidableEq, Repr

/-- Where a unit stands in R221 to R225. -/
inductive PkPhase where
  | free | fetch | compute | write | burnish
deriving DecidableEq, Repr

/-- One transaction of an operand fetch not yet issued: the operand, the offset in it, the address, the length. -/
structure FetchPart where
  input : Nat
  off : Nat
  addr : Nat
  len : Nat
deriving DecidableEq, Repr

/-- One public-key unit (R210, R219, R221). -/
structure PkUnit where
  phase : PkPhase := .free
  work : Option PkWork := none
  domain : BitVec 12 := 0
  epoch : BitVec 16 := 0
  op : BitVec 16 := 0
  words : Nat := 0
  turn : Nat := 0  -- the works taken so far, by which its transactions are known
  held : Bool := false  -- a job is held, from its fetch to the end of its burnish (PKE_STATUS.BUSY)
  mem : Memory := []  -- operand memory, by byte (R219)
  keyLen : Nat := 0  -- bytes of the key in A.K
  layout : List (Nat × Nat) := []  -- where each operand lies in half A, and its length; the curve record comes first
  plan : List FetchPart := []  -- transactions still to be issued
  fetchOut : Nat := 0  -- transactions outstanding
  port : Option Nat := none
  outputs : List (Nat × Bytes) := []  -- results, by address, not yet written
  writeOut : Nat := 0
  rand : Bytes := []  -- the DRBG bytes drawn
  status : BitVec 8 := 0
  attempts : Nat := 0
  refused : Bool := false  -- a fetch or a write was refused
  killed : Bool := false  -- the result is discarded (R206)
  msg : Nat := 0  -- MSG_LEN of its operation
  cost : Nat := 0  -- what its domain was charged for it (R208)
  since : Nat := 0  -- core clock at which the unit took its work
  jobs : Word := 0
  busyClk : Word := 0
  pass : BitVec 32 := 0
  fail : BitVec 32 := 0
  cntAttempts : Word := 0
  rejects : Word := 0
deriving DecidableEq, Repr

/-- The states of a curve-table entry (R228). -/
inductive CurveState where
  | checking | accepted | rejected
deriving DecidableEq, Repr

/-- One curve-table entry (R228, R229). -/
structure CurveEntry where
  id : Nat
  domain : BitVec 12
  fingerprint : Bytes
  st : CurveState
  addr : Nat                  -- where its record lies, and the epoch of the job that brought it
  epoch : BitVec 16
  words : Nat
  segment : Nat               -- segments ended
  taken : Bool                -- a unit runs the next one
  job : Nat × Nat             -- the job whose place the check takes, and its mark of issue
  seq : Nat                   -- place of the next segment in the bench queue
  since : Nat                 -- core clock at which it entered the queue
  pass : Bool
  used : Nat
deriving DecidableEq, Repr

/-- One bench's public-key queue and curve table (R207, R228). -/
structure PkBench where
  arb : Arb := {}
  curves : List CurveEntry := []
deriving DecidableEq, Repr

/-- PKE_UC_STATUS.STATE and the image (R212 to R218). -/
structure Ucode where
  active : Bool := false
  verifying : Bool := false
  addr : Word := 0
  base : Nat := 0  -- where the image being loaded lies
  port : Option Nat := none
  svn : BitVec 5 := 0
  version : BitVec 16 := 0
  body : Bytes := []  -- the shared microcode store (R216)
  stores : Table Bytes := []  -- the 16 control stores, by unit
  unit : Option Nat := none  -- the unit that runs the verify routine, or ran it last (R215, R230)
  refuse : BitVec 4 := 0
  fetched : Memory := []  -- the image being loaded, as its beats arrive
  fetchOut : Nat := 0  -- fetches of it outstanding
  fetchNext : Nat := 0  -- its next byte to ask for
  refused : Bool := false  -- a fetch piece was refused
  floor : BitVec 5 := 0
  signer : Bytes := []  -- fuse signer digest
deriving DecidableEq, Repr

/-! ### Keys -/

/-- STATE of a slot (R239). -/
inductive SlotState where
  | empty | pending | full | poisoned
deriving DecidableEq, Repr

/-- One slot record with its stored form (R235). -/
structure Slot where
  st : SlotState := .empty
  klen : Nat := 0
  pkWords : BitVec 9 := 0
  isPublic : Bool := false
  spent : Bool := false
  share : Bool := false
  tack : Bool := false
  persist : Bool := false
  origin : BitVec 2 := 0
  domain : BitVec 12 := 0
  alg : BitVec 8 := 0
  uses : BitVec 6 := 0
  limit : BitVec 49 := 0
  req : Bool := false
  reqEnd : Nat := 0  -- END of the lease requested
  ahead : Nat := 0
  counter : Nat := 0
  key : Bytes := []
  reserved : Nat := 0  -- XTS bytes reserved by open jobs (R461)
  owned : List Nat := []  -- owned durable leases after the current one, in mirrored states (R421)
  endLease : Nat := 0  -- END of the lease entry, in units (R298)
  updCounter : Word := 0  -- the update counter of its current record (R426)
deriving DecidableEq, Repr

/-- The stages of an update in progress (R270 to R273). -/
inductive UpdStage where
  | verifying   -- checks 1 to 4 have passed, check 5 runs
  | waiting     -- check 5 has passed; waits before check 6 (R272, R275)
  | waitHalf    -- finds every staging half bound (R272)
  | staging     -- checks 6 to 8 have passed; the key is formed
  | partner     -- staged; waits for the partner (R278)
  | writing     -- the writes of step 3 are in progress
  | durable     -- the valid mark is acknowledged
  | receipt     -- flipped; its receipt is being made or written (R267)
deriving DecidableEq, Repr

/-- Where an update message came from (R268, R278, R416). -/
inductive UpdSource where
  | ctl (p : CtlPort)
  | kint (key : Nat)
  | partner                  -- the leader of the pair (R278)
  | shared
deriving DecidableEq, Repr

/-- One keeper write of an update, made only after the one before it is acknowledged (R296). -/
structure UpdWrite where
  addr : Nat
  data : Bytes
  commit : Bool              -- it is the commit point
deriving DecidableEq, Repr

/-- One update in progress with its staging half (R272, R273). -/
structure Update where
  id : Nat
  source : UpdSource
  message : Bytes
  stage : UpdStage
  staged : Slot := {}
  half : Bool := false       -- a staging half is bound and the counter reserved
  isReset : Bool := false    -- an ENROL by domain 0
  steps : List UpdWrite := []
  since : Nat := 0
  receipt : Bytes := []
  cipher : Bytes := []       -- c and u_dev of an ENROL (R266)
  formed : Bytes := []      -- the key that the leader of the pair has formed (R278)
  out : Nat := 0             -- receipt writes outstanding
  refused : Bool := false    -- a receipt write was refused
  parts : List Nat := []     -- parts of its public-key work that wait in a bench's queue (R268)
  partsLeft : Nat := 0       -- its parts not yet ended
  seq : Nat := 0             -- its place in the queue, by which its parts are known
  results : Table (BitVec 8 × List Bytes) := [] -- what each ended part has given
  salt : Bytes := []         -- SALT of the sealed record it leaves (R251)
  acked : Bool := false      -- the partner's commit is durable (R278)
deriving DecidableEq, Repr

/-- One control port's intake (R268, R279). -/
structure Intake where
  state : BitVec 3 := 0
  words : Nat := 0
  bytes : Bytes := []
  result : BitVec 8 := 0
  reason : BitVec 4 := 0
  rcptAddr : Word := 0
  dsel : BitVec 12 := 0
  bufs : List Nat := []
deriving DecidableEq, Repr

/-- A charge that waits for a durable lease (R150, R151): job key and units. -/
structure ChargeWait where
  slot : BitVec 17
  key : Nat
  units : Nat
  since : Nat
deriving DecidableEq, Repr

/-- The roots that the fuses hold, as the live one is copied (R241). -/
inductive RootCode where
  | none | f | d | x
deriving DecidableEq, Repr

/-- The key store (unit 0x81). -/
structure KeyStore where
  slots : Table Slot := []
  restoring : Bool := false
  restored : BitVec 17 := 0
  allPending : Bool := true  -- slots from `passedTo` on that `passed` does not list are PENDING
  passedTo : Nat := 0  -- the restore has passed every slot below it
  passed : List Nat := []  -- slots from `passedTo` on that the restore has passed
  failTag : BitVec 16 := 0
  skipOld : BitVec 16 := 0
  zeroized : Bool := false
  root : RootCode := .none
  rootKey : Bytes := []
  idReady : Bool := false
  idEc : Bytes := []
  idMl : Bytes := []
  drbgReseedAt : Nat := 0  -- core clock or request count of the last reseed
  drbgRequests : Nat := 0
  drbgDue : Bool := false
  drbg : Drbg := {}        -- its working state (R244)
  tgen : BitVec 6 := 0
  stepBusy : Bool := false
  killLate : Bool := false  -- the kill line asserted in Retention: its event waits for vdd_core (R257)
  kill : Bool := false
  killAck : Bool := false
  kills : BitVec 16 := 0
  counters : Table Word := []
  floors : Table Word := []
  countersComplete : Bool := false
  updates : List Update := []
  intakeA : Intake := {}
  intakeB : Intake := {}
  committed : BitVec 32 := 0
  refusedCnt : BitVec 32 := 0
  charges : List ChargeWait := []
  selA : BitVec 17 := 0
  selB : BitVec 17 := 0
deriving DecidableEq, Repr

/-! ### Keeper port -/

/-- What a keeper write is for (R273, R298, R302, R365, R370). -/
inductive KpWhy where
  | lease (slots : List Nat)            -- the slots whose requested leases it makes durable
  | update (upd : Nat) (commit : Bool)  -- a write of step 3; the commit point is one of them (R296)
  | counter                             -- a domain counter record (R273 step 5)
  | time
  | recorder
  | tombstone
  | image             -- 64 B of a configuration image (R301)
  | pointer           -- its pointer block
  | zero              -- 64 B of a format's zeros (R292)
  | anchor            -- the anchor that ends it
deriving DecidableEq, Repr

/-- One keeper write of a 64 B block (R437): while it waits, the bytes it puts into its block; once issued, the block. -/
structure KpWrite where
  tag : BitVec 6
  cls : Nat                             -- its class (R299)
  addr : Nat
  data : Bytes
  why : KpWhy
  issuedAt : Nat
deriving DecidableEq, Repr

/-- One keeper read outstanding for a read window (R372); none once the window has been addressed anew. -/
structure KpRead where
  tag : BitVec 6
  addr : Nat
  window : Option CtlPort
  issuedAt : Nat
deriving DecidableEq, Repr

/-- The keeper port (unit 0x82) and the region it masters (R289 to R305). -/
structure Keeper where
  bytes : Memory := []
  waiting : List KpWrite := []
  out : List KpWrite := []
  reads : List KpRead := []
  cfg : Word := 0x0000004000002710#64
  formatted : Bool := false
  formatting : Bool := false
  unit : Nat := 0  -- the next 64 B of the format or of the image that is issued (R292, R301)
  sizeMib : BitVec 16 := 0
  durableEpoch : BitVec 16 := 0
  bank : Bool := false
  cfgLost : Bool := false
  cfgFallback : Bool := false
  cfgDurable : Bool := false
  imageTo : Option Bool := none  -- bank of the configuration write in progress (R301)
  imagePtr : Bool := false  -- its pointer write has been issued
  imageSet : CfgSet := []
  imageEpoch : BitVec 16 := 0
  imageNext : Bool := false  -- a newer set waits for the pointer write to end
  pilotBytes : BitVec 32 := 0
  fullBytes : BitVec 32 := 0
  worstAck : BitVec 32 := 0
  writes : BitVec 32 := 0
  timeSeq : BitVec 32 := 0
  timeAt : Bool := false  -- the current time record is B (R302)
  inReset : Bool := false
deriving DecidableEq, Repr

/-! ### Memory master ports -/

/-- What a memory transaction serves (R433, R434). -/
inductive TxnOwner where
  | piece (key : Nat) (n : Nat) (off : Nat)   -- piece n of a transfer; the transfer's byte at which the transaction starts
  | segment (ctx : Nat) (out : Bool)     -- a fragment-list segment
  | fetch (ring : BitVec 16) (k : BitVec 24)
  | record (ring : BitVec 16) (k : BitVec 24)
  | signal (key : Nat)
  | scrub (ctx : Nat)
  | operand (unit turn : Nat) (input off : Nat)
  | result (unit turn : Nat)
  | ucode (off : Nat)
  | receipt (upd : Nat)
  | forward (link id off : Nat)          -- a piece that serves a forwarded request (R418)
  | fwdSegment (link id : Nat) (out : Bool)
  | orphan                               -- work that a block warm reset has ended (R351)
deriving DecidableEq, Repr

/-- One outstanding transaction of a memory master port (R432): `want` bytes from `addr`, in `beats` beats of 32 B. -/
structure Txn where
  port : Nat
  tag : BitVec 7
  write : Bool
  addr : Nat
  want : Nat
  beats : Nat
  data : Bytes               -- the bytes to write, or the beats that have arrived
  domain : BitVec 12
  attr : BitVec 4
  issuedAt : Nat
  owner : TxnOwner
  bad : Bool := false        -- a beat of it was refused
deriving DecidableEq, Repr

/-- One memory master port's registers. -/
structure MmPort where
  cfg : Word := 0x03E8#64
  wrBeats : BitVec 32 := 0
  rdBeats : BitVec 32 := 0
  arb : Arb := {}  -- between the domains whose transfers it serves (R34)
  inReset : Bool := false
deriving DecidableEq, Repr

/-- The memory master ports (units 0x90 to 0xAF). -/
structure MmPorts where
  ports : Table MmPort := []
  txns : List Txn := []
  last : Nat := 0
deriving DecidableEq, Repr

/-! ### Faults -/

/-- A history entry or first-error record (R343). -/
structure FltEntry where
  time : BitVec 32
  data : BitVec 16
  cls : BitVec 2
  event : BitVec 8
deriving DecidableEq, Repr

/-- One unit's fault block (R343 to R347, R359). -/
structure FltBlock where
  merge : BitVec 8 := 0
  worst : BitVec 8 := 0
  first : Option FltEntry := none
  firstAt : Nat := 0  -- the core clock of the first error (R345)
  cls : BitVec 2 := 0
  pend : Bool := false
  info : Bool := false
  histLost : BitVec 16 := 0
  hist : List FltEntry := []  -- newest first, at most 8
  fenced : Bool := false
  rstBusy : Bool := false
  rstAt : Nat := 0  -- the core clock at which the last unit reset began (R349)
  irqCorr : Bool := false
  fences : BitVec 16 := 0
  uncorr : BitVec 16 := 0
  corr : BitVec 32 := 0
  hselA : BitVec 3 := 0
  hselB : BitVec 3 := 0
  inj : Word := 0
  flip : Bool := false  -- a bit flipped by KIND 2 waits for its detector (R359)
deriving DecidableEq, Repr

/-- The alert output and the Warden (R351, R357, R358). -/
structure Warden where
  errPulse : Bool := false
  errAt : Nat := 0  -- the aon_clk period in which the pulse rose (R357)
  errLevel : Bool := false
  errLatch : Bool := false
  levelWrite : Option Bool := none  -- a LEVEL write that waits for the end of the pulse
  pulses : BitVec 16 := 0
  warmCount : BitVec 32 := 0
  lockstepOk : Bool := true
  warmPending : Bool := false
deriving DecidableEq, Repr

/-! ### Recorder and census -/

/-- One entry of the count table (R363, R364). -/
structure CodeCount where
  code : BitVec 16
  count : Word
  suppressed : Word
  tokens : Nat
  queued : Bool
  written : Word              -- COUNT in the last written code record
  refillAt : Nat              -- the aon_clk period from which its next token is timed (R364)
deriving DecidableEq, Repr

/-- The extremes of a period, each with its operating second (R362). -/
structure Extremes where
  tmax : Option (BitVec 16 × Nat) := none
  tmin : Option (BitVec 16 × Nat) := none
  backlog : Option (Nat × BitVec 16 × Nat) := none
  ack : Option (Nat × Nat) := none
  sealClk : Option (Nat × Nat) := none
deriving DecidableEq, Repr

/-- A record of the recorder waiting for its units (R365, R366). -/
structure RecRecord where
  kind : BitVec 8
  source : BitVec 16
  data : Bytes
deriving DecidableEq, Repr

/-- The recorder (unit 0x88). -/
structure Recorder where
  hist : Table (Table Nat) := []
  ext : Extremes := {}
  codes : List CodeCount := []
  overflow : BitVec 16 := 0
  overflowLogged : Bool := false
  queue : List RecRecord := []
  current : Option (RecRecord × Nat) := none  -- the record being written and its next unit
  page : BitVec 16 := 0
  pageSeq : BitVec 32 := 0
  unit : Nat := 0
  rseq : BitVec 32 := 0
  opening : Nat := 0  -- 0 no page is opening; 1 the head is being written; 2 the header
  opened : Bool := false
  frozen : Bool := false
  owner : Option CtlPort := none
  frozenAt : Nat := 0
  autoThaw : Bool := false
  stopped : Bool := false
  lost : Bool := false
  dueCheckpoint : Bool := false
  checkpointing : Bool := false
  lastCheckpoint : Nat := 0
  tomb : Word := 0
  pendingTomb : Bool := false
  rdA : Word := 0
  rdB : Word := 0
  winA : Block := 0
  winB : Block := 0
deriving DecidableEq, Repr

/-- The census (unit 0x89). -/
structure Census where
  cfg : Word := 0x30000#64
  seq : BitVec 32 := 0
  peersDone : BitVec 8 := 0
  initiator : BitVec 3 := 0
  remote : Bool := false
  initSeq : BitVec 32 := 0  -- SEQ of the initiator (R378, R380)
  fromLink : Nat := 0  -- the link that brought the marker of a remote census
  admitted : Word := 0  -- requests admitted before the cut (R380, log 44)
  drops : BitVec 12 := 0
  part : Bool := false
  complete : Bool := false
  busy : Bool := false
  aonAt : BitVec 32 := 0
  lastClk : BitVec 32 := 0
  at_ : Nat := 0
  shadows : Table Word := []
  latched : List Nat := []
  awaiting : BitVec 8 := 0
  vselA : BitVec 24 := 0
  vselB : BitVec 24 := 0
deriving DecidableEq, Repr

/-! ### Life cycle, debug, power, entropy, sensors -/

/-- The debug states (R386). -/
inductive Debug where
  | closed | diagnostic | full
deriving DecidableEq, Repr

/-- The power states (R389), and the passages between Run and Retention: `retaining` drains, `retWait` has its time record
outstanding (R391). -/
inductive Power where
  | run | idle | retaining | retWait | retReady | retention | off | resuming
deriving DecidableEq, Repr

/-- What an outstanding fuse operation is for (R385, R387, R218). -/
inductive FuseWhy where
  | lifeCycle (target : BitVec 3) (second : Bool)
  | rootReload (word : Nat)
  | floor
deriving DecidableEq, Repr

/-- Life cycle, debug, power, calibration, entropy and sensors (chapter 17). -/
structure Security where
  lcBits : BitVec 5 := 0
  lcResult : BitVec 4 := 0
  lcArmed : Option (BitVec 3 × CtlPort × Nat) := none
  debug : Debug := .closed
  dbgResult : BitVec 4 := 0
  power : Power := .run
  pwrResult : BitVec 4 := 0
  pwrCfg : Word := 0x000A0000#64
  retentions : BitVec 16 := 0
  lastResume : BitVec 32 := 0
  resumeAt : Nat := 0
  coreGood : Bool := false
  fuse : List (FuseWhy × Nat × Option Nat) := []  -- operations outstanding, oldest first: why, word, bit of a blow
  calFuse0 : Word := 0
  calFuse1 : Word := 0
  entStartup : Bool := false
  entHealthy : Bool := false
  entSources : BitVec 4 := 0
  entOutputs : BitVec 32 := 0
  temp : BitVec 16 := 0
  trips : BitVec 6 := 0
  tripCnt : Table (BitVec 8) := []
  sealAck : Bool := false
  retReady : Bool := false
  sbReset : Bool := false
  alReset : Bool := false
  fzReset : Bool := false
  trReset : Bool := false
  ctlaReset : Bool := false
  ctlbReset : Bool := false
deriving DecidableEq, Repr

/-! ### Harness -/

/-- HNS_LINK.STATE. -/
inductive LinkState where
  | down | training | up | failed
deriving DecidableEq, Repr

/-- One peer link (R406 to R409, R413, R414). -/
structure Link where
  st : LinkState := .down
  phyUp : Bool := false
  inReset : Bool := false
  peer : BitVec 3 := 0
  sentSeen : Bool := false  -- a valid HELLO has been received, and HELLOs go out with SEEN
  waits : Bool := false  -- an invalid HELLO keeps it DOWN until training restarts
  retry : Bool := false  -- a link-key exchange has failed and waits for its next try
  idleOut : Option (Bool × Bool × Bytes) := none  -- the last IDLE flit sent: NAK, HB, data
  txSeq : BitVec 12 := 0
  rxSeq : BitVec 12 := 0
  buffer : List (BitVec 12 × BitVec 4 × Bytes) := []  -- unacknowledged flits: SEQ, KIND, data
  replays : BitVec 32 := 0
  streak : Nat := 0
  keyed : Bool := false
  keyTx : Bytes := []  -- the link key of the direction away from this block, and that of the other (R413)
  keyRx : Bytes := []
  fresh : Bool := false  -- the exchange of the present link-up has ended
  exchange : Option (Bytes × Bytes × Bytes) := none  -- what this end opened it with: ML-KEM key, X25519 scalar, message sent
  txSecure : Nat := 0  -- SECURE messages sent since the key was formed
  rxSecure : Nat := 0
deriving DecidableEq, Repr

/-- HNS_MIRROR.STATE. -/
inductive MirrorState where
  | none | joining | mirrored | alone
deriving DecidableEq, Repr

/-- The stages of a pairing ceremony (R411, R412). -/
inductive ApprStage where
  | idle | receiving | checking | exchanging | done
deriving DecidableEq, Repr

/-- One port's approval registers (R411). -/
structure Approval where
  stage : ApprStage := .idle
  bytes : Bytes := []
  result : BitVec 8 := 0
  reason : BitVec 4 := 0
deriving DecidableEq, Repr

/-- What the receiving block asks of the lists of a forwarded request (R418, log 41). -/
inductive FwdKind where
  | gather | scatter | scrub
deriving DecidableEq, Repr

/-- One such piece of work: `done` bytes have been issued, `out` transactions are outstanding. -/
structure FwdWork where
  kind : FwdKind
  off : Nat
  len : Nat
  data : Bytes := []
  done : Nat := 0
  out : Nat := 0
  start : Nat := 0  -- where in the list the span of its transfer starts, which tells transfers apart
  good : Nat := 0  -- its bytes whose transactions have all completed
  bad : Option (BitVec 8) := none
deriving DecidableEq, Repr

/-- A request forwarded from this block, with the walks of its lists (R417 to R419). -/
structure Forward where
  link : Nat
  id : Nat
  req : Request
  ring : BitVec 16
  inWalk : ListWalk := {}
  outWalk : ListWalk := {}
  refused : List (FwdKind × Nat) := []  -- transfers of which a piece has been refused, by their start (R27)
  work : List FwdWork := []
deriving DecidableEq, Repr

/-- A request that has arrived from a peer and waits for admission (R418). -/
structure Arrival where
  link : BitVec 3
  id : BitVec 8
  domain : BitVec 12
  desc : Block
  t0 : Nat
  deadline : Option Nat
deriving DecidableEq, Repr

/-- Harness and mirror state (chapter 18). -/
structure Harness where
  block : BitVec 3 := 0
  idcode : BitVec 32 := 0
  links : Table Link := []
  mirror : MirrorState := .none
  losses : BitVec 16 := 0
  peerEpoch : BitVec 16 := 0
  peerReady : Bool := false
  peerDirty : Bool := false
  heartbeatAt : Nat := 0
  k0 : Table Nat := []
  apprA : Approval := {}
  apprB : Approval := {}
  ceremony : Option (BitVec 3 × Bytes × Option CtlPort) := none  -- peer, approval, port of the local master
  localPass : Bool := false
  peerPass : Bool := false
  localMade : Bool := false  -- the seam of the ceremony is made here (R412)
  peerMade : Bool := false  -- and at the other block
  forwards : List Forward := []
  arrivals : List Arrival := []
  outbox : List (Nat × BitVec 4 × Bytes) := []  -- flits that wait for room in a link's buffer: link, KIND, data
deriving DecidableEq, Repr

/-! ### The block -/

/-- Both configuration sets at power-on reset (R23, R372): every shadowed word 0 but DOM_CTL.VALID of domain 0 and
REC_POLICY. A key is the register offset divided by 8. -/
def CfgSet.reset : CfgSet := [(0x1202, 0x00000A0800000E10#64), (0x20000, 1#64)]

/-! ### The test port -/

/-- The controller states of an IEEE 1149.1 TAP (R443). -/
inductive TapCtl where
  | testLogicReset | runTestIdle | selectDr | captureDr | shiftDr | exit1Dr | pauseDr | exit2Dr | updateDr
  | selectIr | captureIr | shiftIr | exit1Ir | pauseIr | exit2Ir | updateIr
deriving DecidableEq, Repr

/-- What the instruction register selects: the instruments of R388. -/
inductive TapInstr where
  | bypass
  | idcode
  | register (off : BitVec 24)
  | store (buf : BitVec 13) (word : BitVec 9)
  | program (active : Bool) (word : BitVec 18)
  | scratch (ctx : Nat) (word : BitVec 9)
  | operand (unit : BitVec 4) (word : BitVec 14)
deriving DecidableEq, Repr

/-- The TP port (R443). -/
structure Tap where
  ctl : TapCtl := .testLogicReset
  instr : TapInstr := .idcode
  ir : List Bool := []
  dr : List Bool := []  -- the selected data register, the bit next to leave first
  tdo : Bool := false
  inReset : Bool := false
deriving DecidableEq, Repr

/-- Everything the spec gives the block: all of the state but the queue of commands. -/
structure Hw where
  clk : Clock := {}
  mc : ModeCtl := {}
  cinch : Cinch := {}
  seam : Seam := {}
  active : CfgSet := CfgSet.reset
  shadow : CfgSet := CfgSet.reset
  rings : Table Ring := []
  rm : RingMgr := {}
  dbs : Table DbPort := []
  ctxs : Table Ctx := []
  jobs : Table Job := []
  jobSeq : Nat := 0
  trapq : TrapQ := {}
  awlLoad : Bool := false
  libBad : List (BitVec 16 × Nat) := []  -- uncorrectable library words: the set's epoch, and the word's address (R352)
  cs : CentralStore := {}
  pairs : Table Pair := []
  digs : Table DigestUnit := []
  board : Board := {}
  pkb : Table PkBench := []
  pku : Table PkUnit := []
  ucode : Ucode := {}
  keys : KeyStore := {}
  kp : Keeper := {}
  mm : MmPorts := {}
  flt : Table FltBlock := []
  ward : Warden := {}
  recd : Recorder := {}
  cen : Census := {}
  sec : Security := {}
  hns : Harness := {}
  tap : Tap := {}
  viewA : Bool := false  -- SEAM_VIEW.ACTIVE of CTLA
  viewB : Bool := false
  dselA : BitVec 12 := 0  -- CS_DSEL of CTLA
  dselB : BitVec 12 := 0
  freeCount : Nat := 0  -- the model's own: how many free values have been drawn
deriving DecidableEq, Repr

/-- The state of the model: the block, and the commands that wait, first in, first out. -/
structure State where
  hw : Hw := {}
  pending : List Instr := []
deriving DecidableEq, Repr

/-- The block at power-on reset, in Cold, before por_n is released (R322, R327): every register at the reset value of its
field map, every table at its default, no command waiting. Each default stands with its field above. -/
def State.reset : State := {}

end Sys2Proof.Machine
end

