-- ==== Sys2Proof/Machine/Ops.lean ====
section
/-! DEFINITION. The named operations over the block's state that every command is written from: sparse tables, byte
memories, bit fields, the configuration sets, and the frame that every meaning stands in. -/

namespace Sys2Proof.Machine

/-! ### Status codes (R6) -/

/-- OK. -/
abbrev stOk : BitVec 8 := 0x0
/-- VERIFY_FAIL. -/
abbrev stVerifyFail : BitVec 8 := 0x1
/-- TAG_FAIL. -/
abbrev stTagFail : BitVec 8 := 0x2
/-- TAG_FAIL_SCRUBBED. -/
abbrev stTagFailScrubbed : BitVec 8 := 0x3
/-- TAG_FAIL_UNSCRUBBED. -/
abbrev stTagFailUnscrubbed : BitVec 8 := 0x4
/-- LENGTH_MISMATCH. -/
abbrev stLengthMismatch : BitVec 8 := 0x5
/-- KEY_PENDING. -/
abbrev stKeyPending : BitVec 8 := 0x6
/-- KEY_SPENT. -/
abbrev stKeySpent : BitVec 8 := 0x7
/-- KEY_DENIED. -/
abbrev stKeyDenied : BitVec 8 := 0x8
/-- KEY_EMPTY. -/
abbrev stKeyEmpty : BitVec 8 := 0x9
/-- WINDOW_FAULT. -/
abbrev stWindowFault : BitVec 8 := 0xa
/-- TIMEOUT. -/
abbrev stTimeout : BitVec 8 := 0xb
/-- ABORTED. -/
abbrev stAborted : BitVec 8 := 0xc
/-- INPUT_RANGE. -/
abbrev stInputRange : BitVec 8 := 0xd
/-- POINT_INVALID. -/
abbrev stPointInvalid : BitVec 8 := 0xe
/-- CURVE_REJECTED. -/
abbrev stCurveRejected : BitVec 8 := 0xf
/-- ZERO_RESULT. -/
abbrev stZeroResult : BitVec 8 := 0x10
/-- ENTROPY_FAIL. -/
abbrev stEntropyFail : BitVec 8 := 0x11
/-- NONCE_WAIT. -/
abbrev stNonceWait : BitVec 8 := 0x12
/-- QUOTA. -/
abbrev stQuota : BitVec 8 := 0x13
/-- ENGINE_FENCED. -/
abbrev stEngineFenced : BitVec 8 := 0x14
/-- DATA_UNCORRECTED. -/
abbrev stDataUncorrected : BitVec 8 := 0x15
/-- TRAP_UNHANDLED. -/
abbrev stTrapUnhandled : BitVec 8 := 0x16
/-- ILLEGAL_PROGRAM. -/
abbrev stIllegalProgram : BitVec 8 := 0x17
/-- DESCRIPTOR_INVALID. -/
abbrev stDescriptorInvalid : BitVec 8 := 0x18
/-- MIRROR_LOST. -/
abbrev stMirrorLost : BitVec 8 := 0x19

/-! ### Sparse tables in canonical form -/

/-- The value of key k, `d` when it is not listed. -/
def tget {α : Type} (d : α) : Table α → Nat → α
  | [], _ => d
  | (k, v) :: r, n => if k = n then v else tget d r n

/-- List key k with value v, keys kept rising. -/
def tput {α : Type} (k : Nat) (v : α) : Table α → Table α
  | [] => [(k, v)]
  | (n, w) :: r => if k < n then (k, v) :: (n, w) :: r else if k = n then (k, v) :: r else (n, w) :: tput k v r

/-- Remove key k, wherever it is listed. -/
def tdel {α : Type} (k : Nat) : Table α → Table α
  | [] => []
  | (n, w) :: r => if n = k then tdel k r else (n, w) :: tdel k r

/-- Set key k to v; a key at the default is not listed. -/
def tset {α : Type} [DecidableEq α] (d : α) (t : Table α) (k : Nat) (v : α) : Table α :=
  if v = d then tdel k t else tput k v t

/-- Change the value of key k. -/
def tmod {α : Type} [DecidableEq α] (d : α) (t : Table α) (k : Nat) (f : α → α) : Table α := tset d t k (f (tget d t k))

/-- The keys of a table are strictly above n and rising, and no listed value is the default. -/
def tableFrom {α : Type} [DecidableEq α] (d : α) (n : Nat) : Table α → Bool
  | [] => true
  | (k, v) :: r => n ≤ k && v != d && tableFrom d (k + 1) r

/-- A table is in canonical form. -/
def tableWf {α : Type} [DecidableEq α] (d : α) (t : Table α) : Bool := tableFrom d 0 t

/-! ### Byte memories: an unlisted byte reads 0 -/

/-- The canonical form of a byte memory. -/
def Memory.wf (m : Memory) : Bool := tableWf (0 : Byte) m

/-- One byte. -/
def mget (m : Memory) (a : Nat) : Byte := tget 0 m a

/-- Write one byte. -/
def mset (m : Memory) (a : Nat) (b : Byte) : Memory := tset 0 m a b

/-- n bytes from address a. -/
def mread (m : Memory) (a : Nat) : Nat → Bytes
  | 0 => []
  | n + 1 => mget m a :: mread m (a + 1) n

/-- Write a string of bytes from address a. -/
def mwrite (m : Memory) (a : Nat) : Bytes → Memory
  | [] => m
  | b :: r => mwrite (mset m a b) (a + 1) r

/-! ### Numbers and bit fields -/

/-- Bits lo to lo + len - 1 of a word, as a number. -/
def fld {w : Nat} (v : BitVec w) (lo len : Nat) : Nat := (v.toNat >>> lo) % 2 ^ len

/-- Bit i of a word. -/
def bit {w : Nat} (v : BitVec w) (i : Nat) : Bool := v.getLsbD i

/-- A word with a number placed at bit lo in a field of len bits. -/
def put (lo len v : Nat) : Word := BitVec.ofNat 64 ((v % 2 ^ len) <<< lo)

/-- A word with one bit set when b. -/
def putb (lo : Nat) (b : Bool) : Word := put lo 1 b.toNat

/-- 64-bit word i of a 64 B block. -/
def wordOf (b : Block) (i : Nat) : Word := b.extractLsb' (64 * i) 64

/-- A block from its bytes. -/
def blockOf (b : Bytes) : Block := BitVec.ofNat 512 (leNat b)

/-- Word i of a byte string. -/
def wordAt (b : Bytes) (i : Nat) : Word := BitVec.ofNat 64 (leNat ((b.drop (8 * i)).take 8))

/-- Bytes of consecutive words. -/
def wordsBytes (ws : List Word) : Bytes := ws.flatMap fun w => leBytes 8 w.toNat

/-- Increment that stops at the largest value of its width (R167, R343). -/
def satInc {w : Nat} (v : BitVec w) (n : Nat := 1) : BitVec w := BitVec.ofNat w (min (2 ^ w - 1) (v.toNat + n))

/-- KVER (R3). -/
abbrev kver : Word := 0x0000000000020003#64

/-! ### Free values (log 1) -/

/-- Draw one free number. -/
def drawFree (s : Hw) : Nat × Hw := (s.freeCount, { s with freeCount := s.freeCount + 1 })

/-! ### The frame of a meaning -/

/-- The block takes nothing: Held (R337, R356), por_n low (R449), or vdd_core off (R389). What still acts then acts
without asking. -/
def Hw.inert (s : Hw) : Bool :=
  s.mc.mode = .held || s.mc.por || s.sec.power = .retention || s.sec.power = .off

/-- The effect of a command on the block; the queue of commands stands. -/
def State.does (s : State) (f : Hw → Hw) : Host.Outcome State Fault Refusal := .next { s with hw := f s.hw }

/-- The effect of a command that an inert block does not take. -/
def State.live (s : State) (f : Hw → Hw) : Host.Outcome State Fault Refusal :=
  s.does fun h => if h.inert then h else f h

/-! ### The configuration sets (R313) -/

/-- The shadowed word at a register offset. -/
def cfgWord (c : CfgSet) (off : Nat) : Word := tget 0 c (off / 8)

/-- Write the shadowed word at a register offset. -/
def cfgSet (c : CfgSet) (off : Nat) (w : Word) : CfgSet := tset 0 c (off / 8) w

/-- The set of an epoch (R53): the active set, or the old set, which the shadow holds while it drains (R313, R317). -/
def Hw.setOf (s : Hw) (epoch : BitVec 16) : CfgSet := if epoch = s.seam.epoch then s.active else s.shadow

/-- Word `off` of the entry of domain d (R23). -/
def domWord (c : CfgSet) (d off : Nat) : Word := cfgWord c (0x100000 + 0x100 * d + off)

/-- DOM_CTL.VALID; it reads 1 for domain 0 (R23). -/
def domValid (c : CfgSet) (d : Nat) : Bool := d = 0 || bit (domWord c d 0) 0

/-- A permission flag of DOM_CTL: 1 STREAM_REL, 2 EXT_IV, 3 BOARD, 4 CURVE_LOAD, 5 FORWARD. -/
def domFlag (c : CfgSet) (d i : Nat) : Bool := bit (domWord c d 0) i

/-- DOM_CTL.WEIGHT; 0 acts as 1. -/
def domWeight (c : CfgSet) (d : Nat) : Nat := max 1 (fld (domWord c d 0) 8 8)

/-- DOM_CTL.PK_MAX_WORDS; values above 256 act as 256. -/
def domPkMax (c : CfgSet) (d : Nat) : Nat := min 256 (fld (domWord c d 0) 16 9)

/-- DOM_QUOTA.CS_BUF; larger values act as 8,192. -/
def domQuota (c : CfgSet) (d : Nat) : Nat := min 8192 (fld (domWord c d 8) 0 14)

/-- The effective reserve of a domain (R30). -/
def domReserve (c : CfgSet) (d : Nat) : Nat := min (fld (domWord c d 8) 32 14) (domQuota c d)

/-- The effective hold quota of a domain (R30, R33). -/
def domHold (c : CfgSet) (d : Nat) : Nat := min (fld (domWord c d 8) 16 14) (domQuota c d)

/-- The program entry check of R29. -/
def domEntryOk (c : CfgSet) (d e : Nat) : Bool :=
  let p := domWord c d 0x10
  bit p 31 && fld p 0 12 ≤ e && e ≤ fld p 16 12

/-- Check 1 of R28: the slot lies in an enabled range of the domain. -/
def domSlotOk (c : CfgSet) (d slot : Nat) : Bool :=
  (List.range 4).any fun k =>
    let r := domWord c d (0x20 + 8 * k)
    bit r 63 && fld r 0 17 ≤ slot && slot ≤ fld r 32 17

/-- The first window of a domain that covers a page and grants the access (R25, R26). -/
def domWindow (c : CfgSet) (d page : Nat) (write : Bool) : Option Nat :=
  (List.range 8).find? fun n =>
    let b := domWord c d (0x40 + 0x10 * n)
    let l := domWord c d (0x48 + 0x10 * n)
    fld b 12 52 ≤ page && page ≤ fld l 12 52 && bit b (if write then 1 else 0)

/-- MM_ATTR of a window. -/
def winAttr (c : CfgSet) (d n : Nat) : BitVec 4 := (domWord c d (0x40 + 0x10 * n)).extractLsb' 4 4

/-- The domains that are listed in a set, domain 0 among them. -/
def domsOf (c : CfgSet) : List Nat :=
  (0 :: (c.filter fun e => 0x20000 ≤ e.1 && e.1 < 0x40000).map fun e => (e.1 - 0x20000) / 32).eraseDups

/-- The sum of the effective reserves of the valid domains (R31). -/
def reserveSum (c : CfgSet) : Nat :=
  ((domsOf c).filter fun d => domValid c d).foldl (fun a d => a + domReserve c d) 0

/-- Word `off` of the entry of ring n (R41). -/
def ringWord (c : CfgSet) (n off : Nat) : Word := cfgWord c (0x200000 + 0x40 * n + off)

/-- RING_CTL.EN. -/
def ringEn (c : CfgSet) (n : Nat) : Bool := bit (ringWord c n 0) 0
/-- RING_CTL.DB_PORT. -/
def ringPort (c : CfgSet) (n : Nat) : Nat := fld (ringWord c n 0) 16 7
/-- RING_CTL.SIZE_LOG2. -/
def ringLog2 (c : CfgSet) (n : Nat) : Nat := fld (ringWord c n 0) 24 5
/-- RING_CTL.DOMAIN. -/
def ringDomain (c : CfgSet) (n : Nat) : Nat := fld (ringWord c n 0) 32 12

/-- A ring is usable in a set (R42). -/
def ringUsable (c : CfgSet) (n : Nat) : Bool :=
  ringEn c n && 6 ≤ ringLog2 c n && ringLog2 c n ≤ 20 && ringPort c n ≤ 95 && domValid c (ringDomain c n)

/-- The rings that are listed in a set. -/
def ringsOf (c : CfgSet) : List Nat :=
  ((c.filter fun e => 0x40000 ≤ e.1 && e.1 < 0xC0000).map fun e => (e.1 - 0x40000) / 8).eraseDups

/-- The two words of library entry e (R95). -/
def libEntry (c : CfgSet) (e : Nat) : Word × Word := (cfgWord c (0x600000 + 16 * e), cfgWord c (0x600000 + 16 * e + 8))

/-- A library entry holds a program inside the bank (R96). -/
def libValid (c : CfgSet) (e : Nat) : Bool :=
  let w := libEntry c e
  bit w.2 32 && 16384 ≤ fld w.1 0 19 && fld w.1 0 19 + fld w.1 32 20 ≤ 524288

/-- The writable bits of an aligned word of the library (R95): an entry word keeps no reserved bit, code is free. -/
def libWordMask (off : Nat) : Word :=
  if 0x610000 ≤ off then 0xffffffffffffffff#64 else if off % 16 = 0 then 0xfffff0007ffff#64 else 0x7ffff001f#64

/-- ENGINE_MASK of a library entry. -/
def libMask (c : CfgSet) (e : Nat) : BitVec 5 := (libEntry c e).2.extractLsb' 0 5

/-- The step limit of an entry in instructions (R70, R95). -/
def libSteps (c : CfgSet) (e : Nat) : Nat :=
  let n := fld (libEntry c e).2 16 16
  1024 * (if n = 0 then 65536 else n)

/-! ### Time -/

/-- RING_MGR_CFG.CLK_PER_US; 0 acts as 1 (R62). -/
def clkPerUs (s : Hw) : Nat := max 1 (fld s.rm.cfg 0 16)

/-- Move the clock on to a core clock that is not past. -/
def advanceTo (s : Hw) (t : Nat) : Hw := { s with clk := { s.clk with core := max s.clk.core t } }

/-- The next core clock. A port's clear of a W1C bit takes one of its own (log 29), so an event of that clock follows it and
leaves the bit set (R5). -/
def nextClock (s : Hw) : Hw := advanceTo s (s.clk.core + 1)

/-- Operating time counts out of Cold and Off (R302). -/
def operating (s : Hw) : Bool := s.mc.mode != .cold && s.sec.power != .off

/-- aon_clk passes n periods. -/
def aonPass (s : Hw) (n : Nat) : Hw :=
  { s with clk := { s.clk with aon := s.clk.aon + n, op := if operating s then s.clk.op + n else s.clk.op } }

/-- Move aon_clk on to a period that is not past. -/
def advanceAon (s : Hw) (t : Nat) : Hw := aonPass s (t - s.clk.aon)

/-- Operating seconds (R302). -/
def opSeconds (s : Hw) : Nat := s.clk.opBase + s.clk.op / 32768

/-- Move on to a second of operating time that is not past. -/
def advanceOp (s : Hw) (t : Nat) : Hw := aonPass s ((t - s.clk.opBase) * 32768 - s.clk.op)

/-! ### Contexts -/

/-- Context c. -/
def Hw.ctx (s : Hw) (c : Nat) : Ctx := tget {} s.ctxs c
/-- Write context c. -/
def Hw.setCtx (s : Hw) (c : Nat) (x : Ctx) : Hw := { s with ctxs := tset {} s.ctxs c x }
/-- Change context c. -/
def Hw.modCtx (s : Hw) (c : Nat) (f : Ctx → Ctx) : Hw := s.setCtx c (f (s.ctx c))

/-- The domain of a context's request (R53). -/
def Ctx.domain (x : Ctx) : Nat := match x.req with | some r => r.domain.toNat | none => 0
/-- The epoch of a context's request (R53). -/
def Ctx.epoch (x : Ctx) : BitVec 16 := match x.req with | some r => r.epoch | none => 0
/-- LENGTH of a context's request. -/
def Ctx.length (x : Ctx) : Nat := match x.req with | some r => fld (wordOf r.desc 2) 27 37 | none => 0
/-- FLAGS bit i of a context's descriptor. -/
def Ctx.flag (x : Ctx) (i : Nat) : Bool := match x.req with | some r => bit (wordOf r.desc 0) (53 + i) | none => false
/-- The configuration set of a context's request. -/
def Hw.cfgOf (s : Hw) (c : Nat) : CfgSet := s.setOf (s.ctx c).epoch
/-- The bench of a context (R67). -/
def benchOf (c : Nat) : Nat := c / 64
/-- The awl of a context (R67). -/
def awlOf (c : Nat) : Nat := c / 16

/-- A general register; w0 reads zero. -/
def Ctx.rget (x : Ctx) (r : BitVec 5) : Word := if r = 0 then 0 else tget 0 x.regs r.toNat
/-- Write a general register; a write to w0 is discarded. -/
def Ctx.rset (x : Ctx) (r : BitVec 5) (v : Word) : Ctx :=
  if r = 0 then x else { x with regs := tset 0 x.regs r.toNat v }

/-- A ticket. -/
def Ctx.tk (x : Ctx) (t : Nat) : Ticket := tget {} x.tickets t
/-- Write a ticket. -/
def Ctx.setTk (x : Ctx) (t : Nat) (k : Ticket) : Ctx := { x with tickets := tset {} x.tickets t k }
/-- The lowest-numbered FREE ticket (R80). -/
def Ctx.freeTicket (x : Ctx) : Option Nat := (List.range 16).find? fun t => (x.tk t).st = .free

/-- A handle. -/
def Ctx.hnd (x : Ctx) (h : Nat) : Handle := tget {} x.handles h
/-- Write a handle. -/
def Ctx.setHnd (x : Ctx) (h : Nat) (v : Handle) : Ctx := { x with handles := tset {} x.handles h v }

/-- A cipher stream. -/
def Ctx.cs (x : Ctx) (n : Nat) : CipherStream := tget {} x.cstreams n
/-- Write a cipher stream. -/
def Ctx.setCs (x : Ctx) (n : Nat) (v : CipherStream) : Ctx := { x with cstreams := tset {} x.cstreams n v }
/-- A digest stream. -/
def Ctx.ds (x : Ctx) (n : Nat) : DigestStream := tget {} x.dstreams n
/-- Write a digest stream. -/
def Ctx.setDs (x : Ctx) (n : Nat) (v : DigestStream) : Ctx := { x with dstreams := tset {} x.dstreams n v }

/-! ### Jobs -/

/-- The key of the job of ticket t of context c. -/
def jobKey (c t : Nat) : Nat := 16 * c + t
/-- The job of a key. -/
def Hw.job (s : Hw) (k : Nat) : Option Job := (s.jobs.find? (·.1 = k)).map (·.2)
/-- Write a job. -/
def Hw.setJob (s : Hw) (k : Nat) (j : Job) : Hw := { s with jobs := tput k j s.jobs }
/-- Remove a job. -/
def Hw.delJob (s : Hw) (k : Nat) : Hw := { s with jobs := tdel k s.jobs }
/-- The jobs of a context. -/
def Hw.jobsOf (s : Hw) (c : Nat) : Table Job := s.jobs.filter fun e => e.1 / 16 = c

/-! ### Units (R8, R9) -/

/-- Unit ID of the engine of bench b at an offset. -/
def benchUnit (b off : Nat) : Nat := 16 * b + off
/-- Unit ID of a pair: 0-7 cipher pairs, 8-15 stream pairs. -/
def pairUnit (p : Nat) : Nat := benchUnit (p % 8) (p / 8)
/-- Unit ID of digest engine e: 0-31 lanes, 32-39 sequencers. -/
def digUnit (e : Nat) : Nat := if e < 32 then benchUnit (e / 4) (2 + e % 4) else benchUnit (e - 32) 6
/-- Unit ID of public-key unit u. -/
def pkuUnit (u : Nat) : Nat := benchUnit (u / 2) (7 + u % 2)
/-- Unit ID of awl a. -/
def awlUnit (a : Nat) : Nat := benchUnit (a / 4) (9 + a % 4)
/-- Unit ID of the router of bench b. -/
def routerUnit (b : Nat) : Nat := benchUnit b 13
/-- Unit ID of a control port (R9). -/
def ctlUnit (p : CtlPort) : Nat := match p with | .ctla => 0xC0 | .ctlb => 0xC1

/-- The fault block of a unit. -/
def Hw.blk (s : Hw) (u : Nat) : FltBlock := tget {} s.flt u
/-- Change a fault block. -/
def Hw.modBlk (s : Hw) (u : Nat) (f : FltBlock → FltBlock) : Hw := { s with flt := tmod {} s.flt u f }
/-- A unit is fenced. -/
def Hw.fenced (s : Hw) (u : Nat) : Bool := (s.blk u).fenced
/-- An engine of a bench counts as fenced: itself or its router (R349). -/
def Hw.out (s : Hw) (u : Nat) : Bool := s.fenced u || (u < 0x80 && s.fenced (routerUnit (u / 16)))

/-- Number of fenced units (MODE_STATUS.FENCED). -/
def Hw.fencedCount (s : Hw) : Nat := ((List.range 256).filter s.fenced).length

/-! ### Deficit round robin (R34, R35) -/

/-- The next domain of `heads` after `turn` in round order. -/
def nextTurn (heads : List (Nat × Nat)) (turn : Nat) : Nat :=
  match heads.find? (fun h => turn < h.1) with
  | some h => h.1
  | none => match heads with | h :: _ => h.1 | [] => turn

/-- Serve the domain in turn while its credit covers its head; else give the next domain its weight. -/
def arbGo (w : Nat → Nat) (heads : List (Nat × Nat)) : Nat → Arb → Option (Nat × Arb)
  | 0, _ => none
  | n + 1, a =>
    let d' := nextTurn heads a.turn
    let move := arbGo w heads n { credit := tset 0 a.credit d' (tget 0 a.credit d' + w d'), turn := d' }
    match heads.find? (fun h => h.1 = a.turn) with
    | some h =>
      if h.2 ≤ tget 0 a.credit h.1 then some (h.1, { a with credit := tset 0 a.credit h.1 (tget 0 a.credit h.1 - h.2) })
      else move
    | none => move

/-- One grant at a shared engine. `heads` gives each backlogged domain, rising, with the cost of its head. -/
def arbPick (w : Nat → Nat) (heads : List (Nat × Nat)) (a : Arb) : Option (Nat × Arb) :=
  let debt := a.credit.foldl (fun m e => m + e.2.natAbs) 0
  arbGo w heads ((heads.length + 1) * (heads.foldl (fun m h => max m h.2) 1 + debt + 1)) a

/-- Work of a domain arrives at a shared engine. One that had none there banks no credit from before (R34): nothing reads a
credit while its domain has no work. What it owes stands (R208). -/
def Arb.arrive (a : Arb) (d : Nat) (had : Bool) : Arb :=
  if had then a else { a with credit := tset 0 a.credit d (min 0 (tget 0 a.credit d)) }

/-- Insert a number into a rising list without repeats. -/
def insertNat (n : Nat) : List Nat → List Nat
  | [] => [n]
  | m :: r => if n < m then n :: m :: r else if n = m then m :: r else m :: insertNat n r

/-- The distinct numbers of a list, rising. -/
def risingNats (l : List Nat) : List Nat := l.foldr insertNat []

/-- The element with the least measure, the first among equals. -/
def leastBy {α : Type} (f : α → Nat) : List α → Option α
  | [] => none
  | a :: r => match leastBy f r with
    | none => some a
    | some b => if f a ≤ f b then some a else some b

end Sys2Proof.Machine
end

