-- ==== Sys2Proof/Machine/Flt.lean ====
section
/-! DEFINITION. Logging an event: the event tables of every chapter, the fault block (R343 to R347), the recorder's count
table (R363, R364) and the alert output (R357). What an event does beyond its log stands in Machine/Fence.lean. -/

namespace Sys2Proof.Machine

/-- A row of an event table: class (R341), whether the recorder counts it, whether it enters the history queue, whether
the table names the interrupt, and whether it fences its unit. -/
structure EvRow where
  cls : BitVec 2
  rec' : Bool
  hist : Bool
  irq : Bool
  fence : Bool
deriving DecidableEq, Repr

/-- Recorder count only. -/
def rowCount : EvRow := ⟨0, true, false, false, false⟩
/-- Recorder count and history queue, informational. -/
def rowHist : EvRow := ⟨0, true, true, false, false⟩
/-- Recorder count, history queue and interrupt, informational. -/
def rowIrq : EvRow := ⟨0, true, true, true, false⟩
/-- A corrected hardware event marked "count". -/
def rowCorr : EvRow := ⟨1, true, false, false, false⟩
/-- Uncorrected-contained, fencing its unit. -/
def rowFence : EvRow := ⟨2, true, true, true, true⟩
/-- Uncorrected-contained, not fenced. -/
def rowUncorr : EvRow := ⟨2, true, true, true, false⟩
/-- Fatal. -/
def rowFatal : EvRow := ⟨3, true, true, true, false⟩

/-- The event table of the engines of a bench, by offset (R98, R168, R189, R211, R230, R352). -/
def benchRow (s : Hw) (u off e : Nat) : Option EvRow :=
  if off = 0 ∨ off = 1 then
    match e with
    | 0x01 | 0x02 | 0x06 => some rowCount
    | 0x03 => some rowUncorr
    | 0x04 => some (if bit (tget ({} : Pair) s.pairs (8 * off + u / 16)).cfg 1 then rowIrq else rowCount)
    | 0x05 => some rowHist
    | 0x40 | 0x42 => some rowFence
    | 0x41 => if off = 0 then some rowFence else none
    | 0x43 => some rowCorr
    | _ => none
  else if off ≤ 6 then
    match e with
    | 0x01 => some rowCount
    | 0x02 => if off = 6 then none else some rowCount
    | 0x03 => if off = 6 then none else some rowHist
    | 0x40 | 0x41 => some rowFence
    | 0x42 => some rowCorr
    | _ => none
  else if off ≤ 8 then
    match e with
    | 0x01 | 0x02 | 0x20 | 0x28 | 0x29 => some rowCount
    | 0x03 | 0x04 | 0x11 | 0x12 | 0x13 | 0x14 | 0x21 => some rowIrq
    | 0x10 | 0x15 | 0x16 | 0x30 => some rowHist
    | 0x40 | 0x41 | 0x42 | 0x43 => some rowFence
    | 0x44 => some rowCorr
    | _ => none
  else if off ≤ 12 then
    match e with
    | 0x01 => some (if bit s.trapq.cfg 16 then rowIrq else rowCount)
    | 0x02 | 0x03 => some rowHist
    | 0x40 | 0x41 => some rowFence
    | 0x42 => some rowCorr
    | _ => none
  else if off = 13 then
    match e with
    | 0x40 => some rowFence
    | 0x41 => some rowCorr
    | _ => none
  else none

/-- The event table of the global units (R66, R259, R288, R305, R321, R338, R352, R355, R373, R381, R400, R403, R427,
R459). The
class of a detector trip is that of its action (R398) and comes with the event. -/
def globalRow (u e : Nat) : Option EvRow :=
  match u with
  | 0x80 => match e with
    | 0x01 => some rowCount
    | 0x02 => some rowUncorr
    | 0x03 => some rowHist
    | 0x04 | 0x05 => some rowIrq
    | 0x40 | 0x41 => some rowFatal
    | _ => none
  | 0x81 => match e with
    | 0x01 => some rowFatal
    | 0x02 | 0x08 => some rowHist
    | 0x03 | 0x05 => some rowIrq
    | 0x04 | 0x06 | 0x07 => some rowCount
    | 0x40 => some rowUncorr
    | 0x41 | 0x42 => some rowFatal
    | 0x43 => some rowCorr
    | _ => none
  | 0x82 => match e with
    | 0x01 => some rowFence
    | 0x02 | 0x04 => some rowIrq
    | 0x03 => some rowUncorr
    | 0x05 => some rowHist
    | 0x40 => some rowFence
    | _ => none
  | 0x83 => match e with
    | 0x01 | 0x03 => some rowHist
    | 0x02 => some rowIrq
    | 0x05 => some rowCount
    | 0x40 | 0x41 => some rowFatal
    | _ => none
  | 0x84 => match e with
    | 0x01 => some rowCount
    | 0x40 | 0x41 | 0x42 => some rowFence
    | _ => none
  | 0x85 => match e with
    | 0x01 | 0x02 | 0x03 | 0x05 | 0x06 => some rowCount
    | 0x04 => some rowIrq
    | 0x40 => some rowFatal
    | _ => none
  | 0x86 => match e with
    | 0x40 => some rowUncorr
    | 0x41 => some rowCorr
    | _ => none
  | 0x87 => match e with
    | 0x40 => some rowFence
    | _ => none
  | 0x88 => match e with
    | 0x01 => some rowCount
    | 0x02 | 0x05 => some rowHist
    | 0x03 => some ⟨0, false, true, true, false⟩
    | 0x04 => some ⟨2, false, true, true, false⟩
    | 0x40 => some rowFence
    | _ => none
  | 0x89 => match e with
    | 0x01 | 0x02 => some rowCount
    | 0x03 => some rowIrq
    | 0x40 => some rowFence
    | _ => none
  | 0x8A => match e with
    | 0x01 => some rowIrq
    | 0x02 | 0x03 => some rowCount
    | 0x04 | 0x05 => some rowHist
    | 0x40 => some rowFatal
    | _ => none
  | 0x8B => match e with
    | 0x01 | 0x03 => some rowHist
    | 0x02 | 0x05 => some rowIrq
    | 0x04 | 0x06 => some rowCount
    | 0x07 => some rowFatal
    | 0x40 => some rowFatal
    | _ => none
  | 0xC2 => match e with
    | 0x40 => some rowFatal
    | _ => none
  | 0xC8 => match e with
    | 0x01 | 0x02 | 0x03 | 0x04 | 0x05 | 0x06 => some rowIrq
    | 0x10 => some rowHist
    | 0x11 | 0x12 => some rowCount
    | 0x40 => some rowFence
    | _ => none
  | 0xC9 => match e with
    | 0x01 => some rowIrq
    | 0x40 => some rowFatal
    | _ => none
  | _ =>
    if 0x90 ≤ u ∧ u ≤ 0xAF then
      match e with
      | 0x40 | 0x41 => some rowFence
      | 0x42 => some rowCount
      | _ => none
    else if 0xB0 ≤ u ∧ u ≤ 0xB7 then
      match e with
      | 0x01 | 0x05 | 0x06 => some rowHist
      | 0x02 | 0x07 => some rowIrq
      | 0x04 => some rowUncorr
      | 0x40 | 0x42 => some rowFence
      | 0x41 => some rowCorr
      | _ => none
    else if u = 0xC0 ∨ u = 0xC1 then
      match e with
      | 0x01 => some rowHist
      | 0x40 => some rowFence
      | _ => none
    else none

/-- The row of an event; none for a reserved number (R10). -/
def eventRow (s : Hw) (u e : Nat) : Option EvRow := if u < 0x80 then benchRow s u (u % 16) e else globalRow u e

/-! ### The recorder's count table -/

/-- REC_POLICY.BURST of the active set; 0 acts as 1. -/
def recBurst (s : Hw) : Nat := max 1 (fld (cfgWord s.active 0x9010) 32 8)

/-- One event in its entry (R364). -/
def countHit (c : CodeCount) : CodeCount :=
  if c.tokens = 0 then { c with count := c.count + 1, suppressed := c.suppressed + 1 }
  else { c with count := c.count + 1, tokens := c.tokens - 1, queued := true }

/-- Count one event of a code, and queue its code record when a token is left and none is queued (R363, R364). The flag
says that the table was full. -/
def recBump (r : Recorder) (burst aon : Nat) (code : BitVec 16) : Recorder × Bool :=
  match r.codes.find? (·.code = code) with
  | some c =>
    let q := if c.tokens = 0 || c.queued then r.queue else r.queue ++ [⟨1, code, []⟩]
    ({ r with codes := r.codes.map fun x => if x.code = code then countHit x else x, queue := q }, false)
  | none =>
    if r.codes.length < 1024 then
      ({ r with
          codes := r.codes ++ [countHit ⟨code, 0, 0, burst, false, 0, aon⟩]
          queue := r.queue ++ [⟨1, code, []⟩] }, false)
    else ({ r with overflow := satInc r.overflow }, true)

/-- The history entry of an event now. -/
def fltEntry (s : Hw) (e : Nat) (data : BitVec 16) (cls : BitVec 2) : FltEntry :=
  ⟨BitVec.ofNat 32 s.clk.aon, data, cls, BitVec.ofNat 8 e⟩

/-- Of two errors of one core clock, whether the later one is the first error: the higher class, or the lower number (R345). -/
def fltOutranks (en : FltEntry) (first : Option FltEntry) : Bool :=
  match first with
  | some f => f.cls.toNat < en.cls.toNat || (f.cls = en.cls && en.event.toNat < f.event.toNat)
  | none => false

/-- An event enters a fault block: history (R346), counts, first error and merging (R344, R345), INFO (R347). -/
def fltRecord (b : FltBlock) (en : FltEntry) (irq : Bool) (now : Nat) : FltBlock :=
  let b := { b with
    hist := (en :: b.hist).take 8
    histLost := if b.hist.length < 8 then b.histLost else satInc b.histLost
    corr := if en.cls = 1 then satInc b.corr else b.corr
    uncorr := if 2 ≤ en.cls.toNat then satInc b.uncorr else b.uncorr
    info := b.info || (en.cls = 0 && irq) }
  if en.cls = 0 then b
  else if b.pend then
    let b := { b with merge := satInc b.merge }
    if b.firstAt = now && fltOutranks en b.first then { b with cls := en.cls, worst := en.event, first := some en }
    else if b.cls.toNat < en.cls.toNat then { b with cls := en.cls, worst := en.event } else b
  else { b with pend := true, cls := en.cls, worst := en.event, first := some en, firstAt := now, merge := 0 }

/-- A pulse of err_o begins, or is absorbed into the one that runs (R357, R358). -/
def errPulse (w : Warden) (aon : Nat) : Warden :=
  if w.errPulse then w
  else { w with errPulse := true, errAt := aon, pulses := satInc w.pulses, errLevel := w.errLevel || w.errLatch }

/-- Count an event in the recorder; a stopped recorder counts nothing (R371). A full table logs the recorder's event 0x05
once per period (R363). -/
def recCount (s : Hw) (u e : Nat) : Hw :=
  if s.recd.stopped then s
  else
    let (r, full) := recBump s.recd (recBurst s) s.clk.aon (BitVec.ofNat 16 (256 * u + e))
    if full && !r.overflowLogged then
      let s := { s with recd := (recBump { r with overflowLogged := true } (recBurst s) s.clk.aon 0x8805).1 }
      s.modBlk 0x88 fun b => fltRecord b (fltEntry s 5 0 0) false s.clk.core
    else { s with recd := r }

/-- Log an event with a given row: recorder, fault block and err_o. -/
def logRow (s : Hw) (u e : Nat) (data : BitVec 16) (row : EvRow) : Hw :=
  let s := if row.rec' then recCount s u e else s
  let s := if row.hist then s.modBlk u fun b => fltRecord b (fltEntry s e data row.cls) row.irq s.clk.core else s
  if 2 ≤ row.cls.toNat then { s with ward := errPulse s.ward s.clk.aon } else s

/-- Log an event of a unit by its table. A reserved number logs nothing. -/
def note (s : Hw) (u e : Nat) (data : BitVec 16 := 0) : Hw :=
  match eventRow s u e with
  | some row => logRow s u e data row
  | none => s

/-- FLT_STATUS.IRQ (R347). -/
def FltBlock.irq (b : FltBlock) : Bool := (b.pend && (2 ≤ b.cls.toNat || (b.cls = 1 && b.irqCorr))) || b.info

end Sys2Proof.Machine
end

