-- ==== Sys2Proof/Machine/Store.lean ====
section
/-! DEFINITION. The central store as contexts reach it: range words (R115), handles (R73, R285), held ranges (R75), buffers
and their quotas (R30, R31, R37). -/

namespace Sys2Proof.Machine

/-! ### Range words (R115) -/

/-- LEN. -/
def rgLen (r : Word) : Nat := fld r 32 32
/-- SCR. -/
def rgScr (r : Word) : Bool := bit r 26
/-- HANDLE. -/
def rgHnd (r : Word) : Nat := fld r 22 4
/-- OFFSET. -/
def rgOff (r : Word) : Nat := fld r 0 22
/-- A reserved bit of a range word is set. -/
def rgReserved (r : Word) : Bool := fld r 27 5 != 0

/-- A range in scratch is well formed: HANDLE zero, ending by 0x1000 (R115). -/
def rgScrOk (r : Word) : Bool := !rgScr r || rgLen r = 0 || (rgHnd r = 0 && rgOff r + rgLen r ≤ 0x1000)

/-- A range in a handle lies inside its allocated length (R74, R115). -/
def rgInside (x : Ctx) (r : Word) : Bool :=
  rgScr r || rgLen r = 0 || rgOff r + rgLen r ≤ 4096 * (x.hnd (rgHnd r)).count

/-- Two ranges share a byte. -/
def rgOverlap (a b : Word) : Bool :=
  rgLen a != 0 && rgLen b != 0 && rgScr a = rgScr b && rgHnd a = rgHnd b &&
    rgOff a < rgOff b + rgLen b && rgOff b < rgOff a + rgLen a

/-- The sub-range of n bytes from byte i of a range. -/
def rgSub (r : Word) (i n : Nat) : Word :=
  put 32 32 n ||| putb 26 (rgScr r) ||| put 22 4 (rgHnd r) ||| put 0 22 (rgOff r + i)

/-- Central-store byte address of offset o of a handle (R285). -/
def hndAddr (h : Handle) (o : Nat) : Nat :=
  match h.bufs[o / 4096]? with
  | some b => 4096 * b + o % 4096
  | none => 0

/-- Buffer under offset o of a handle. -/
def hndBuf (h : Handle) (o : Nat) : Nat := hndAddr h o / 4096

/-- n bytes of a handle from offset o. -/
def hndRead (s : Hw) (h : Handle) (o : Nat) : Nat → Bytes
  | 0 => []
  | n + 1 => mget s.cs.bytes (hndAddr h o) :: hndRead s h (o + 1) n

/-- A memory with bytes written to a handle from offset o. -/
def hndPut (m : Memory) (h : Handle) (o : Nat) : Bytes → Memory
  | [] => m
  | b :: r => hndPut (mset m (hndAddr h o) b) h (o + 1) r

/-- Write bytes to a handle from offset o. A corrected word that waits for its write-back and is written now drops it
(R284). -/
def hndWrite (s : Hw) (h : Handle) (o : Nat) (b : Bytes) : Hw :=
  { s with cs := { s.cs with
      bytes := hndPut s.cs.bytes h o b
      writeBacks := s.cs.writeBacks.filter fun w =>
        !(List.range b.length).any fun i => hndAddr h (o + i) / 32 = 128 * w.1 + w.2 } }

/-- The bytes of a range of context c. -/
def rgRead (s : Hw) (c : Nat) (r : Word) : Bytes :=
  if rgScr r then mread (s.ctx c).scratch (rgOff r) (rgLen r)
  else hndRead s ((s.ctx c).hnd (rgHnd r)) (rgOff r) (rgLen r)

/-- Write bytes at the start of a range of context c. -/
def rgWrite (s : Hw) (c : Nat) (r : Word) (b : Bytes) : Hw :=
  if rgScr r then s.modCtx c fun x => { x with scratch := mwrite x.scratch (rgOff r) b }
  else hndWrite s ((s.ctx c).hnd (rgHnd r)) (rgOff r) b

/-- The buffers that a range of a handle touches. -/
def rgBufs (x : Ctx) (r : Word) : List Nat :=
  if rgScr r || rgLen r = 0 then []
  else
    let h := x.hnd (rgHnd r)
    (List.range ((rgOff r + rgLen r - 1) / 4096 + 1 - rgOff r / 4096)).map fun i => hndBuf h (rgOff r + 4096 * i)

/-- A range lies on a poisoned buffer (R286). -/
def rgPoisoned (s : Hw) (c : Nat) (r : Word) : Bool := (rgBufs (s.ctx c) r).any fun b => s.cs.poisoned.contains b

/-- The ranges held against reading: those of undecided hold-until-verified streams (R75, R157). -/
def heldRanges (x : Ctx) : List Word :=
  (x.cstreams.filter fun e => e.2.undecided && !e.2.rel).flatMap fun e => e.2.held

/-- The released ranges of undecided stream-release streams (R159). -/
def releasedRanges (x : Ctx) : List Word :=
  (x.cstreams.filter fun e => e.2.undecided && e.2.rel).flatMap fun e => e.2.held

/-- A range touches a held range. -/
def rgHeld (x : Ctx) (r : Word) : Bool := (heldRanges x).any fun h => rgOverlap h r

/-! ### Buffers (R30 to R32, R37) -/

/-- The lowest n free buffers from number `next` on, of those still to be looked at. -/
def freeFrom (t : Table BufState) : Nat → Nat → Nat → List Nat
  | 0, _, _ => []
  | f + 1, next, n =>
    if n = 0 then []
    else if tget BufState.free t next = .free then next :: freeFrom t f (next + 1) (n - 1)
    else freeFrom t f (next + 1) n

/-- Number of free, zeroed buffers (CS_STATUS.FREE). -/
def freeCount (s : Hw) : Nat := 8192 - s.cs.bufs.length

/-- Buffers retired since Cold (R287). -/
def retiredCount (s : Hw) : Nat := (s.cs.bufs.filter fun e => e.2 = .retired).length

/-- Buffers a domain holds (R30). -/
def bufCount (s : Hw) (d : Nat) : Nat := tget 0 s.cs.count d

/-- The unreserved pool of the active set, less what domains hold beyond their reserves (R31). -/
def poolFree (s : Hw) : Nat :=
  8192 - reserveSum s.active - retiredCount s -
    s.cs.count.foldl (fun a e => a + (e.2 - (if domValid s.active e.1 then domReserve s.active e.1 else 0))) 0

/-- Buffers that an allocation of n for domain d takes from the unreserved pool (R30, R287). -/
def poolNeed (s : Hw) (d n : Nat) : Nat :=
  let r := if domValid s.active d then domReserve s.active d else 0
  if 8192 - retiredCount s < reserveSum s.active then n
  else (bufCount s d + n - r) - (bufCount s d - r)

/-- Whether an allocation of n for domain d can be served now; `first` says that no allocation waits before it. What
the request's own reserve does not cover comes from the pool, and so does what the active reserve does not (R30). An
allocation that its count has room for only in part takes the rest from the pool, and waits there as a whole (log 129). -/
def canAllocate (s : Hw) (own : CfgSet) (d n : Nat) (first : Bool) : Bool :=
  let r := domReserve own d
  let need := max (poolNeed s d n) ((bufCount s d + n - r) - (bufCount s d - r))
  n ≤ freeCount s && (need = 0 || (first && need ≤ poolFree s))

/-- Give n free buffers to a domain. -/
def takeBuffers (s : Hw) (d n : Nat) : List Nat × Hw :=
  let l := freeFrom s.cs.bufs 8192 0 n
  let bufs := l.foldl (fun t b => tput b (BufState.owned (BitVec.ofNat 12 d)) t) s.cs.bufs
  (l, { s with cs := { s.cs with bufs := bufs, count := tmod 0 s.cs.count d (· + n) } })

/-- Free buffers of a domain: its count falls at once, and they enter the zeroer's queue in order (R32, R37). A poisoned
buffer is read back after it is zeroed (R286). -/
def freeBuffers (s : Hw) (d : Nat) (l : List Nat) : Hw :=
  let bufs := l.foldl (fun t b => tput b BufState.zeroing t) s.cs.bufs
  { s with cs := { s.cs with
      bufs := bufs
      count := tmod 0 s.cs.count d (· - l.length)
      zeroQ := s.cs.zeroQ ++ l
      recheck := s.cs.recheck ++ l.filter (fun b => s.cs.poisoned.contains b)
      poisoned := s.cs.poisoned.filter fun b => !l.contains b
      writeBacks := s.cs.writeBacks.filter fun w => !l.contains w.1 } }

/-- Close a handle and free its buffers (R73). -/
def closeHandle (s : Hw) (c h : Nat) : Hw :=
  let v := (s.ctx c).hnd h
  let s := freeBuffers s (s.ctx c).domain v.bufs
  s.modCtx c fun x => x.setHnd h {}

/-- A word of an allocated buffer cannot be corrected: the buffer is poisoned, and the request that owns it commits
DATA_UNCORRECTED (R286). -/
def poison (s : Hw) (b : Nat) : Hw :=
  if s.cs.poisoned.contains b then s
  else
    let s := { s with cs := { s.cs with poisoned := s.cs.poisoned ++ [b], cntInUse := satInc s.cs.cntInUse } }
    let s := { s with ctxs := s.ctxs.map fun e =>
      (e.1, if e.2.handles.any (fun h => h.2.bufs.contains b) then { e.2 with lostData := true } else e.2) }
    note s 0x80 2

/-- The bank of word w of buffer b (R280). -/
def wordBank (b w : Nat) : Nat := (b + w) % 128

/-- What the decoder makes of a word: correct, corrected at the positions that are not marked, or lost. -/
inductive Decoded where
  | clean
  | corrected (positions : List (BitVec 6))
  | lost
deriving DecidableEq, Repr

/-- The decoder of a bank with marked sub-arrays, of a word with symbols in error (R281): it corrects the marked ones, and one
further symbol while fewer than two are marked. A word with more errors than the code detects is lost too (log 131). -/
def decodeWord (marks positions : List (BitVec 6)) : Decoded :=
  let all := positions.eraseDups.filter fun p => p.toNat < 36
  let new := all.filter fun p => !marks.contains p
  if all.isEmpty then .clean
  else if new.length ≤ (if marks.length < 2 then 1 else 0) then .corrected new
  else .lost

/-- What the decoder makes of word w of buffer b. -/
def wordDecode (s : Hw) (b w : Nat) (positions : List (BitVec 6)) : Decoded :=
  decodeWord (tget [] s.cs.marks (wordBank b w)) positions

/-- What a read of a coded word does besides delivering it (R281, R284, R286): a corrected word is counted and queued for
its write-back, an uncorrectable one poisons its buffer. A correction at marked positions alone is neither logged nor
counted. -/
def storeRead (s : Hw) (b w : Nat) (positions : List (BitVec 6)) : Hw :=
  match wordDecode s b w positions with
  | .clean => s
  | .corrected new =>
    let s := { s with cs := { s.cs with
      writeBacks := if s.cs.writeBacks.contains (b, w) then s.cs.writeBacks else s.cs.writeBacks ++ [(b, w)] } }
    if new.isEmpty then s else note { s with cs := { s.cs with cntCorr := satInc s.cs.cntCorr } } 0x80 1
  | .lost => poison s b

/-- The words with errors that a read of n bytes from offset o of a handle meets: buffer, word and positions. -/
def readWords (h : Handle) (o n : Nat) (read : List WordErrors) : List (Nat × Nat × List (BitVec 6)) :=
  read.filterMap fun e =>
    let a := o / 32 * 32 + 32 * e.word
    if a < o + n then some (hndBuf h a, a % 4096 / 32, e.positions) else none

/-- The words with errors that a read of a range meets. -/
def rgWords (x : Ctx) (r : Word) (read : List WordErrors) : List (Nat × Nat × List (BitVec 6)) :=
  if rgScr r then [] else readWords (x.hnd (rgHnd r)) (rgOff r) (rgLen r) read

/-- One of the words of a read is lost. -/
def readLost (s : Hw) (l : List (Nat × Nat × List (BitVec 6))) : Bool := l.any fun w => wordDecode s w.1 w.2.1 w.2.2 = .lost

/-- Hold quota in use by a domain (R33). -/
def holdCount (s : Hw) (d : Nat) : Nat := tget 0 s.cs.holds d

end Sys2Proof.Machine
end

