-- ==== Sys2Proof/Machine/Work.lean ====
section
/-! DEFINITION. The work of a context: tickets (R80, R113), how jobs and streams end (R117, R138, R158, R160), and how a
request is withdrawn (R64, R94). -/

namespace Sys2Proof.Machine

/-! ### Parameter blocks (R116, R119, R120) -/

/-- MODE of a cipher block. -/
def cbMode (b : Block) : Nat := fld (wordOf b 0) 0 8
/-- DIR: true to decrypt or verify. -/
def cbDir (b : Block) : Bool := bit (wordOf b 0) 8
/-- FIRST of a cipher or digest block. -/
def pbFirst (b : Block) : Bool := bit (wordOf b 0) 9
/-- LAST of a cipher or digest block. -/
def pbLast (b : Block) : Bool := bit (wordOf b 0) 10
/-- STREAM of a cipher or digest block. -/
def pbStream (b : Block) : Nat := fld (wordOf b 0) 11 2
/-- SLOT of any block. -/
def pbSlot (b : Block) : BitVec 17 := (wordOf b 0).extractLsb' 32 17
/-- REL. -/
def cbRel (b : Block) : Bool := bit (wordOf b 0) 13
/-- EXTIV. -/
def cbExtiv (b : Block) : Bool := bit (wordOf b 0) 14
/-- NHOLD. -/
def cbNhold (b : Block) : Nat := fld (wordOf b 0) 16 2
/-- SRC of a cipher or digest block. -/
def pbSrc (b : Block) : Word := wordOf b 1
/-- DST of a cipher block, OUT of a digest block. -/
def pbDst (b : Block) : Word := wordOf b 2
/-- AAD. -/
def cbAad (b : Block) : Word := wordOf b 3
/-- TAG. -/
def cbTag (b : Block) : Word := wordOf b 4
/-- IVW. -/
def cbIvw (b : Block) : Word := wordOf b 5
/-- DU_LOG2. -/
def cbDu (b : Block) : Nat := fld (wordOf b 6) 0 5
/-- ALG of a digest block. -/
def dbAlg (b : Block) : Nat := fld (wordOf b 0) 0 8

/-- A cipher mode with a tag that decides plaintext: GCM, KW, ChaCha20-Poly1305 (R156). -/
def taggedMode (m : Nat) : Bool := m = 0x01 || m = 0x07 || m = 0x10

/-- The pair that serves a mode on a bench (R128). -/
def pairOf (bench m : Nat) : Nat := if m = 0x10 then 8 + bench else bench

/-- Whether a job is of cipher stream n. A stream is known by the issue order of its FIRST job, since a number can open
again once its LAST job has issued (R117, log 21). -/
def Job.ofCs (j : Job) (n : Nat) : Bool := match j.op with | .ciph _ => j.stream = n | _ => false
/-- Whether a job is of digest stream n. -/
def Job.ofDs (j : Job) (n : Nat) : Bool := match j.op with | .dgst _ => j.stream = n | _ => false

/-- The range of n bytes at a context address, when it starts in a handle (R71). -/
def ctxRange (a : Word) (n : Nat) : List Word :=
  if 0x10000000 ≤ a.toNat && a.toNat < 0x10000000 + 0x400000 * 16 then
    [put 32 32 n ||| put 22 4 ((a.toNat - 0x10000000) / 0x400000) ||| put 0 22 ((a.toNat - 0x10000000) % 0x400000)]
  else []

/-- The ranges that a job reads from a handle and that a hold keeps it from (R75, R124, R172). -/
def Job.source (j : Job) : List Word :=
  match j.op with
  | .xscat r | .xstore _ r | .xlib _ r | .kint r => [r]
  | .katt _ r => [rgSub r 0 32]
  | .dgst b => [pbSrc b]
  | .cmpct a b n => ctxRange a n ++ ctxRange b n
  | _ => []

/-- A job that reads its source as soon as it is passed to its engine, so a hold keeps it in the router. -/
def Job.atPass (j : Job) : Bool := match j.op with | .kint _ | .katt _ _ | .cmpct _ _ _ => j.phase = .after | _ => false

/-- A transfer out of a handle. -/
def Job.outward (j : Job) : Bool :=
  match j.op with | .xscat _ | .xstore _ _ | .xlib _ _ => true | _ => false

/-- The bytes a transfer has moved: those of its pieces before the first refused one, each wholly completed (R27). -/
def movedBytes (j : Job) : Nat :=
  (j.pieces.takeWhile fun p => !p.bad && p.out = 0).foldl (fun a p => a + p.len) 0

/-- Transactions of a transfer that are outstanding. -/
def outstanding (j : Job) : Nat := j.pieces.foldl (fun a p => a + p.out) 0

/-! ### Tickets -/

/-- A ticket becomes DONE (R80), and jobs that name it learn its status (R113). -/
def setDone (s : Hw) (c t : Nat) (status : BitVec 8) (result : Word) : Hw :=
  let s := s.modCtx c fun x => x.setTk t { x.tk t with st := .done, status := status, result := result }
  { s with jobs := s.jobs.map fun e =>
      if e.1 / 16 = c then
        (e.1, { e.2 with preds := e.2.preds.map fun p =>
          if p.ticket.toNat = t && p.status.isNone then { p with status := some status } else p })
      else e }

/-- The pair of a bench. -/
def Hw.pair (s : Hw) (p : Nat) : Pair := tget {} s.pairs p
/-- Change a pair. -/
def Hw.modPair (s : Hw) (p : Nat) (f : Pair → Pair) : Hw := { s with pairs := tmod {} s.pairs p f }

/-- A pair's stall for masks is over: its core clocks count (R167). -/
def Pair.stallOver (v : Pair) (now : Nat) : Pair :=
  match v.stallFrom with
  | some t => { v with stallClk := satInc v.stallClk (now - t), stallFrom := none, stallSaid := false }
  | none => v

/-- Another job has a stitch to run on a pair. -/
def pairWanted (s : Hw) (p key : Nat) : Bool :=
  s.jobs.any fun e => e.1 != key && (match e.2.op with
    | .ciph b => pairOf (benchOf (e.1 / 16)) (cbMode b) = p && e.2.phase = .running
    | _ => false)

/-- The last stitch that waited for masks is gone with its job: the stall ends. -/
def stallEnd (s : Hw) (p key : Nat) : Hw :=
  if (s.pair p).stallFrom.isSome && !pairWanted s p key then s.modPair p fun v => v.stallOver s.clk.core else s

/-- Give back what a job holds: an XTS reservation (R461), a wait for a lease, a wait for buffers, a wait for masks. -/
def releaseJob (s : Hw) (key : Nat) : Hw :=
  let s := match s.job key with
    | some j => match j.op with
      | .ciph b =>
        let s := stallEnd s (pairOf (benchOf (key / 16)) (cbMode b)) key
        if cbMode b = 3 && !cbDir b && j.started then
          { s with keys := { s.keys with slots := tmod {} s.keys.slots (pbSlot b).toNat fun v =>
              { v with reserved := v.reserved - (j.span - j.charged) } } }
        else s
      | _ => s
    | none => s
  { s with
      keys := { s.keys with charges := s.keys.charges.filter fun w => w.key != key }
      cs := { s.cs with waiters := s.cs.waiters.filter fun k => k != key } }

/-- A job ends: its ticket becomes DONE and the job is gone. -/
def finish (s : Hw) (key : Nat) (status : BitVec 8) (result : Word) : Hw :=
  setDone ((releaseJob s key).delJob key) (key / 16) (key % 16) status result

/-- A job ends with a result that the spec does not state (log 1). -/
def finishFree (s : Hw) (key : Nat) (status : BitVec 8) : Hw :=
  let (n, s) := drawFree s
  finish s key status (Config.freeWord n)

/-- A transfer ends: its result is the bytes moved (R27, R121). -/
def finishTransfer (s : Hw) (key : Nat) (j : Job) (status : BitVec 8) : Hw :=
  finish s key status (BitVec.ofNat 64 (movedBytes j))

/-- A transfer issues nothing further and ends with a status when nothing of it is outstanding (R27). -/
def stopTransfer (s : Hw) (key : Nat) (j : Job) (status : BitVec 8) : Hw :=
  if outstanding j = 0 then finishTransfer s key j status
  else s.setJob key { j with stopped := true, phase := .closing, final := if j.stopped then j.final else status }

/-- End a job before its own end, with a status. -/
def endJob (s : Hw) (key : Nat) (status : BitVec 8) : Hw :=
  match s.job key with
  | none => s
  | some j => match j.op with
    | .xgath _ | .xscat _ | .xload _ _ | .xstore _ _ | .xlib _ _ => stopTransfer s key j status
    | .ciph b => finish s key status (BitVec.ofNat 64 (min j.pos (rgLen (pbDst b))))
    | .dgst _ => finish s key status (BitVec.ofNat 64 j.pos)
    | .pk _ | .kint _ => finish s key status 0
    | .ndraw _ _ => finishFree s key status
    | .kchk _ | .katt _ _ | .cmpct _ _ _ | .alloc _ _ | .free _ | .join | .post | .signal _ _ =>
      finishFree s key status

/-- End every job of a context that satisfies a test. -/
def endJobs (s : Hw) (c : Nat) (p : Job → Bool) (status : BitVec 8) : Hw :=
  ((s.jobsOf c).filter fun e => p e.2).foldl (fun s e => endJob s e.1 status) s

/-! ### Streams -/

/-- A stream of digests can go on failing behind its older jobs: a later job has failed, and those run on (R117). -/
def endingDs (s : Hw) (c n : Nat) (st : BitVec 8) : Hw :=
  s.modCtx c fun x => x.setDs n { x.ds n with ending := some ((x.ds n).ending.getD st) }

/-- A digest stream fails: its state is cleared and all its jobs complete with the status (R117, R181). -/
def failDs (s : Hw) (c n : Nat) (st : BitVec 8) : Hw :=
  let s := s.modCtx c fun x =>
    x.setDs n { num := (x.ds n).num, isOpen := (x.ds n).isOpen, failed := some ((x.ds n).ending.getD st) }
  endJobs s c (fun j => j.ofDs n) st

/-- Held plaintext is discarded: zeros are written over every held range, the reservation is released, and what waited for
the ranges ends with the status (R75, R158, R172). -/
def dropHold (s : Hw) (c n : Nat) (st : BitVec 8) : Hw :=
  let x := s.ctx c
  let v := x.cs n
  let s := v.held.foldl (fun s r => rgWrite s c r (zeros (rgLen r))) s
  let s := { s with cs := { s.cs with holds := tmod 0 s.cs.holds x.domain (· - v.holdBufs) } }
  let s := s.modCtx c fun x => x.setCs n { x.cs n with held := [], heldBytes := 0, holdBufs := 0, undecided := false }
  let hit := fun (j : Job) => j.source.any fun r => v.held.any fun h => rgOverlap h r
  let ds := ((s.jobsOf c).filter fun e => hit e.2).filterMap fun e =>
    match e.2.op with | .dgst _ => some e.2.stream | _ => none
  let s := ds.eraseDups.foldl (fun s n => failDs s c n st) s
  endJobs s c (fun j => (j.outward || j.atPass) && hit j) st

/-- The hold of a stream is lifted: its tag verified (R158). -/
def clearHold (s : Hw) (c n : Nat) : Hw :=
  let x := s.ctx c
  let s := { s with cs := { s.cs with holds := tmod 0 s.cs.holds x.domain (· - (x.cs n).holdBufs) } }
  s.modCtx c fun x => x.setCs n { x.cs n with held := [], heldBytes := 0, holdBufs := 0, undecided := false }

/-- A scrub begins (R160). A request runs one scrub over its one list: the ticket of a further stream waits for it too. -/
def startScrub (s : Hw) (c : Nat) (k : Scrub) : Hw :=
  s.modCtx c fun x =>
    match x.scrubbing, k.ticket with
    | none, _ => { x with scrubbing := some k }
    | some r, some t => { x with scrubbing := some { r with also := r.also ++ [(t, k.status, k.stopStatus)] } }
    | some _, none => x

/-- A cipher stream fails with a status (R117): held plaintext is discarded, released plaintext is scrubbed, and every job
of the stream ends. `lead` is the job whose ticket waits for the scrub. -/
def failCs (s : Hw) (c n : Nat) (st : BitVec 8) (lead : Option Nat) : Hw :=
  let v := (s.ctx c).cs n
  let scrubs := v.undecided && v.rel && !v.held.isEmpty
  let s := if v.holdBufs != 0 || (v.undecided && !v.rel) then dropHold s c n st else s
  let s := s.modCtx c fun x =>
    let w := x.cs n
    x.setCs n { num := w.num, isOpen := w.isOpen, failed := some (w.ending.getD st), held := w.held, rel := w.rel
                undecided := scrubs
                mode := w.mode }
  let s := if scrubs then
      let s := match lead with
        | some t => match s.job (jobKey c t) with
          | some j => s.setJob (jobKey c t) { j with phase := .scrubbing }
          | none => s
        | none => s
      startScrub s c { ticket := lead, status := if st = stTagFail then stTagFailScrubbed else st
                       stopStatus := if st = stTagFail then stTagFailUnscrubbed else st
                       pair := pairOf (benchOf c) v.mode.toNat }
    else s
  endJobs s c (fun j => j.ofCs n && j.phase != .scrubbing) st

/-- The oldest unfinished job of a cipher stream. -/
def csHead (s : Hw) (c n : Nat) : Option (Nat × Job) :=
  leastBy (fun e => e.2.issued) ((s.jobsOf c).filter fun e => e.2.ofCs n)

/-- The ticket that waits for a scrub of a stream that fails as a whole: that of its oldest unfinished job (R160). -/
def csLead (s : Hw) (c n : Nat) : Option Nat := (csHead s c n).map fun h => h.1 % 16

/-- A cipher stream closes after its LAST job: its keys and state are cleared (R163). -/
def closeCs (s : Hw) (c n : Nat) : Hw := s.modCtx c fun x => x.setCs n {}

/-! ### The end of a request -/

/-- The keeper write of an update has begun (R65, R273, R277). -/
def Update.begun (u : Update) : Bool := u.stage = .writing || u.stage = .durable || u.stage = .receipt

/-- An update that a KINT job of context c feeds. -/
def Update.ofCtx (u : Update) (c : Nat) : Bool := match u.source with | .kint k => k / 16 = c | _ => false

/-- Transactions outstanding for a context. -/
def txnOf (c : Nat) (t : Txn) : Bool :=
  match t.owner with
  | .piece k _ _ | .signal k => k / 16 = c
  | .segment x _ | .scrub x => x = c
  | _ => false

/-- A public-key unit works for a context. -/
def pkuOf (c : Nat) (u : PkUnit) : Bool :=
  match u.work with
  | some (.job k) | some (.katt k _) => k / 16 = c
  | _ => false

/-- Engine work of a context that is still in flight (R64). -/
def ctxBusy (s : Hw) (c : Nat) : Bool :=
  s.mm.txns.any (txnOf c) || s.pku.any (fun e => pkuOf c e.2) || s.keys.updates.any (fun u => u.ofCtx c && u.begun) ||
    (s.ctx c).scrubbing.isSome || !(s.jobsOf c).isEmpty

/-- A context's record is ready to commit (R55, R83): its outcome is decided and no scrub runs; a post also waits for every
other PENDING ticket. -/
def recordReady (x : Ctx) : Bool :=
  x.req.isSome && !x.committed && !x.noRecord && x.scrubbing.isNone &&
    (x.withdrawn.isSome ||
      (x.posted.isSome && (x.tickets.filter fun e => e.2.st = .pending).length ≤ 1))

/-- Undecided streams of a context end when nothing is left that could decide them (R162): a hold is discarded, a release
is scrubbed and its status replaces the posted one. -/
def endUndecided (s : Hw) (c : Nat) (post : Bool) (st : BitVec 8) : Hw :=
  let x := s.ctx c
  let s := (x.cstreams.filter fun e => e.2.undecided && !e.2.rel).foldl (fun s e => dropHold s c e.1 st) s
  let rel := x.cstreams.filter fun e => e.2.undecided && e.2.rel
  match rel with
  | [] => s
  | e :: _ =>
    if (s.ctx c).scrubbing.isSome then s
    else startScrub s c { post := post, status := if post then stTagFailScrubbed else st
                          stopStatus := if post then stTagFailUnscrubbed else st
                          pair := pairOf (benchOf c) e.2.mode.toNat }

/-- Of two records that become ready in one core clock, whether r commits before q (R55): those of requests never granted a
context first, in the order they were decided, then the lowest context number. -/
def readyBefore (r q : Ready) : Bool :=
  match r, q with
  | .never .., .context _ => true
  | .context c, .context d => c < d
  | _, .never .. => false

/-- The records at the end of the ready list that became ready in this core clock and commit after r. -/
def readyBehind (s : Hw) (r : Ready) : List Ready :=
  (s.rm.ready.reverse.takeWhile fun q => s.rm.readyAt = s.clk.core && s.rm.readyNew.contains q && readyBefore r q).reverse

/-- A record becomes ready (R55): it stands behind all that became ready before, but for those of this core clock that commit
after it. -/
def readyPut (s : Hw) (r : Ready) : Hw :=
  let behind := readyBehind s r
  { s with rm := { s.rm with
      ready := s.rm.ready.take (s.rm.ready.length - behind.length) ++ r :: behind
      readyNew := if s.rm.readyAt = s.clk.core then r :: s.rm.readyNew else [r]
      readyAt := s.clk.core } }

/-- Put a context's record on the ready list once it is ready; a post first ends the undecided streams (R55, R162). -/
def settle (s : Hw) (c : Nat) : Hw :=
  if recordReady (s.ctx c) && !s.rm.ready.contains (.context c) then
    let s := endUndecided s c (s.ctx c).withdrawn.isNone
      (match (s.ctx c).withdrawn with | some st => st | none => stTagFail)
    if (s.ctx c).scrubbing.isSome then s
    else readyPut s (.context c)
  else s

/-- The trap of a context ends with its request (R94). -/
def dropTrap (s : Hw) (c : Nat) : Hw :=
  let q := s.trapq
  let mine : Option TrapRecord → Bool := fun k => match k with | some v => v.ctx = c | none => false
  { s with trapq := { q with
      queue := q.queue.filter fun r => r.ctx != c
      claimA := if mine q.claimA then none else q.claimA
      claimB := if mine q.claimB then none else q.claimB
      wdrawnA := q.wdrawnA || mine q.claimA
      wdrawnB := q.wdrawnB || mine q.claimB } }

/-- Updates of a context whose commit has not begun are abandoned (R277). -/
def dropUpdates (s : Hw) (c : Nat) : Hw :=
  { s with keys := { s.keys with updates := s.keys.updates.filter fun u => !(u.ofCtx c && !u.begun) } }

/-- A public-key job in a unit runs to its fixed end, and its result is discarded (R64, R206). -/
def killPku (s : Hw) (c : Nat) : Hw :=
  { s with pku := s.pku.map fun e => if pkuOf c e.2 then (e.1, { e.2 with killed := true }) else e }

/-- Everything of a context that a withdrawal stops at once. -/
def stopWork (s : Hw) (c : Nat) (st : BitVec 8) : Hw :=
  let s := dropTrap s c
  let s := dropUpdates s c
  let s := killPku s c
  let commit := s.keys.updates.any fun u => u.ofCtx c && u.begun
  let s := ((s.ctx c).dstreams.map (·.1)).foldl (fun s n => failDs s c n st) s
  endJobs s c (fun j => !(match j.op with | .kint _ => commit | .ciph _ => true | _ => false)) st

/-- A request is withdrawn (R64): queued work is removed, running work stops or is discarded, undecided plaintext is
discarded or scrubbed (R65), the trap ends (R94), and the record carries the status. -/
def withdraw (s : Hw) (c : Nat) (st : BitVec 8) : Hw :=
  let x := s.ctx c
  if x.req.isNone || x.committed || x.withdrawn.isSome || x.noRecord then s
  else
    let s := s.modCtx c fun x => { x with withdrawn := some st, st := .quiescing, hold := .none, rep := none }
    let s := stopWork s c st
    let s := ((s.ctx c).cstreams.map (·.1)).foldl (fun s n =>
      if ((s.ctx c).cs n).failed.isNone then failCs s c n st none else s) s
    settle s c

/-- A request ends with no record at all (R333, R337): Seal and Held. Held plaintext is dropped, nothing is scrubbed. -/
def endWithoutRecord (s : Hw) (c : Nat) : Hw :=
  let x := s.ctx c
  if x.req.isNone || x.committed then s
  else
    let s := s.modCtx c fun x => { x with noRecord := true, st := .quiescing, hold := .none, rep := none
                                          scrub := [], scrubbing := none }
    let s := stopWork s c stAborted
    let s := ((s.ctx c).cstreams.filter fun e => e.2.undecided && !e.2.rel).foldl
      (fun s e => dropHold s c e.1 stAborted) s
    let s := endJobs s c (fun _ => true) stAborted
    let s := s.modCtx c fun x => { x with cstreams := [], dstreams := [], scrubbing := none }
    { s with rm := { s.rm with ready := s.rm.ready.filter fun r => r != .context c } }

/-- Contexts that hold a request. -/
def liveCtxs (s : Hw) : List Nat := (s.ctxs.filter fun e => e.2.req.isSome).map (·.1)

/-- Undecided plaintext in a buffer that is poisoned is discarded or scrubbed, DATA_UNCORRECTED (R286). -/
def poisonStreams (s : Hw) (b : Nat) : Hw :=
  (liveCtxs s).foldl (fun s c =>
    ((s.ctx c).cstreams.filter fun e => e.2.undecided && e.2.held.any fun r => (rgBufs (s.ctx c) r).contains b).foldl
      (fun s e => failCs s c e.1 stDataUncorrected (csLead s c e.1)) s) s

/-- A read of word w of buffer b and all that it brings about (R281, R284, R286). -/
def readWord (s : Hw) (b w : Nat) (positions : List (BitVec 6)) : Hw :=
  let s := storeRead s b w positions
  if s.cs.poisoned.contains b then poisonStreams s b else s

/-- A read of words with errors (R286). -/
def readAll (s : Hw) (l : List (Nat × Nat × List (BitVec 6))) : Hw := l.foldl (fun s w => readWord s w.1 w.2.1 w.2.2) s

/-- A read of a range that lies on poisoned buffers is refused, and plaintext that no tag has decided there goes (R286). -/
def readRefused (s : Hw) (c : Nat) (r : Word) : Hw :=
  ((rgBufs (s.ctx c) r).filter s.cs.poisoned.contains).foldl poisonStreams s

/-- The word of code that a context fetches next (R96). -/
def fetchWord (s : Hw) (c : Nat) : Nat :=
  fld (libEntry (s.cfgOf c) (s.ctx c).entry.toNat).1 0 19 + (s.ctx c).pc.toNat / 4

/-- A context fetches an uncorrectable word of the library: its request commits DATA_UNCORRECTED (R352). -/
def fetchLost (s : Hw) (c : Nat) : Hw :=
  withdraw (note s 0x86 0x40 ((s.ctx c).entry.setWidth 16)) c stDataUncorrected

/-- The request ends early with a status in place of what its program would post. -/
def withdrawAll (s : Hw) (p : Nat → Bool) (st : BitVec 8) : Hw :=
  ((liveCtxs s).filter p).foldl (fun s c => withdraw s c st) s

/-- Every context whose record has become ready joins the ready list, lowest number first (R55). -/
def settleAll (s : Hw) : Hw := (liveCtxs s).foldl settle s

/-- The effect of a command that can end work, which an inert block does not take: records that have become
ready join the ready list. -/
def State.work (s : State) (f : Hw → Hw) : Host.Outcome State Fault Refusal := s.live fun h => settleAll (f h)

/-- The effect of an event that can end work and that acts in an inert block too. -/
def State.always (s : State) (f : Hw → Hw) : Host.Outcome State Fault Refusal := s.does fun h => settleAll (f h)

end Sys2Proof.Machine
end

