-- ==== Sys2Proof/Machine/Flags.lean ====
section
/-! DEFINITION. The six flags (R78) as the integer instructions write them (R87, R101 to R103). -/

namespace Sys2Proof.Machine

/-- Z and N of a result. -/
def Flags.zn (f : Flags) (r : Word) : Flags := { f with z := r = 0, n := r.msb }

/-- Logic instructions: Z and N of the result, C and V cleared. -/
def Flags.logic (f : Flags) (r : Word) : Flags := { f.zn r with c := false, v := false }

/-- The signed value of a number fits in 64 bits. -/
def fits64 (i : Int) : Bool := -(2 ^ 63) ≤ i && i < 2 ^ 63

/-- Add: C is the unsigned carry out, V says that the signed sum does not fit. -/
def Flags.add (f : Flags) (a b : Word) : Flags :=
  { f.zn (a + b) with c := 2 ^ 64 ≤ a.toNat + b.toNat, v := !fits64 (a.toInt + b.toInt) }

/-- Subtract: C is the unsigned borrow, V says that the signed difference does not fit. -/
def Flags.sub (f : Flags) (a b : Word) : Flags :=
  { f.zn (a - b) with c := a.toNat < b.toNat, v := !fits64 (a.toInt - b.toInt) }

/-- Negate: V for the most negative value; C stands. -/
def Flags.neg (f : Flags) (a : Word) : Flags := { f.zn (0 - a) with v := !fits64 (0 - a.toInt) }

/-- Multiply: V says that the signed product does not fit; C stands. -/
def Flags.mul (f : Flags) (a b : Word) : Flags := { f.zn (a * b) with v := !fits64 (a.toInt * b.toInt) }

/-- A high product: Z and N of the result, V cleared, C stands. -/
def Flags.high (f : Flags) (r : Word) : Flags := { f.zn r with v := false }

/-- Compare: Z alone. -/
def Flags.cmp (f : Flags) (a b : Word) : Flags := { f with z := a = b }

/-- Division: Z and N of the quotient; DZ for a zero divisor; V for the one quotient that does not fit (R87). -/
def Flags.div (f : Flags) (q : Word) (zero overflow : Bool) : Flags := { f.zn q with dz := zero, v := overflow }

/-- FLAGS as a word (R78). -/
def Flags.word (f : Flags) : Word :=
  putb 0 f.z ||| putb 1 f.n ||| putb 2 f.c ||| putb 3 f.v ||| putb 4 f.dz ||| putb 5 f.t

/-- FLAGS from a word: bits 5 to 0. -/
def Flags.ofWord (w : Word) : Flags := ⟨bit w 0, bit w 1, bit w 2, bit w 3, bit w 4, bit w 5⟩

/-- Whether a branch condition holds (R107). -/
def Flags.cond (f : Flags) (k : BitVec 4) : Bool :=
  match k.toNat with
  | 0 => true
  | 1 => f.z
  | 2 => !f.z
  | 3 => f.c
  | 4 => !f.c
  | 5 => f.n
  | 6 => !f.n
  | 7 => f.v
  | 8 => !f.c && !f.z
  | 9 => f.c || f.z
  | 10 => f.n = f.v
  | 11 => f.n != f.v
  | 12 => !f.z && f.n = f.v
  | 13 => f.z || f.n != f.v
  | 14 => f.t
  | _ => !f.t

/-- Unsigned quotient and remainder; by zero the quotient is all ones and the remainder the dividend (R87). -/
def divU (a b : Word) : Word × Word :=
  if b = 0 then (BitVec.ofNat 64 (2 ^ 64 - 1), a) else (BitVec.ofNat 64 (a.toNat / b.toNat), BitVec.ofNat 64 (a.toNat % b.toNat))

/-- Signed quotient, truncated toward zero, and remainder with the dividend's sign; by zero −1 and the dividend (R87). -/
def divS (a b : Word) : Word × Word :=
  if b = 0 then (BitVec.ofInt 64 (-1), a)
  else (BitVec.ofInt 64 (a.toInt.tdiv b.toInt), BitVec.ofInt 64 (a.toInt.tmod b.toInt))

/-- Logical shift left by an unsigned amount; 0 from 64 on (R87). -/
def shiftL (a : Word) (n : Nat) : Word := if 64 ≤ n then 0 else a <<< n
/-- Logical shift right. -/
def shiftR (a : Word) (n : Nat) : Word := if 64 ≤ n then 0 else a >>> n
/-- Arithmetic shift right; from 64 on every bit equals bit 63. -/
def shiftA (a : Word) (n : Nat) : Word := a.sshiftRight (min n 64)
/-- Rotate right, the amount taken modulo 64. -/
def rotR (a : Word) (n : Nat) : Word := a.rotateRight (n % 64)
/-- Rotate left. -/
def rotL (a : Word) (n : Nat) : Word := a.rotateLeft (n % 64)

/-- The 8 bytes reversed. -/
def bswap64 (a : Word) : Word := BitVec.ofNat 64 (beNat (leBytes 8 a.toNat))

/-- Leading zero bits below bit n. -/
def clzFrom (a : Word) : Nat → Nat
  | 0 => 0
  | n + 1 => if bit a n then 0 else 1 + clzFrom a n

/-- Leading zero bits, 64 for 0. -/
def clz64 (a : Word) : Word := BitVec.ofNat 64 (clzFrom a 64)

/-- Number of 1 bits. -/
def popc64 (a : Word) : Word := BitVec.ofNat 64 ((List.range 64).foldl (fun n i => n + (bit a i).toNat) 0)

end Sys2Proof.Machine
end

