-- ==== Sys2Proof/Machine/Operands.lean ====
section
/-! DEFINITION. What a program can reach: special registers (R77), the context address space (R71, R72) and the addressing
modes (R79, R105). -/

namespace Sys2Proof.Machine

/-- The number of a trap class (R88). -/
abbrev TrapClass := BitVec 4

/-- A special register by its number (R77); the reserved numbers give none. -/
def specRead (c : Nat) (x : Ctx) (n : Nat) : Option Word :=
  match n with
  | 0 => some x.lc
  | 1 => some x.mbase
  | 2 => some x.mlen
  | 3 => some (put 0 5 x.brw.toNat)
  | 4 => some x.flags.word
  | 5 => some (put 0 9 c)
  | 6 => some (put 0 12 x.domain)
  | 7 => some (put 0 16 x.epoch.toNat)
  | 8 => some (putb 0 x.dztrap)
  | _ => none

/-- Write a special register; CTX, DOM, EPOCH and the reserved numbers take nothing. -/
def specWrite (x : Ctx) (n : Nat) (v : Word) : Ctx :=
  match n with
  | 0 => { x with lc := v }
  | 1 => { x with mbase := v }
  | 2 => { x with mlen := v }
  | 3 => { x with brw := v.extractLsb' 0 5 }
  | 4 => { x with flags := Flags.ofWord v }
  | 8 => { x with dztrap := bit v 0 }
  | _ => x

/-! ### The context address space (R71) -/

/-- A place in the context address space. -/
inductive Place where
  | scratch (a : Nat)
  | descriptor (a : Nat)
  | handle (h : Nat) (o : Nat)
deriving DecidableEq, Repr

/-- Where an access of n bytes at a context address falls, when it lies in one region (R71). -/
def place (x : Ctx) (a n : Nat) : Option Place :=
  if a + n ≤ 0x1000 then some (.scratch a)
  else if 0x1000 ≤ a && a + n ≤ 0x1040 then some (.descriptor (a - 0x1000))
  else if 0x10000000 ≤ a && a < 0x10000000 + 0x400000 * 16 then
    let h := (a - 0x10000000) / 0x400000
    let o := (a - 0x10000000) % 0x400000
    if ((x.hnd h).st = .live || (x.hnd h).st = .freeing) && o + n ≤ 4096 * (x.hnd h).count then some (.handle h o) else none
  else none

/-- The range word of n bytes at a place. -/
def placeRange (p : Place) (n : Nat) : Word :=
  match p with
  | .scratch a => put 32 32 n ||| putb 26 true ||| put 0 22 a
  | .descriptor _ => 0
  | .handle h o => put 32 32 n ||| put 22 4 h ||| put 0 22 o

/-- The bytes at a place. -/
def placeRead (s : Hw) (x : Ctx) (p : Place) (n : Nat) : Bytes :=
  match p with
  | .scratch a => mread x.scratch a n
  | .descriptor a => match x.req with
    | some r => ((leBytes 64 r.desc.toNat).drop a).take n
    | none => zeros n
  | .handle h o => hndRead s (x.hnd h) o n

/-! ### Addressing modes (R79) -/

/-- Reverse the low n bits of a number. -/
def revBits (v : Nat) : Nat → Nat
  | 0 => 0
  | n + 1 => (v % 2) * 2 ^ n + revBits (v / 2) n

/-- An effective address and the base register after the access. -/
structure Eff where
  ea : Word
  base : Option Word
deriving DecidableEq, Repr

/-- The ADR field holds what its MODE allows (R105). -/
def modeReserved (mode : BitVec 3) (adr : BitVec 10) : Bool :=
  match mode.toNat with
  | 0 => false
  | 1 => fld adr 0 5 != 0
  | 2 | 3 | 4 => adr != 0
  | _ => true

/-- The effective address of an access of n bytes, or the trap that its mode raises (R79). -/
def effective (x : Ctx) (rb : BitVec 5) (mode : BitVec 3) (adr : BitVec 10) (n : Nat) : Except TrapClass Eff :=
  let wb := x.rget rb
  let s := BitVec.ofNat 64 n
  match mode.toNat with
  | 0 => .ok ⟨wb + adr.signExtend 64, none⟩
  | 1 => .ok ⟨wb + x.rget (adr.extractLsb' 5 5) * s, none⟩
  | 2 => .ok ⟨wb, some (wb + s)⟩
  | 3 =>
    if x.mlen = 0 then .error 5
    else
      let o := (wb - x.mbase).toNat % x.mlen.toNat
      if x.mlen.toNat < o + n then .error 6
      else .ok ⟨x.mbase + BitVec.ofNat 64 o, some (x.mbase + BitVec.ofNat 64 ((wb - x.mbase + s).toNat % x.mlen.toNat))⟩
  | _ =>
    if x.brw.toNat = 0 || 16 < x.brw.toNat then .error 5
    else .ok ⟨x.mbase + BitVec.ofNat 64 (revBits wb.toNat x.brw.toNat) * s, some (wb + 1)⟩

/-- The place of an aligned access, or the trap it raises: misaligned before out of every region (log 14). -/
def accessPlace (x : Ctx) (ea : Word) (n : Nat) (write : Bool) : Except TrapClass Place :=
  if ea.toNat % n != 0 then .error 6
  else match place x ea.toNat n with
    | none => .error 5
    | some p =>
      match p with
      | .descriptor _ => if write then .error 5 else .ok p
      | .handle _ _ => if !write && rgHeld x (placeRange p n) then .error 5 else .ok p
      | .scratch _ => .ok p

/-- Write the base register after an access. -/
def updateBase (x : Ctx) (rb : BitVec 5) (e : Eff) : Ctx :=
  match e.base with | some v => x.rset rb v | none => x

end Sys2Proof.Machine
end

