-- ==== Sys2Proof/Machine/Issue.lean ====
section
/-! DEFINITION. How an awl issues an instruction (R68 to R70, R96), repeats it (R84 to R86) and traps (R88 to R92): the one
operation through which every instruction of a program takes effect, and the taking of a trap. -/

namespace Sys2Proof.Machine

/-! ### Instruction words (R99, R100), for trap records -/

/-- Format R. -/
def encR (op : Nat) (rd ra rb rc : BitVec 5) (fn : Nat) : BitVec 32 :=
  BitVec.ofNat 32 (op <<< 26 ||| rd.toNat <<< 21 ||| ra.toNat <<< 16 ||| rb.toNat <<< 11 ||| rc.toNat <<< 6 ||| fn)
/-- Format I. -/
def encI (op : Nat) (rd ra : BitVec 5) (imm : BitVec 16) : BitVec 32 :=
  BitVec.ofNat 32 (op <<< 26 ||| rd.toNat <<< 21 ||| ra.toNat <<< 16 ||| imm.toNat)
/-- Format W. -/
def encW (op : Nat) (rd : BitVec 5) (hw : BitVec 2) (imm : BitVec 16) : BitVec 32 :=
  BitVec.ofNat 32 (op <<< 26 ||| rd.toNat <<< 21 ||| hw.toNat <<< 16 ||| imm.toNat)
/-- Format M. -/
def encM (op : Nat) (rd rb : BitVec 5) (mode : BitVec 3) (sz : BitVec 2) (sx : Bool) (adr : BitVec 10) : BitVec 32 :=
  BitVec.ofNat 32 (op <<< 26 ||| rd.toNat <<< 21 ||| rb.toNat <<< 16 ||| mode.toNat <<< 13 ||| sz.toNat <<< 11 |||
    sx.toNat <<< 10 ||| adr.toNat)
/-- Format B. -/
def encB (op : Nat) (cond : BitVec 4) (off : BitVec 22) : BitVec 32 :=
  BitVec.ofNat 32 (op <<< 26 ||| cond.toNat <<< 22 ||| off.toNat)
/-- Format J. -/
def encJ (op : Nat) (rd : BitVec 5) (off : BitVec 21) : BitVec 32 :=
  BitVec.ofNat 32 (op <<< 26 ||| rd.toNat <<< 21 ||| off.toNat)
/-- Format X. -/
def encX (op : Nat) (src : BitVec 2) (ra : BitVec 5) (imm : BitVec 16) : BitVec 32 :=
  BitVec.ofNat 32 (op <<< 26 ||| src.toNat <<< 24 ||| ra.toNat <<< 16 ||| imm.toNat)
/-- Format P. -/
def encP (op : Nat) (reg : Bool) (ra : BitVec 5) (status : BitVec 8) : BitVec 32 :=
  BitVec.ofNat 32 (op <<< 26 ||| ra.toNat <<< 16 ||| status.toNat <<< 8 ||| reg.toNat)

/-! ### Traps -/

/-- The trap deadline in core clocks (R92); DEADLINE_US 0 acts as 1. -/
def trapDeadline (s : Hw) : Nat := max 1 (fld s.trapq.cfg 0 16) * clkPerUs s

/-- A program-fault class (0x4 to 0x9): the request is withdrawn, its record carries ILLEGAL_PROGRAM, and the awl logs
event 0x02 with the class (R89). -/
def programFault (s : Hw) (c : Nat) (cls : TrapClass) : Hw :=
  settleAll (withdraw (note s (awlUnit (awlOf c)) 2 (cls.zeroExtend 16)) c stIllegalProgram)

/-- A queued class (0x1 to 0x3): the context enters TRAPPED and its record enters the trap queue (R89, R90). -/
def queueTrap (s : Hw) (c : Nat) (cls : TrapClass) (word : BitVec 32) : Hw :=
  let x := s.ctx c
  let r : TrapRecord :=
    { ctx := c, cls := cls, pc := x.pc.setWidth 32, word := word
      repRemain := match x.rep with | some p => p.remain | none => 0
      repActive := x.rep.isSome, deadline := s.clk.core + trapDeadline s }
  let s := s.modCtx c fun x => { x with st := .trapped }
  note { s with trapq := { s.trapq with queue := s.trapq.queue ++ [r] } } (awlUnit (awlOf c)) 1

/-- Take a trap of any class (R88). -/
def takeTrap (s : Hw) (c : Nat) (cls : TrapClass) (word : BitVec 32) : Hw :=
  if cls.toNat ≤ 3 then queueTrap s c cls word else programFault s c cls

/-! ### Issue -/

/-- What an instruction does when it issues. -/
inductive Act where
  /-- It retires; `lc` says that it wrote LC (R85). -/
  | done (s : Hw) (lc : Bool)
  /-- It retires and the program counter goes elsewhere. -/
  | jump (s : Hw) (pc : Word)
  /-- It traps before it has any effect (R88). -/
  | trap (cls : TrapClass)
  /-- It has retired with its results, and then traps (R87). -/
  | trapAfter (s : Hw) (cls : TrapClass)
  /-- It holds its context in WAITING until a queue takes its job (R81); nothing has happened yet. -/
  | wait (s : Hw)
deriving DecidableEq, Repr

/-- One more instruction retired. -/
def retire (x : Ctx) (n : Nat := 1) : Ctx := { x with retired := x.retired + n }

/-- The step past an iteration (R84, R85): LC takes the iterations left unless this iteration wrote it, and the program
counter moves on after the last one, or when none is left (R91). -/
def stepPast (x : Ctx) (lc : Bool) : Ctx :=
  match x.rep with
  | none => { x with pc := x.pc + 4 }
  | some r =>
    let left := if r.remain = 0 then 0 else r.remain - 1
    let x := { x with lc := if lc then x.lc else left.setWidth 64 }
    if left = 0 then { x with rep := none, pc := x.pc + 4 } else { x with rep := some { r with remain := left } }

/-- The program of a context's request, in bytes of code (R96). -/
def codeBytes (s : Hw) (c : Nat) : Nat := 4 * fld (libEntry (s.cfgOf c) (s.ctx c).entry.toNat).1 32 20

/-- The step limit of a context's request (R70). -/
def stepLimit (s : Hw) (c : Nat) : Nat := libSteps (s.cfgOf c) (s.ctx c).entry.toNat

/-- A context may issue its next instruction (R67, R69): READY, with a request that has neither posted nor ended. -/
def mayIssue (s : Hw) (c : Nat) : Bool :=
  let x := s.ctx c
  x.st = .ready && x.req.isSome && x.posted.isNone && x.withdrawn.isNone && !x.noRecord

/-- What REP makes of the instruction that follows it (R86). -/
inductive RepKind where
  | repeatable
  | notRepeatable
  | reserved (cls : TrapClass)
deriving DecidableEq, Repr

/-- Carry out what an instruction does. -/
def applyAct (s : Hw) (c : Nat) (word : BitVec 32) (a : Act) : Hw :=
  match a with
  | .done s' lc => s'.modCtx c fun x => retire (stepPast x lc)
  | .jump s' pc => s'.modCtx c fun x => retire { x with pc := pc }
  | .trap cls => takeTrap s c cls word
  | .trapAfter s' cls => takeTrap (s'.modCtx c retire) c cls word
  | .wait s' => s'

/-- Issue one instruction of context c: the step limit (R70), the fetch (R96, R352), the repeat prefix (R84, R86), then the
instruction's own act. -/
def issue (s : Hw) (c : Nat) (word : BitVec 32) (kind : RepKind) (act : Hw → Act) : Hw :=
  if !mayIssue s c then s
  else if stepLimit s c ≤ (s.ctx c).retired then takeTrap s c 8 word
  else if codeBytes s c ≤ (s.ctx c).pc.toNat then takeTrap s c 5 word
  else if s.libBad.contains ((s.ctx c).epoch, fetchWord s c) then settleAll (fetchLost s c)
  else
    match kind with
    | .reserved cls => takeTrap s c cls word
    | .notRepeatable => if (s.ctx c).rep.isSome then takeTrap s c 4 word else applyAct s c word (act s)
    | .repeatable =>
      match (s.ctx c).rep with
      | some r =>
        if r.remain = 0 then s.modCtx c fun x => { x with rep := none, pc := x.pc + 4 }
        else applyAct s c word (act s)
      | none => applyAct s c word (act s)

/-- An instruction that only writes its context. -/
def State.insn (s : State) (c : BitVec 9) (word : BitVec 32) (kind : RepKind) (act : Hw → Act) :
    Host.Outcome State Fault Refusal :=
  s.live fun h => issue h c.toNat word kind act

/-- An instruction whose read of the store can end work of any context (R286). -/
def State.insnRead (s : State) (c : BitVec 9) (word : BitVec 32) (kind : RepKind) (act : Hw → Act) :
    Host.Outcome State Fault Refusal :=
  s.work fun h => issue h c.toNat word kind act

/-- A register result with flags. -/
def setRd (s : Hw) (c : Nat) (rd : BitVec 5) (v : Word) (f : Flags) : Act :=
  .done (s.modCtx c fun x => { x.rset rd v with flags := f }) false

end Sys2Proof.Machine
end

