-- ==== Sys2Proof/Machine/Alu.lean ====
section
/-! DEFINITION. Integer and move instructions (R101 to R104): each computes over its context's registers and flags, and repeats. -/

namespace Sys2Proof.Machine

/-- A repeatable register result computed from a context. -/
def aluAct (c : Nat) (rd : BitVec 5) (v : Ctx → Word) (f : Ctx → Flags) (s : Hw) : Act :=
  setRd s c rd (v (s.ctx c)) (f (s.ctx c))

/-- ADD (R101): RD := RA + RB; Z, N, C, V. -/
def execAdd (c : BitVec 9) (rd ra rb : BitVec 5) (s : State) : Host.Outcome State Fault Refusal :=
  s.insn c (encR 0x01 rd ra rb 0 0x00) .repeatable (aluAct c.toNat rd (fun x => x.rget ra + x.rget rb)
    fun x => x.flags.add (x.rget ra) (x.rget rb))

/-- SUB (R101): RD := RA − RB; Z, N, C as the borrow, V. -/
def execSub (c : BitVec 9) (rd ra rb : BitVec 5) (s : State) : Host.Outcome State Fault Refusal :=
  s.insn c (encR 0x01 rd ra rb 0 0x01) .repeatable (aluAct c.toNat rd (fun x => x.rget ra - x.rget rb)
    fun x => x.flags.sub (x.rget ra) (x.rget rb))

/-- AND (R101): RD := RA AND RB; logic flags. -/
def execAnd (c : BitVec 9) (rd ra rb : BitVec 5) (s : State) : Host.Outcome State Fault Refusal :=
  s.insn c (encR 0x01 rd ra rb 0 0x02) .repeatable (aluAct c.toNat rd (fun x => x.rget ra &&& x.rget rb)
    fun x => x.flags.logic (x.rget ra &&& x.rget rb))

/-- OR (R101): RD := RA OR RB; logic flags. -/
def execOr (c : BitVec 9) (rd ra rb : BitVec 5) (s : State) : Host.Outcome State Fault Refusal :=
  s.insn c (encR 0x01 rd ra rb 0 0x03) .repeatable (aluAct c.toNat rd (fun x => x.rget ra ||| x.rget rb)
    fun x => x.flags.logic (x.rget ra ||| x.rget rb))

/-- XOR (R101): RD := RA XOR RB; logic flags. -/
def execXor (c : BitVec 9) (rd ra rb : BitVec 5) (s : State) : Host.Outcome State Fault Refusal :=
  s.insn c (encR 0x01 rd ra rb 0 0x04) .repeatable (aluAct c.toNat rd (fun x => x.rget ra ^^^ x.rget rb)
    fun x => x.flags.logic (x.rget ra ^^^ x.rget rb))

/-- ANDN (R101): RD := RA AND NOT RB; logic flags. -/
def execAndn (c : BitVec 9) (rd ra rb : BitVec 5) (s : State) : Host.Outcome State Fault Refusal :=
  s.insn c (encR 0x01 rd ra rb 0 0x05) .repeatable (aluAct c.toNat rd (fun x => x.rget ra &&& ~~~(x.rget rb))
    fun x => x.flags.logic (x.rget ra &&& ~~~(x.rget rb)))

/-- SHL (R101): shift left by RB, 0 from 64 on (R87); Z, N; C and V stand. -/
def execShl (c : BitVec 9) (rd ra rb : BitVec 5) (s : State) : Host.Outcome State Fault Refusal :=
  s.insn c (encR 0x01 rd ra rb 0 0x08) .repeatable (aluAct c.toNat rd (fun x => shiftL (x.rget ra) (x.rget rb).toNat)
    fun x => x.flags.zn (shiftL (x.rget ra) (x.rget rb).toNat))

/-- SHR (R101): shift right by RB with zero fill (R87); Z, N; C and V stand. -/
def execShr (c : BitVec 9) (rd ra rb : BitVec 5) (s : State) : Host.Outcome State Fault Refusal :=
  s.insn c (encR 0x01 rd ra rb 0 0x09) .repeatable (aluAct c.toNat rd (fun x => shiftR (x.rget ra) (x.rget rb).toNat)
    fun x => x.flags.zn (shiftR (x.rget ra) (x.rget rb).toNat))

/-- SAR (R101): shift right by RB with sign fill (R87); Z, N; C and V stand. -/
def execSar (c : BitVec 9) (rd ra rb : BitVec 5) (s : State) : Host.Outcome State Fault Refusal :=
  s.insn c (encR 0x01 rd ra rb 0 0x0A) .repeatable (aluAct c.toNat rd (fun x => shiftA (x.rget ra) (x.rget rb).toNat)
    fun x => x.flags.zn (shiftA (x.rget ra) (x.rget rb).toNat))

/-- ROR (R101): rotate right by RB mod 64; Z, N; C and V stand. -/
def execRor (c : BitVec 9) (rd ra rb : BitVec 5) (s : State) : Host.Outcome State Fault Refusal :=
  s.insn c (encR 0x01 rd ra rb 0 0x0B) .repeatable (aluAct c.toNat rd (fun x => rotR (x.rget ra) (x.rget rb).toNat)
    fun x => x.flags.zn (rotR (x.rget ra) (x.rget rb).toNat))

/-- ROL (R101): rotate left by RB mod 64; Z, N; C and V stand. -/
def execRol (c : BitVec 9) (rd ra rb : BitVec 5) (s : State) : Host.Outcome State Fault Refusal :=
  s.insn c (encR 0x01 rd ra rb 0 0x0C) .repeatable (aluAct c.toNat rd (fun x => rotL (x.rget ra) (x.rget rb).toNat)
    fun x => x.flags.zn (rotL (x.rget ra) (x.rget rb).toNat))

/-- NEG (R101): RD := 0 − RA; Z, N, V for the most negative value (R87); C stands. -/
def execNeg (c : BitVec 9) (rd ra : BitVec 5) (s : State) : Host.Outcome State Fault Refusal :=
  s.insn c (encR 0x01 rd ra 0 0 0x10) .repeatable (aluAct c.toNat rd (fun x => 0 - x.rget ra)
    fun x => x.flags.neg (x.rget ra))

/-- BSWAP (R101): RD := RA with its 8 bytes reversed; logic flags. -/
def execBswap (c : BitVec 9) (rd ra : BitVec 5) (s : State) : Host.Outcome State Fault Refusal :=
  s.insn c (encR 0x01 rd ra 0 0 0x12) .repeatable (aluAct c.toNat rd (fun x => bswap64 (x.rget ra))
    fun x => x.flags.logic (bswap64 (x.rget ra)))

/-- CLZ (R101): RD := leading zero bits of RA, 64 for 0; logic flags. -/
def execClz (c : BitVec 9) (rd ra : BitVec 5) (s : State) : Host.Outcome State Fault Refusal :=
  s.insn c (encR 0x01 rd ra 0 0 0x13) .repeatable (aluAct c.toNat rd (fun x => clz64 (x.rget ra))
    fun x => x.flags.logic (clz64 (x.rget ra)))

/-- POPC (R101): RD := number of 1 bits of RA; logic flags. -/
def execPopc (c : BitVec 9) (rd ra : BitVec 5) (s : State) : Host.Outcome State Fault Refusal :=
  s.insn c (encR 0x01 rd ra 0 0 0x14) .repeatable (aluAct c.toNat rd (fun x => popc64 (x.rget ra))
    fun x => x.flags.logic (popc64 (x.rget ra)))

/-- CMP (R101): Z := 1 when RA = RB; nothing else. -/
def execCmp (c : BitVec 9) (ra rb : BitVec 5) (s : State) : Host.Outcome State Fault Refusal :=
  s.insn c (encR 0x01 0 ra rb 0 0x11) .repeatable (aluAct c.toNat 0 (fun _ => 0)
    fun x => x.flags.cmp (x.rget ra) (x.rget rb))

/-- NOP (R101): nothing. -/
def execNop (c : BitVec 9) (s : State) : Host.Outcome State Fault Refusal :=
  s.insn c (encR 0x01 0 0 0 0 0x3F) .repeatable (aluAct c.toNat 0 (fun _ => 0) fun x => x.flags)

/-- ADDI (R102): RD := RA + sign-extended IMM16; flags as add. -/
def execAddi (c : BitVec 9) (rd ra : BitVec 5) (imm : BitVec 16) (s : State) : Host.Outcome State Fault Refusal :=
  s.insn c (encI 0x02 rd ra imm) .repeatable (aluAct c.toNat rd (fun x => x.rget ra + imm.signExtend 64)
    fun x => x.flags.add (x.rget ra) (imm.signExtend 64))

/-- ANDI (R102): RD := RA AND zero-extended IMM16; logic flags. -/
def execAndi (c : BitVec 9) (rd ra : BitVec 5) (imm : BitVec 16) (s : State) : Host.Outcome State Fault Refusal :=
  s.insn c (encI 0x03 rd ra imm) .repeatable (aluAct c.toNat rd (fun x => x.rget ra &&& imm.zeroExtend 64)
    fun x => x.flags.logic (x.rget ra &&& imm.zeroExtend 64))

/-- ORI (R102): RD := RA OR zero-extended IMM16; logic flags. -/
def execOri (c : BitVec 9) (rd ra : BitVec 5) (imm : BitVec 16) (s : State) : Host.Outcome State Fault Refusal :=
  s.insn c (encI 0x04 rd ra imm) .repeatable (aluAct c.toNat rd (fun x => x.rget ra ||| imm.zeroExtend 64)
    fun x => x.flags.logic (x.rget ra ||| imm.zeroExtend 64))

/-- XORI (R102): RD := RA XOR zero-extended IMM16; logic flags. -/
def execXori (c : BitVec 9) (rd ra : BitVec 5) (imm : BitVec 16) (s : State) : Host.Outcome State Fault Refusal :=
  s.insn c (encI 0x05 rd ra imm) .repeatable (aluAct c.toNat rd (fun x => x.rget ra ^^^ imm.zeroExtend 64)
    fun x => x.flags.logic (x.rget ra ^^^ imm.zeroExtend 64))

/-- CMPI (R102): Z := 1 when RA equals sign-extended IMM16; no other flag. -/
def execCmpi (c : BitVec 9) (ra : BitVec 5) (imm : BitVec 16) (s : State) : Host.Outcome State Fault Refusal :=
  s.insn c (encI 0x0A 0 ra imm) .repeatable (aluAct c.toNat 0 (fun _ => 0)
    fun x => x.flags.cmp (x.rget ra) (imm.signExtend 64))

/-- The shift kinds of SHI (R102). -/
def shiKind (kind : BitVec 2) (a : Word) (n : Nat) : Word :=
  match kind.toNat with
  | 0 => shiftL a n
  | 1 => shiftR a n
  | 2 => shiftA a n
  | _ => rotR a n

/-- SHI (R102): shift or rotate RA by an immediate amount; Z, N; C and V stand. -/
def execShi (c : BitVec 9) (rd ra : BitVec 5) (kind : BitVec 2) (amount : BitVec 6) (s : State) :
    Host.Outcome State Fault Refusal :=
  s.insn c (encI 0x06 rd ra (BitVec.ofNat 16 (kind.toNat * 64 + amount.toNat))) .repeatable
    (aluAct c.toNat rd (fun x => shiKind kind (x.rget ra) amount.toNat)
      fun x => x.flags.zn (shiKind kind (x.rget ra) amount.toNat))

/-- MOVI (R102): RD := IMM16 × 2^(16 × HW); no flags. -/
def execMovi (c : BitVec 9) (rd : BitVec 5) (hw : BitVec 2) (imm : BitVec 16) (s : State) :
    Host.Outcome State Fault Refusal :=
  s.insn c (encW 0x07 rd hw imm) .repeatable (aluAct c.toNat rd (fun _ => imm.zeroExtend 64 <<< (16 * hw.toNat))
    fun x => x.flags)

/-- MOVK (R102): halfword HW of RD := IMM16, the rest stands; no flags. -/
def execMovk (c : BitVec 9) (rd : BitVec 5) (hw : BitVec 2) (imm : BitVec 16) (s : State) :
    Host.Outcome State Fault Refusal :=
  s.insn c (encW 0x08 rd hw imm) .repeatable
    (aluAct c.toNat rd (fun x => (x.rget rd &&& ~~~(0xFFFF#64 <<< (16 * hw.toNat))) ||| (imm.zeroExtend 64 <<< (16 * hw.toNat)))
      fun x => x.flags)

/-- The high 64 bits of a product of two integers. -/
def highHalf (p : Int) : Word := BitVec.ofInt 64 (p / 2 ^ 64)

/-- MUL (R103): RD := low 64 bits of RA × RB; Z, N; V when the signed product does not fit; C stands. -/
def execMul (c : BitVec 9) (rd ra rb : BitVec 5) (s : State) : Host.Outcome State Fault Refusal :=
  s.insn c (encR 0x09 rd ra rb 0 0x00) .repeatable (aluAct c.toNat rd (fun x => x.rget ra * x.rget rb)
    fun x => x.flags.mul (x.rget ra) (x.rget rb))

/-- MULHU (R103): RD := high 64 bits of the unsigned product; Z, N; V := 0; C stands. -/
def execMulhu (c : BitVec 9) (rd ra rb : BitVec 5) (s : State) : Host.Outcome State Fault Refusal :=
  s.insn c (encR 0x09 rd ra rb 0 0x01) .repeatable
    (aluAct c.toNat rd (fun x => highHalf ((x.rget ra).toNat * (x.rget rb).toNat))
      fun x => x.flags.high (highHalf ((x.rget ra).toNat * (x.rget rb).toNat)))

/-- MULHS (R103): RD := high 64 bits of the signed product; Z, N; V := 0; C stands. -/
def execMulhs (c : BitVec 9) (rd ra rb : BitVec 5) (s : State) : Host.Outcome State Fault Refusal :=
  s.insn c (encR 0x09 rd ra rb 0 0x02) .repeatable
    (aluAct c.toNat rd (fun x => highHalf ((x.rget ra).toInt * (x.rget rb).toInt))
      fun x => x.flags.high (highHalf ((x.rget ra).toInt * (x.rget rb).toInt)))

/-- A division: RC takes the remainder, then RD the quotient; by zero with CFG.DZTRAP the divide trap follows (R87, R103). -/
def divAct (c : Nat) (rd rc : BitVec 5) (q r : Word) (zero overflow : Bool) (s : Hw) : Act :=
  let x := s.ctx c
  let s' := s.modCtx c fun x => { (x.rset rc r).rset rd q with flags := x.flags.div q zero overflow }
  if zero && x.dztrap then .trapAfter s' 3 else .done s' false

/-- DIV (R103, R87): signed division truncated toward zero. -/
def execDiv (c : BitVec 9) (rd rc ra rb : BitVec 5) (s : State) : Host.Outcome State Fault Refusal :=
  s.insn c (encR 0x09 rd ra rb rc 0x04) .repeatable fun h =>
    let a := (h.ctx c.toNat).rget ra
    let b := (h.ctx c.toNat).rget rb
    divAct c.toNat rd rc (divS a b).1 (divS a b).2 (b = 0) (b != 0 && !fits64 (a.toInt.tdiv b.toInt)) h

/-- DIVU (R103, R87): unsigned division. -/
def execDivu (c : BitVec 9) (rd rc ra rb : BitVec 5) (s : State) : Host.Outcome State Fault Refusal :=
  s.insn c (encR 0x09 rd ra rb rc 0x05) .repeatable fun h =>
    let a := (h.ctx c.toNat).rget ra
    let b := (h.ctx c.toNat).rget rb
    divAct c.toNat rd rc (divU a b).1 (divU a b).2 (b = 0) false h

/-- What REP makes of mfs and movs on a special register (R86): CTX, DOM and EPOCH do not repeat, the reserved numbers
trap at the first iteration. -/
def specKind (n : Nat) : RepKind :=
  if 9 ≤ n then .reserved 2 else if 5 ≤ n && n ≤ 7 then .notRepeatable else .repeatable

/-- MFS (R104): RD := special register; a reserved number raises the reserved-special trap. No flags. -/
def execMfs (c : BitVec 9) (rd num : BitVec 5) (s : State) : Host.Outcome State Fault Refusal :=
  s.insn c (encR 0x0B rd 0 num 0 0x00) (specKind num.toNat) fun h =>
    match specRead c.toNat (h.ctx c.toNat) num.toNat with
    | some v => .done (h.modCtx c.toNat fun x => x.rset rd v) false
    | none => .trap 2

/-- MOVS (R104): special register := RA; CTX, DOM and EPOCH raise the access trap, a reserved number the
reserved-special trap. -/
def execMovs (c : BitVec 9) (num ra : BitVec 5) (s : State) : Host.Outcome State Fault Refusal :=
  s.insn c (encR 0x0B 0 ra num 0 0x01) (specKind num.toNat) fun h =>
    if 5 ≤ num.toNat && num.toNat ≤ 7 then .trap 5
    else if 9 ≤ num.toNat then .trap 2
    else .done (h.modCtx c.toNat fun x => specWrite x num.toNat (x.rget ra)) (num.toNat = 0)

end Sys2Proof.Machine
end

