-- ==== Sys2Proof/Machine/Control.lean ====
section
/-! DEFINITION. Loads and stores (R105, R106), branches and jumps (R107, R108), the repeat prefix (R84, R109), waiting and
ticket status (R80, R82, R127). -/

namespace Sys2Proof.Machine

/-! ### Loads and stores -/

/-- The value of a load of n bytes, sign-extended when asked (R105). -/
def loadValue (b : Bytes) (sx : Bool) : Word :=
  let v := leNat b
  if sx && 2 ^ (8 * b.length - 1) ≤ v then BitVec.ofNat 64 (2 ^ 64 - 2 ^ (8 * b.length) + v) else BitVec.ofNat 64 v

/-- What the central store says of the words an access reads (R286): a handle's word may be corrected or lost, and a lost
one reads as zero and ends the request DATA_UNCORRECTED. -/
def loadBytes (s : Hw) (c : Nat) (p : Place) (n : Nat) (read : List WordErrors) : Bytes × Hw :=
  let x := s.ctx c
  match p with
  | .handle h o =>
    let v := x.hnd h
    let l := readWords v o n read
    if s.cs.poisoned.contains (hndBuf v o) then (zeros n, settleAll (poisonStreams s (hndBuf v o)))
    else if readLost s l then (zeros n, settleAll (readAll s l))
    else (placeRead s x p n, readAll s l)
  | _ => (placeRead s x p n, s)

/-- LD and LDW with their fields as encoded: `regs` registers of `n` bytes each from RD (R105, R106). -/
def loadAct (c : Nat) (rd rb : BitVec 5) (mode : BitVec 3) (adr : BitVec 10) (regs n : Nat) (sx : Bool)
    (read : List WordErrors) (s : Hw) : Act :=
  let x := s.ctx c
  match effective x rb mode adr (regs * n) with
  | .error t => .trap t
  | .ok e =>
    match accessPlace x e.ea (regs * n) false with
    | .error t => .trap t
    | .ok p =>
      let (b, s) := loadBytes s c p (regs * n) read
      .done (s.modCtx c fun x =>
        (List.range regs).foldl (fun x i => x.rset (rd + BitVec.ofNat 5 i) (loadValue ((b.drop (n * i)).take n) sx))
          (updateBase x rb e)) false

/-- ST and STW (R105, R106): the registers are read before the base is updated. -/
def storeAct (c : Nat) (rd rb : BitVec 5) (mode : BitVec 3) (adr : BitVec 10) (regs n : Nat) (s : Hw) : Act :=
  let x := s.ctx c
  match effective x rb mode adr (regs * n) with
  | .error t => .trap t
  | .ok e =>
    match accessPlace x e.ea (regs * n) true with
    | .error t => .trap t
    | .ok p =>
      let b := (List.range regs).flatMap fun i => leBytes n (x.rget (rd + BitVec.ofNat 5 i)).toNat
      let s := match p with
        | .handle h o => hndWrite s (x.hnd h) o b
        | .scratch a => s.modCtx c fun x => { x with scratch := mwrite x.scratch a b }
        | .descriptor _ => s
      .done (s.modCtx c fun x => updateBase x rb e) false

/-- What REP makes of an LD or ST encoding: a reserved one traps at its first iteration (R86, R99, R105). -/
def memKind (bad : Bool) : RepKind := if bad then .reserved 1 else .repeatable

/-- LD (R105): load 1, 2, 4 or 8 B, zero- or sign-extended. -/
def execLd (c : BitVec 9) (rd rb : BitVec 5) (mode : BitVec 3) (sz : BitVec 2) (sx : Bool) (adr : BitVec 10)
    (read : List WordErrors) (s : State) : Host.Outcome State Fault Refusal :=
  s.insnRead c (encM 0x0C rd rb mode sz sx adr) (memKind (modeReserved mode adr))
    (loadAct c.toNat rd rb mode adr 1 (2 ^ sz.toNat) sx read)

/-- ST (R105): store 1, 2, 4 or 8 B; SX must be zero. -/
def execSt (c : BitVec 9) (rd rb : BitVec 5) (mode : BitVec 3) (sz : BitVec 2) (sx : Bool) (adr : BitVec 10) (s : State) :
    Host.Outcome State Fault Refusal :=
  s.insn c (encM 0x0D rd rb mode sz sx adr) (memKind (modeReserved mode adr || sx))
    (storeAct c.toNat rd rb mode adr 1 (2 ^ sz.toNat))

/-- An LDW or STW whose RD is not a multiple of 4, or whose SZ or SX is nonzero, is reserved (R105). -/
def wideReserved (rd : BitVec 5) (mode : BitVec 3) (sz : BitVec 2) (sx : Bool) (adr : BitVec 10) : Bool :=
  modeReserved mode adr || rd.toNat % 4 != 0 || sz != 0 || sx

/-- LDW (R105): load 32 B into RD to RD + 3. -/
def execLdw (c : BitVec 9) (rd rb : BitVec 5) (mode : BitVec 3) (sz : BitVec 2) (sx : Bool) (adr : BitVec 10)
    (read : List WordErrors) (s : State) : Host.Outcome State Fault Refusal :=
  s.insnRead c (encM 0x0E rd rb mode sz sx adr) (memKind (wideReserved rd mode sz sx adr))
    (loadAct c.toNat rd rb mode adr 4 8 false read)

/-- STW (R105): store RD to RD + 3 as 32 B. -/
def execStw (c : BitVec 9) (rd rb : BitVec 5) (mode : BitVec 3) (sz : BitVec 2) (sx : Bool) (adr : BitVec 10)
    (s : State) : Host.Outcome State Fault Refusal :=
  s.insn c (encM 0x0F rd rb mode sz sx adr) (memKind (wideReserved rd mode sz sx adr))
    (storeAct c.toNat rd rb mode adr 4 8)

/-! ### Control -/

/-- BCC (R107): branch to PC + 4 × OFF22 when COND holds. -/
def execBcc (c : BitVec 9) (cond : BitVec 4) (off : BitVec 22) (s : State) : Host.Outcome State Fault Refusal :=
  s.insn c (encB 0x10 cond off) .notRepeatable fun h =>
    let x := h.ctx c.toNat
    if x.flags.cond cond then .jump h (x.pc + 4 * off.signExtend 64) else .done h false

/-- JAL (R108): RD := PC + 4, then PC := PC + 4 × OFF21. -/
def execJal (c : BitVec 9) (rd : BitVec 5) (off : BitVec 21) (s : State) : Host.Outcome State Fault Refusal :=
  s.insn c (encJ 0x11 rd off) .notRepeatable fun h =>
    .jump (h.modCtx c.toNat fun x => x.rset rd (x.pc + 4)) ((h.ctx c.toNat).pc + 4 * off.signExtend 64)

/-- JR (R108): RD := PC + 4, then PC := RA with bits 1 and 0 cleared; RA is read first. -/
def execJr (c : BitVec 9) (rd ra : BitVec 5) (s : State) : Host.Outcome State Fault Refusal :=
  s.insn c (encR 0x12 rd ra 0 0 0x00) .notRepeatable fun h =>
    .jump (h.modCtx c.toNat fun x => x.rset rd (x.pc + 4)) ((h.ctx c.toNat).rget ra &&& ~~~3#64)

/-- The fields of REP that R109 makes zero, and its reserved SRC. -/
def repReserved (src : BitVec 2) (ra : BitVec 5) (imm : BitVec 16) : Bool :=
  src = 3 || (src != 1 && ra != 0) || (src != 0 && imm != 0)

/-- REP (R84, R109): the count is copied into the context's repeat engine. -/
def execRep (c : BitVec 9) (src : BitVec 2) (ra : BitVec 5) (imm : BitVec 16) (s : State) :
    Host.Outcome State Fault Refusal :=
  s.insn c (encX 0x13 src ra imm) (if repReserved src ra imm then .reserved 1 else .notRepeatable) fun h =>
    let x := h.ctx c.toNat
    let n : BitVec 32 := match src.toNat with
      | 0 => imm.zeroExtend 32
      | 1 => (x.rget ra).setWidth 32
      | _ => x.lc.setWidth 32
    .jump (h.modCtx c.toNat fun x => { x with rep := some { remain := n } }) (x.pc + 4)

/-! ### WAIT and TSTAT -/

/-- The tickets of a set that are in a state, as a mask (R82). -/
def ticketMask (x : Ctx) (set : BitVec 16) (p : TicketState → Bool) : BitVec 16 :=
  (List.range 16).foldl (fun m t => if bit set t && p (x.tk t).st then m ||| (1#16 <<< t) else m) 0

/-- The condition of a WAIT holds (R82). -/
def waitMet (x : Ctx) (set : BitVec 16) (any : Bool) : Bool :=
  let done := ticketMask x set (· = .done)
  if any then done != 0 else done = set

/-- A WAIT ends: the mask of DONE tickets to RD, Z for the condition, T for its verdict tickets (R78, R82). -/
def endWait (x : Ctx) (rd : BitVec 5) (set : BitVec 16) (any : Bool) : Ctx :=
  let done := ticketMask x set (· = .done)
  let met := waitMet x set any
  let verdicts := (List.range 16).filter fun t => bit done t && (x.tk t).verdict
  let t := if met && !verdicts.isEmpty then verdicts.all fun t => (x.tk t).status = stOk else x.flags.t
  { x.rset rd (done.zeroExtend 64) with flags := { x.flags with z := met, t := t } }

/-- WAIT (R82, R127): hold the context until the condition is met or the timeout passes. -/
def execWait (c : BitVec 9) (rd ra rb : BitVec 5) (any : Bool) (s : State) : Host.Outcome State Fault Refusal :=
  s.insn c (encR 0x14 rd ra rb 0 any.toNat) .notRepeatable fun h =>
    let x := h.ctx c.toNat
    let set : BitVec 16 := (x.rget rb).setWidth 16
    if set = 0 || ticketMask x set (· = .free) != 0 then .trap 7
    else if waitMet x set any then .done (h.modCtx c.toNat fun x => endWait x rd set any) false
    else
      let time := (x.rget ra).toNat
      .done (h.modCtx c.toNat fun x => { x with
        st := .waiting, hold := .wait rd set any (if time = 0 then none else some (h.clk.core + time)) }) false

/-- WAIT ends (R82, R127): its condition is met, or its timeout cycle passes. -/
def waitEnd (c : Nat) (s : Hw) : Hw :=
  let x := s.ctx c
  match x.hold with
  | .wait rd set any timeout =>
    if x.st != .waiting then s
    else if waitMet x set any then
      s.modCtx c fun x => { endWait x rd set any with st := .ready, hold := .none }
    else match timeout with
      | some t => (advanceTo s t).modCtx c fun x => { endWait x rd set any with st := .ready, hold := .none }
      | none => s
  | _ => s

/-- WAIT_END (R82). -/
def execWaitEnd (c : BitVec 9) (s : State) : Host.Outcome State Fault Refusal := s.live (waitEnd c.toNat)

/-- TSTAT (R80, R127): retire a DONE ticket, its result to RC and its status to RD, which stands when both name one register
(log 139). -/
def execTstat (c : BitVec 9) (rd rc ra : BitVec 5) (s : State) : Host.Outcome State Fault Refusal :=
  s.insn c (encR 0x15 rd ra 0 rc 0) .notRepeatable fun h =>
    let x := h.ctx c.toNat
    let t := fld (x.rget ra) 0 4
    let k := x.tk t
    if k.st != .done then .trap 7
    else .done (h.modCtx c.toNat fun x =>
      ((x.rset rc k.result).rset rd (k.status.zeroExtend 64)).setTk t {}) false

end Sys2Proof.Machine
end

