-- ==== Sys2Proof/Machine/Curves.lean ====
section
/-! DEFINITION. The curves of R192: short-Weierstrass curves with ECDSA and ECDH (FIPS 186-5, SP 800-56A), Ed25519 and Ed448
(RFC 8032), X25519 and X448 (RFC 7748), and the sanity check of a loaded curve (R229). The standards' text is PRESUMED
(log 9). -/

namespace Sys2Proof.Machine

/-! ### Short-Weierstrass curves -/

/-- A curve y² = x³ + ax + b over GF(p) with its base point and the order of it. -/
structure Curve where
  p : Nat
  a : Nat
  b : Nat
  gx : Nat
  gy : Nat
  n : Nat
deriving DecidableEq, Repr

/-- P-256. -/
def p256 : Curve where
  p := 0xFFFFFFFF00000001000000000000000000000000FFFFFFFFFFFFFFFFFFFFFFFF
  a := 0xFFFFFFFF00000001000000000000000000000000FFFFFFFFFFFFFFFFFFFFFFFC
  b := 0x5AC635D8AA3A93E7B3EBBD55769886BC651D06B0CC53B0F63BCE3C3E27D2604B
  gx := 0x6B17D1F2E12C4247F8BCE6E563A440F277037D812DEB33A0F4A13945D898C296
  gy := 0x4FE342E2FE1A7F9B8EE7EB4A7C0F9E162BCE33576B315ECECBB6406837BF51F5
  n := 0xFFFFFFFF00000000FFFFFFFFFFFFFFFFBCE6FAADA7179E84F3B9CAC2FC632551

/-- P-384. -/
def p384 : Curve where
  p := 0xFFFFFFFFFFFFFFFFFFFFFFFFFFFFFFFFFFFFFFFFFFFFFFFFFFFFFFFFFFFFFFFEFFFFFFFF0000000000000000FFFFFFFF
  a := 0xFFFFFFFFFFFFFFFFFFFFFFFFFFFFFFFFFFFFFFFFFFFFFFFFFFFFFFFFFFFFFFFEFFFFFFFF0000000000000000FFFFFFFC
  b := 0xB3312FA7E23EE7E4988E056BE3F82D19181D9C6EFE8141120314088F5013875AC656398D8A2ED19D2A85C8EDD3EC2AEF
  gx := 0xAA87CA22BE8B05378EB1C71EF320AD746E1D3B628BA79B9859F741E082542A385502F25DBF55296C3A545E3872760AB7
  gy := 0x3617DE4A96262C6F5D9E98BF9292DC29F8F41DBD289A147CE9DA3113B5F0B8C00A60B1CE1D7E819D7A431D7C90EA0E5F
  n := 0xFFFFFFFFFFFFFFFFFFFFFFFFFFFFFFFFFFFFFFFFFFFFFFFFC7634D81F4372DDF581A0DB248B0A77AECEC196ACCC52973

/-- P-521. -/
def p521 : Curve where
  p := 2 ^ 521 - 1
  a := 2 ^ 521 - 4
  b :=
    0x0051953EB9618E1C9A1F929A21A0B68540EEA2DA725B99B315F3B8B489918EF109E156193951EC7E937B1652C0BD3BB1BF073573DF883D2C34F1EF451FD46B503F00
  gx :=
    0x00C6858E06B70404E9CD9E3ECB662395B4429C648139053FB521F828AF606B4D3DBAA14B5E77EFE75928FE1DC127A2FFA8DE3348B3C1856A429BF97E7E31C2E5BD66
  gy :=
    0x011839296A789A3BC0045C8A5FB42C7D1BD998F54449579B446817AFBD17273E662C97EE72995EF42640C550B9013FAD0761353C7086A272C24088BE94769FD16650
  n :=
    0x01FFFFFFFFFFFFFFFFFFFFFFFFFFFFFFFFFFFFFFFFFFFFFFFFFFFFFFFFFFFFFFFFFA51868783BF2F966B7FCC0148F709A5D03BB5C9B8899C47AEBB6FB71E91386409

/-- A named curve by its digit (R192). -/
def namedCurve (digit : Nat) : Curve := match digit with | 1 => p256 | 2 => p384 | _ => p521

/-- The sum of two points; none is the point at infinity. -/
def ecAdd (c : Curve) : Option (Nat × Nat) → Option (Nat × Nat) → Option (Nat × Nat)
  | none, q => q
  | q, none => q
  | some (x1, y1), some (x2, y2) =>
    if x1 = x2 && (y1 + y2) % c.p = 0 then none
    else
      let slope := if x1 = x2 then (3 * x1 * x1 + c.a) % c.p * invMod c.p (2 * y1) % c.p
        else subMod c.p y2 y1 * invMod c.p (subMod c.p x2 x1) % c.p
      let x := subMod c.p (slope * slope) (x1 + x2)
      some (x, subMod c.p (slope * subMod c.p x1 x) y1)

/-- acc + k times a point, by the bits of k. -/
def ecMulGo (c : Curve) : Nat → Nat → Option (Nat × Nat) → Option (Nat × Nat) → Option (Nat × Nat)
  | 0, _, _, acc => acc
  | f + 1, k, q, acc => ecMulGo c f (k / 2) (ecAdd c q q) (if k % 2 = 1 then ecAdd c acc q else acc)

/-- k times a point. -/
def ecMul (c : Curve) (k : Nat) (q : Option (Nat × Nat)) : Option (Nat × Nat) := ecMulGo c (Nat.log2 k + 1) k q none

/-- The base point. -/
def Curve.g (c : Curve) : Option (Nat × Nat) := some (c.gx, c.gy)

/-- Reduced coordinates on the curve, and not the all-zero encoding (R191, R203). -/
def onCurve (c : Curve) (q : Nat × Nat) : Bool :=
  q.1 < c.p && q.2 < c.p && q != (0, 0) && (q.2 * q.2) % c.p = (q.1 * q.1 * q.1 + c.a * q.1 + c.b) % c.p

/-- A point from its 16 W bytes (R191). -/
def pointOf (w : Nat) (b : Bytes) : Nat × Nat := (leAt b 0 (8 * w), leAt b (8 * w) (8 * w))

/-- The 16 W bytes of a point, zeros for infinity (R191). -/
def pointBytes (w : Nat) (q : Option (Nat × Nat)) : Bytes :=
  match q with | some (x, y) => leBytes (8 * w) x ++ leBytes (8 * w) y | none => zeros (16 * w)

/-- bits2int: the leftmost bits of a hash, as many as n has (R192). -/
def bitsToInt (n : Nat) (hash : Bytes) : Nat := beNat hash / 2 ^ (8 * hash.length - (Nat.log2 n + 1))

/-- r and s of an ECDSA signature over e with a per-message number k. -/
def ecdsaSign (c : Curve) (d e k : Nat) : Nat × Nat :=
  let r := match ecMul c k c.g with | some (x, _) => x % c.n | none => 0
  (r, invMod c.n k * (e + r * d) % c.n)

/-- An ECDSA signature verifies under a valid public point (R203). -/
def ecdsaVerify (c : Curve) (q : Nat × Nat) (e r s : Nat) : Bool :=
  1 ≤ r && r < c.n && 1 ≤ s && s < c.n &&
    (let w := invMod c.n s
     match ecAdd c (ecMul c (e * w % c.n) c.g) (ecMul c (r * w % c.n) (some q)) with
     | some (x, _) => x % c.n = r
     | none => false)

/-! ### Edwards curves -/

/-- A curve ax² + y² = 1 + dx²y² over GF(p), with its base point, order and the bytes of an encoding. -/
structure Edwards where
  p : Nat
  a : Nat
  d : Nat
  bx : Nat
  by_ : Nat
  l : Nat
  size : Nat
  cofactor : Nat
deriving DecidableEq, Repr

/-- A square root modulo p, where there is one: p is 3 modulo 4 or 5 modulo 8. -/
def sqrtMod (p u : Nat) : Option Nat :=
  let bits := Nat.log2 p + 1
  if p % 4 = 3 then
    let x := powMod p bits (u % p) ((p + 1) / 4) 1
    if x * x % p = u % p then some x else none
  else
    let x := powMod p bits (u % p) ((p + 3) / 8) 1
    let y := x * powMod p bits 2 ((p - 1) / 4) 1 % p
    if x * x % p = u % p then some x else if y * y % p = u % p then some y else none

/-- The curve of Ed25519. -/
def ed25519 : Edwards where
  p := 2 ^ 255 - 19
  a := 2 ^ 255 - 20
  d := 0x52036CEE2B6FFE738CC740797779E89800700A4D4141D8AB75EB4DCA135978A3
  bx := 0x216936D3CD6E53FEC0A4E231FDD6DC5C692CC7609525A7B2C9562D608F25D51A
  by_ := 0x6666666666666666666666666666666666666666666666666666666666666658
  l := 2 ^ 252 + 27742317777372353535851937790883648493
  size := 32
  cofactor := 8

/-- The curve of Ed448. -/
def ed448 : Edwards where
  p := 2 ^ 448 - 2 ^ 224 - 1
  a := 1
  d := 2 ^ 448 - 2 ^ 224 - 1 - 39081
  bx :=
    224580040295924300187604334099896036246789641632564134246125461686950415467406032909029192869357953282578032075146446173674602635247710
  by_ :=
    298819210078481492676017930443930673437544040154080242095928241372331506189835876003536878655418784733982303233503462500531545062832660
  l := 2 ^ 446 - 13818066809895115352007386748515426880336692474882178609894547503885
  size := 57
  cofactor := 4

/-- The sum of two points. -/
def edAdd (c : Edwards) (q r : Nat × Nat) : Nat × Nat :=
  let t := c.d * (q.1 * r.1 % c.p) % c.p * (q.2 * r.2 % c.p) % c.p
  ((q.1 * r.2 + r.1 * q.2) % c.p * invMod c.p (1 + t) % c.p,
    subMod c.p (q.2 * r.2) (c.a * (q.1 * r.1 % c.p)) * invMod c.p (subMod c.p 1 t) % c.p)

/-- acc + k times a point, by the bits of k. -/
def edMulGo (c : Edwards) : Nat → Nat → Nat × Nat → Nat × Nat → Nat × Nat
  | 0, _, _, acc => acc
  | f + 1, k, q, acc => edMulGo c f (k / 2) (edAdd c q q) (if k % 2 = 1 then edAdd c acc q else acc)

/-- k times a point. -/
def edMul (c : Edwards) (k : Nat) (q : Nat × Nat) : Nat × Nat := edMulGo c (Nat.log2 k + 1) k q (0, 1)

/-- The base point. -/
def Edwards.g (c : Edwards) : Nat × Nat := (c.bx, c.by_)

/-- The encoding of a point: y, with the low bit of x on top. -/
def edEncode (c : Edwards) (q : Nat × Nat) : Bytes := leBytes c.size (q.2 + q.1 % 2 * 2 ^ (8 * c.size - 1))

/-- The point of an encoding, which must be canonical (RFC 8032, R204). -/
def edDecode (c : Edwards) (b : Bytes) : Option (Nat × Nat) :=
  let v := leNat b
  let y := v % 2 ^ (8 * c.size - 1)
  let sign := v / 2 ^ (8 * c.size - 1)
  if c.p ≤ y then none
  else
    match sqrtMod c.p (subMod c.p (y * y) 1 * invMod c.p (subMod c.p (c.d * (y * y % c.p)) c.a)) with
    | none => none
    | some x => if x = 0 && sign = 1 then none else some (if x % 2 = sign then x else c.p - x, y)

/-- The hash of an EdDSA computation. -/
def edHash (c : Edwards) (b : Bytes) : Bytes := if c.size = 32 then sha512 b else shake256 b 114

/-- What precedes each hash but the key's: the empty context of Ed448. -/
def edDom (c : Edwards) : Bytes := if c.size = 32 then [] else ascii "SigEd448" ++ [0, 0]

/-- The secret scalar and the prefix of a seed. -/
def edSecret (c : Edwards) (seed : Bytes) : Nat × Bytes :=
  let h := edHash c seed
  let v := leNat (h.take c.size)
  let s := if c.size = 32 then v % 2 ^ 254 / 8 * 8 + 2 ^ 254 else v % 2 ^ 447 / 4 * 4 + 2 ^ 447
  (s, h.drop c.size)

/-- The public key of a seed. -/
def edPublic (c : Edwards) (seed : Bytes) : Bytes := edEncode c (edMul c (edSecret c seed).1 c.g)

/-- The challenge of a signature. -/
def edChallenge (c : Edwards) (r a msg : Bytes) : Nat := leNat (edHash c (edDom c ++ r ++ a ++ msg)) % c.l

/-- A signature. -/
def edSign (c : Edwards) (seed msg : Bytes) : Bytes :=
  let (s, pre) := edSecret c seed
  let r := leNat (edHash c (edDom c ++ pre ++ msg)) % c.l
  let rb := edEncode c (edMul c r c.g)
  rb ++ leBytes c.size ((r + edChallenge c rb (edPublic c seed) msg * s) % c.l)

/-- The cofactored verification (R204), for a public key that decodes. -/
def edVerify (c : Edwards) (a msg sig : Bytes) : Bool :=
  let s := leNat (sig.drop c.size)
  match edDecode c a, edDecode c (sig.take c.size) with
  | some q, some r =>
    s < c.l && edMul c (c.cofactor * s) c.g =
      edAdd c (edMul c c.cofactor r) (edMul c c.cofactor (edMul c (edChallenge c (sig.take c.size) a msg) q))
  | _, _ => false

/-! ### X25519 and X448 -/

/-- One step of the ladder of RFC 7748, by bit `t` of the scalar. -/
def xStep (p a24 u k : Nat) (v : Nat × Nat × Nat × Nat) (t : Nat) : Nat × Nat × Nat × Nat :=
  let bit := k / 2 ^ t % 2 = 1
  let (x2, z2, x3, z3) := if bit then (v.2.2.1, v.2.2.2, v.1, v.2.1) else v
  let a := (x2 + z2) % p
  let b := subMod p x2 z2
  let aa := a * a % p
  let bb := b * b % p
  let e := subMod p aa bb
  let da := subMod p x3 z3 * a % p
  let cb := (x3 + z3) * b % p
  let s := (da + cb) % p
  let d := subMod p da cb
  let r := (aa * bb % p, e * (aa + a24 * e) % p, s * s % p, u * (d * d % p) % p)
  if bit then (r.2.2.1, r.2.2.2, r.1, r.2.1) else r

/-- X25519 (32 B) or X448 (56 B) of a scalar and a u-coordinate. -/
def xMul (n : Nat) (scalar u : Bytes) : Bytes :=
  let v := leNat scalar
  let (p, a24, bits, k, x) :=
    if n = 32 then (2 ^ 255 - 19, 121665, 255, v % 2 ^ 254 / 8 * 8 + 2 ^ 254, leNat u % 2 ^ 255)
    else (2 ^ 448 - 2 ^ 224 - 1, 39081, 448, v % 2 ^ 447 / 4 * 4 + 2 ^ 447, leNat u)
  let r := ((List.range bits).reverse).foldl (xStep p a24 (x % p) k) (1, 0, x % p, 1)
  leBytes n (r.1 * invMod p r.2.1 % p)

/-- The base u-coordinate. -/
def xBase (n : Nat) : Bytes := leBytes n (if n = 32 then 9 else 5)

/-! ### The sanity check of a loaded curve (R229) -/

/-- Rounds of Miller-Rabin testing of one segment, and the number of its first round. -/
def segmentRounds (k : Nat) : Nat × Nat := match k with | 1 => (14, 0) | 2 => (14, 14) | _ => (12, 28)

/-- A number passes rounds of testing to given bases, each brought into 2 to m - 2. -/
def roundsPass (m : Nat) (base : Nat → Nat) (r : Nat × Nat) : Bool :=
  4 < m && m % 2 = 1 && (List.range r.1).all fun i => millerRabin m (base (r.2 + i) % (m - 3) + 2)

/-- Segment 7. -/
def curveSound (c : Curve) (h : Nat) : Bool :=
  let gap := if h * c.n ≤ c.p + 1 then c.p + 1 - h * c.n else h * c.n - (c.p + 1)
  (4 * c.a * c.a * c.a + 27 * c.b * c.b) % c.p != 0 && (c.gy * c.gy) % c.p = (c.gx * c.gx * c.gx + c.a * c.gx + c.b) % c.p &&
    ecMul c c.n c.g = none && c.n != c.p && gap * gap ≤ 4 * c.p &&
    (List.range 20).all fun k => powMod c.n (k + 2) (c.p % c.n) (k + 1) 1 != 1

end Sys2Proof.Machine
end

