-- ==== Sys2Proof/Machine/Lattice.lean ====
section
/-! DEFINITION. ML-KEM (FIPS 203) and ML-DSA (FIPS 204), as R192 names them; their text is PRESUMED (log 9). A polynomial is
the list of its 256 coefficients modulo q. -/

namespace Sys2Proof.Machine

/-! ### Polynomials -/

/-- Sum of two polynomials. -/
def polyAdd (q : Nat) (f g : List Nat) : List Nat := List.zipWith (fun a b => (a + b) % q) f g
/-- Difference. -/
def polySub (q : Nat) (f g : List Nat) : List Nat := List.zipWith (fun a b => (a + (q - b)) % q) f g
/-- Product by a number. -/
def polyScale (q k : Nat) (f : List Nat) : List Nat := f.map fun a => a * k % q

/-- The transform: l layers from node k, whose factor is a power of z by the w-bit reversal of its number. -/
def nttGo (q z w : Nat) : Nat → Nat → List Nat → List Nat
  | 0, _, f => f
  | l + 1, k, f =>
    let h := f.length / 2
    let t := polyScale q (modExp 9 z (revNat w k) q) (f.drop h)
    nttGo q z w l (2 * k) (polyAdd q (f.take h) t) ++ nttGo q z w l (2 * k + 1) (polySub q (f.take h) t)

/-- Its inverse, but for the factor 2 to the power l. -/
def nttBackGo (q z w : Nat) : Nat → Nat → List Nat → List Nat
  | 0, _, f => f
  | l + 1, k, f =>
    let h := f.length / 2
    let a := nttBackGo q z w l (2 * k) (f.take h)
    let b := nttBackGo q z w l (2 * k + 1) (f.drop h)
    polyAdd q a b ++ polyScale q (invMod q (modExp 9 z (revNat w k) q)) (polySub q a b)

/-- Coefficients of d bits as bytes (ByteEncode, SimpleBitPack). -/
def packBits (d : Nat) (f : List Nat) : Bytes := leBytes (ceilDiv (d * f.length) 8) (f.foldr (fun c a => c + 2 ^ d * a) 0)

/-- The d-bit coefficients of bytes (ByteDecode, SimpleBitUnpack): 256 of them. -/
def unpackBits (d : Nat) (b : Bytes) : List Nat :=
  let v := leNat b
  (List.range 256).map fun i => v / 2 ^ (d * i) % 2 ^ d

/-- The bits of a byte string. -/
def bitsOf (b : Bytes) : List Nat := b.flatMap fun x => (List.range 8).map fun i => x.toNat / 2 ^ i % 2

/-- Accepted candidates, up to 256, of pieces of a stream. -/
def take256 (n : Nat) (accept : Bytes → List Nat) (b : Bytes) : List Nat :=
  let l := ((pieces n b).flatMap accept).take 256
  l ++ List.replicate (256 - l.length) 0

/-! ### ML-KEM -/

/-- q of ML-KEM. -/
abbrev kemQ : Nat := 3329
/-- η1, du and dv for the module rank. -/
def kemEta (k : Nat) : Nat := if k = 2 then 3 else 2
/-- du. -/
def kemDu (k : Nat) : Nat := if k = 4 then 11 else 10
/-- dv. -/
def kemDv (k : Nat) : Nat := if k = 4 then 5 else 4

/-- NTT. -/
def kemNtt (f : List Nat) : List Nat := nttGo kemQ 17 7 7 1 f
/-- NTT⁻¹. -/
def kemNttBack (f : List Nat) : List Nat := polyScale kemQ (invMod kemQ 128) (nttBackGo kemQ 17 7 7 1 f)

/-- MultiplyNTTs. -/
def kemMul (f g : List Nat) : List Nat :=
  (List.range 128).flatMap fun i =>
    let z := modExp 9 17 (2 * revNat 7 i + 1) kemQ
    let a := fun j => f.getD (2 * i + j) 0
    let b := fun j => g.getD (2 * i + j) 0
    [(a 0 * b 0 + a 1 * b 1 % kemQ * z) % kemQ, (a 0 * b 1 + a 1 * b 0) % kemQ]

/-- The inner product of two vectors under NTT. -/
def kemDot (f g : List (List Nat)) : List Nat :=
  (List.zipWith kemMul f g).foldl (polyAdd kemQ) (List.replicate 256 0)

/-- SampleNTT. The rejections that a stream of 4,032 B cannot absorb have no practical chance. -/
def sampleNtt (seed : Bytes) : List Nat :=
  take256 3 (fun b =>
    let v := leNat b
    [v % 4096, v / 4096].filter (· < kemQ)) (shake128 seed 4032)

/-- Matrix entry (i, j), sampled from ρ, j, i. -/
def kemEntry (rho : Bytes) (i j : Nat) : List Nat := sampleNtt (rho ++ [BitVec.ofNat 8 j, BitVec.ofNat 8 i])

/-- SamplePolyCBD of PRF(s, n). -/
def kemNoise (eta : Nat) (s : Bytes) (n : Nat) : List Nat :=
  let bits := bitsOf (shake256 (s ++ [BitVec.ofNat 8 n]) (64 * eta))
  (List.range 256).map fun i =>
    let x := ((bits.drop (2 * i * eta)).take eta).sum
    let y := ((bits.drop (2 * i * eta + eta)).take eta).sum
    (x + (kemQ - y)) % kemQ

/-- Compress to d bits. -/
def compress (d c : Nat) : Nat := (c * 2 ^ d * 2 + kemQ) / (2 * kemQ) % 2 ^ d
/-- Decompress from d bits. -/
def decompress (d c : Nat) : Nat := (c * kemQ * 2 + 2 ^ d) / 2 ^ (d + 1)

/-- The k polynomials of d bits each in a byte string. -/
def kemPolys (k d : Nat) (b : Bytes) : List (List Nat) := (List.range k).map fun i => unpackBits d ((b.drop (32 * d * i)).take (32 * d))

/-- K-PKE.KeyGen. -/
def pkeKeyGen (k : Nat) (d : Bytes) : Bytes × Bytes :=
  let g := sha3 64 (d ++ [BitVec.ofNat 8 k])
  let rho := g.take 32
  let noise := fun i => kemNtt (kemNoise (kemEta k) (g.drop 32) i)
  let s := (List.range k).map noise
  let t := (List.range k).map fun i =>
    polyAdd kemQ (kemDot ((List.range k).map (kemEntry rho i)) s) (noise (k + i))
  (t.flatMap (packBits 12) ++ rho, s.flatMap (packBits 12))

/-- K-PKE.Encrypt. -/
def pkeEncrypt (k : Nat) (ek m r : Bytes) : Bytes :=
  let t := (kemPolys k 12 ek).map fun f => f.map (· % kemQ)
  let rho := ek.drop (384 * k)
  let y := (List.range k).map fun i => kemNtt (kemNoise (kemEta k) r i)
  let u := (List.range k).map fun i =>
    polyAdd kemQ (kemNttBack (kemDot ((List.range k).map fun j => kemEntry rho j i) y)) (kemNoise 2 r (k + i))
  let mu := (unpackBits 1 m).map (decompress 1)
  let v := polyAdd kemQ (polyAdd kemQ (kemNttBack (kemDot t y)) (kemNoise 2 r (2 * k))) mu
  u.flatMap (fun f => packBits (kemDu k) (f.map (compress (kemDu k)))) ++ packBits (kemDv k) (v.map (compress (kemDv k)))

/-- K-PKE.Decrypt. -/
def pkeDecrypt (k : Nat) (dk c : Bytes) : Bytes :=
  let u := (kemPolys k (kemDu k) c).map fun f => kemNtt (f.map (decompress (kemDu k)))
  let v := (unpackBits (kemDv k) (c.drop (32 * kemDu k * k))).map (decompress (kemDv k))
  let w := polySub kemQ v (kemNttBack (kemDot (kemPolys k 12 dk) u))
  packBits 1 (w.map (compress 1))

/-- ML-KEM.KeyGen_internal: the decapsulation key. -/
def kemKeyGen (k : Nat) (d z : Bytes) : Bytes :=
  let (ek, dk) := pkeKeyGen k d
  dk ++ ek ++ sha3 32 ek ++ z

/-- The encapsulation key inside a decapsulation key. -/
def kemEk (k : Nat) (dk : Bytes) : Bytes := (dk.drop (384 * k)).take (384 * k + 32)

/-- The modulus check of an encapsulation key. -/
def kemEkOk (k : Nat) (ek : Bytes) : Bool := (kemPolys k 12 ek).all fun f => f.all (· < kemQ)

/-- The hash check of a decapsulation key. -/
def kemDkOk (k : Nat) (dk : Bytes) : Bool := sha3 32 (kemEk k dk) = (dk.drop (768 * k + 32)).take 32

/-- ML-KEM.Encaps_internal: the ciphertext and K. -/
def kemEncaps (k : Nat) (ek m : Bytes) : Bytes × Bytes :=
  let g := sha3 64 (m ++ sha3 32 ek)
  (pkeEncrypt k ek m (g.drop 32), g.take 32)

/-- ML-KEM.Decaps_internal, with its implicit rejection (R205). -/
def kemDecaps (k : Nat) (dk c : Bytes) : Bytes :=
  let m := pkeDecrypt k (dk.take (384 * k)) c
  let g := sha3 64 (m ++ (dk.drop (768 * k + 32)).take 32)
  if pkeEncrypt k (kemEk k dk) m (g.drop 32) = c then g.take 32 else shake256 (dk.drop (768 * k + 64) ++ c) 32

/-! ### ML-DSA -/

/-- q of ML-DSA. -/
abbrev dsaQ : Nat := 8380417

/-- A parameter set of FIPS 204. -/
structure DsaSet where
  k : Nat
  l : Nat
  eta : Nat
  tau : Nat
  beta : Nat
  gamma1 : Nat
  gamma2 : Nat
  omega : Nat
  tag : Nat       -- bytes of c̃
deriving DecidableEq, Repr

/-- ML-DSA-44, 65 and 87 by their digit (R192). -/
def dsaSet (digit : Nat) : DsaSet :=
  match digit with
  | 4 => ⟨4, 4, 2, 39, 78, 2 ^ 17, 95232, 80, 32⟩
  | 5 => ⟨6, 5, 4, 49, 196, 2 ^ 19, 261888, 55, 48⟩
  | _ => ⟨8, 7, 2, 60, 120, 2 ^ 19, 261888, 75, 64⟩

/-- NTT. -/
def dsaNtt (f : List Nat) : List Nat := nttGo dsaQ 1753 8 8 1 f
/-- NTT⁻¹. -/
def dsaNttBack (f : List Nat) : List Nat := polyScale dsaQ (invMod dsaQ 256) (nttBackGo dsaQ 1753 8 8 1 f)
/-- Product under NTT. -/
def dsaMul (f g : List Nat) : List Nat := List.zipWith (fun a b => a * b % dsaQ) f g
/-- Inner product under NTT. -/
def dsaDot (f g : List (List Nat)) : List Nat := (List.zipWith dsaMul f g).foldl (polyAdd dsaQ) (List.replicate 256 0)
/-- The size of a coefficient as a number around 0. -/
def dsaAbs (c : Nat) : Nat := min c (dsaQ - c)
/-- Every coefficient of a vector is below a bound. -/
def dsaBelow (bound : Nat) (v : List (List Nat)) : Bool := v.all fun f => f.all fun c => dsaAbs c < bound

/-- A number of two bytes. -/
def two (n : Nat) : Bytes := leBytes 2 n

/-- RejNTTPoly for entry (r, s). -/
def dsaEntry (rho : Bytes) (r s : Nat) : List Nat :=
  take256 3 (fun b => [leNat b % 2 ^ 23].filter (· < dsaQ)) (shake128 (rho ++ [BitVec.ofNat 8 s, BitVec.ofNat 8 r]) 4032)

/-- RejBoundedPoly. -/
def dsaSmall (eta : Nat) (seed : Bytes) : List Nat :=
  take256 1 (fun b =>
    let v := leNat b
    [v % 16, v / 16].filterMap fun x =>
      if eta = 2 then (if x < 15 then some ((2 + (dsaQ - x % 5)) % dsaQ) else none)
      else (if x < 9 then some ((4 + (dsaQ - x)) % dsaQ) else none)) (shake256 seed 1088)

/-- BitPack of coefficients from -a to b in d bits. -/
def packAround (d b : Nat) (f : List Nat) : Bytes := packBits d (f.map fun c => (b + (dsaQ - c)) % dsaQ)
/-- BitUnpack. -/
def unpackAround (d b : Nat) (x : Bytes) : List Nat := (unpackBits d x).map fun c => (b + (dsaQ - c)) % dsaQ

/-- Bits of a packed secret coefficient. -/
def DsaSet.etaBits (s : DsaSet) : Nat := if s.eta = 2 then 3 else 4
/-- Bits of a packed coefficient of z and of a mask. -/
def DsaSet.zBits (s : DsaSet) : Nat := if s.gamma1 = 2 ^ 17 then 18 else 20
/-- Bits of a packed high part. -/
def DsaSet.highBits (s : DsaSet) : Nat := if s.gamma2 = 95232 then 6 else 4

/-- Power2Round: the high part; the low part is what is left. -/
def dsaHigh (c : Nat) : Nat := (c + 2 ^ 12 - 1) / 2 ^ 13

/-- ExpandA. -/
def dsaMatrix (s : DsaSet) (rho : Bytes) : List (List (List Nat)) :=
  (List.range s.k).map fun r => (List.range s.l).map (dsaEntry rho r)

/-- t of a secret. -/
def dsaT (s : DsaSet) (rho : Bytes) (s1 s2 : List (List Nat)) : List (List Nat) :=
  List.zipWith (fun row e => polyAdd dsaQ (dsaNttBack (dsaDot row (s1.map dsaNtt))) e) (dsaMatrix s rho) s2

/-- pkEncode. -/
def dsaPkBytes (rho : Bytes) (t : List (List Nat)) : Bytes := rho ++ t.flatMap fun f => packBits 10 (f.map dsaHigh)

/-- ML-DSA.KeyGen_internal: the secret key. -/
def dsaKeyGen (s : DsaSet) (xi : Bytes) : Bytes :=
  let h := shake256 (xi ++ [BitVec.ofNat 8 s.k, BitVec.ofNat 8 s.l]) 128
  let rho := h.take 32
  let small := fun r => dsaSmall s.eta ((h.drop 32).take 64 ++ two r)
  let s1 := (List.range s.l).map small
  let s2 := (List.range s.k).map fun r => small (s.l + r)
  let t := dsaT s rho s1 s2
  rho ++ h.drop 96 ++ shake256 (dsaPkBytes rho t) 64 ++ (s1 ++ s2).flatMap (packAround s.etaBits s.eta) ++
    t.flatMap fun f => packAround 13 (2 ^ 12) (f.map fun c => (c + (dsaQ - dsaHigh c * 2 ^ 13 % dsaQ)) % dsaQ)

/-- The n polynomials of d bits each, coefficients from b down, that lie in a byte string from an offset. -/
def dsaPolys (n d b : Nat) (x : Bytes) (off : Nat) : List (List Nat) :=
  (List.range n).map fun i => unpackAround d b ((x.drop (off + 32 * d * i)).take (32 * d))

/-- s1, s2 and t0 of a secret key. -/
def dsaSecrets (s : DsaSet) (sk : Bytes) : List (List Nat) × List (List Nat) × List (List Nat) :=
  let n := 32 * s.etaBits
  (dsaPolys s.l s.etaBits s.eta sk 128, dsaPolys s.k s.etaBits s.eta sk (128 + n * s.l),
    dsaPolys s.k 13 (2 ^ 12) sk (128 + n * (s.l + s.k)))

/-- The public key of a secret key. -/
def dsaPublic (s : DsaSet) (sk : Bytes) : Bytes :=
  let v := dsaSecrets s sk
  dsaPkBytes (sk.take 32) (dsaT s (sk.take 32) v.1 v.2.1)

/-- Decompose: the high part, and the low part around 0. -/
def decompose (s : DsaSet) (c : Nat) : Nat × Int :=
  let m := 2 * s.gamma2
  let r0 : Int := if c % m ≤ s.gamma2 then (c % m : Nat) else (c % m : Nat) - (m : Int)
  if (c : Int) - r0 = dsaQ - 1 then (0, r0 - 1) else (((c : Int) - r0).toNat / m, r0)

/-- Fisher-Yates steps of SampleInBall: the rest of the stream, the signs, the next place i, the polynomial. -/
def ballGo (signs : List Nat) (tau : Nat) : Bytes → Nat → List Nat → List Nat
  | [], _, c => c
  | b :: r, i, c =>
    if 256 ≤ i then c
    else if i < b.toNat then ballGo signs tau r i c
    else
      let c := c.set i (c.getD b.toNat 0)
      ballGo signs tau r (i + 1) (c.set b.toNat (if signs.getD (i + tau - 256) 0 = 1 then dsaQ - 1 else 1))

/-- SampleInBall. -/
def sampleBall (s : DsaSet) (seed : Bytes) : List Nat :=
  let b := shake256 seed 1096
  ballGo (bitsOf (b.take 8)) s.tau (b.drop 8) (256 - s.tau) (List.replicate 256 0)

/-- HintBitPack. -/
def packHint (s : DsaSet) (h : List (List Bool)) : Bytes :=
  let ones := h.map fun f => (List.range 256).filter fun i => f.getD i false
  let at_ := ones.flatten
  (at_ ++ List.replicate (s.omega - at_.length) 0).map (BitVec.ofNat 8) ++
    (List.range s.k).map fun i => BitVec.ofNat 8 ((ones.take (i + 1)).flatten.length)

/-- The numbers of a list rise. -/
def rising : List Nat → Bool
  | a :: b :: r => a < b && rising (b :: r)
  | _ => true

/-- HintBitUnpack: none for a malformed hint. -/
def unpackHint (s : DsaSet) (y : Bytes) : Option (List (List Bool)) :=
  let ends := 0 :: (y.drop s.omega).map (·.toNat)
  let at_ := y.map (·.toNat)
  let part := fun i => (at_.take (ends.getD (i + 1) 0)).drop (ends.getD i 0)
  if (List.range s.k).all (fun i => ends.getD i 0 ≤ ends.getD (i + 1) 0 && ends.getD (i + 1) 0 ≤ s.omega && rising (part i)) &&
      ((at_.take s.omega).drop (ends.getD s.k 0)).all (· = 0) then
    some ((List.range s.k).map fun i => (List.range 256).map fun j => (part i).contains j)
  else none

/-- w1Encode. -/
def packHigh (s : DsaSet) (w1 : List (List Nat)) : Bytes := w1.flatMap (packBits s.highBits)

/-- One attempt of signing at κ; none when it is rejected. -/
def dsaAttempt (s : DsaSet) (a : List (List (List Nat))) (v : List (List Nat) × List (List Nat) × List (List Nat))
    (mu seed : Bytes) (kappa : Nat) : Option Bytes :=
  let y := (List.range s.l).map fun r => unpackAround s.zBits s.gamma1 (shake256 (seed ++ two (kappa + r)) (32 * s.zBits))
  let yh := y.map dsaNtt
  let w := a.map fun row => dsaNttBack (dsaDot row yh)
  let tag := shake256 (mu ++ packHigh s (w.map fun f => f.map fun c => (decompose s c).1)) s.tag
  let c := dsaNtt (sampleBall s tag)
  let byC := fun f => dsaNttBack (dsaMul c (dsaNtt f))
  let z := List.zipWith (fun f g => polyAdd dsaQ f (byC g)) y v.1
  let r := List.zipWith (fun f g => polySub dsaQ f (byC g)) w v.2.1
  let ct0 := v.2.2.map byC
  let hint := List.zipWith (fun f g => List.zipWith (fun x t => (decompose s x).1 != (decompose s ((x + t) % dsaQ)).1) f g) r ct0
  if dsaBelow (s.gamma1 - s.beta) z && (r.all fun f => f.all fun x => (decompose s x).2.natAbs < s.gamma2 - s.beta) &&
      dsaBelow s.gamma2 ct0 && (hint.map fun f => f.countP id).sum ≤ s.omega then
    some (tag ++ z.flatMap (packAround s.zBits s.gamma1) ++ packHint s hint)
  else none

/-- Attempts until one succeeds: the signature with their number, none when the fuel of them is spent. -/
def dsaTry (attempt : Nat → Option Bytes) : Nat → Nat → Option (Bytes × Nat)
  | 0, _ => none
  | f + 1, i => match attempt i with | some b => some (b, i + 1) | none => dsaTry attempt f (i + 1)

/-- μ of a message under tr, with an empty context. -/
def dsaMu (tr msg : Bytes) : Bytes := shake256 (tr ++ [0, 0] ++ msg) 64

/-- ML-DSA.Sign_internal over μ: the signature with the number of attempts, none after 200 (R200). -/
def dsaSign (s : DsaSet) (sk mu rnd : Bytes) : Option (Bytes × Nat) :=
  let a := dsaMatrix s (sk.take 32)
  let v := dsaSecrets s sk
  let seed := shake256 ((sk.drop 32).take 32 ++ rnd ++ mu) 64
  dsaTry (fun i => dsaAttempt s a v mu seed (i * s.l)) 200 0

/-- ML-DSA.Verify_internal over μ. -/
def dsaVerify (s : DsaSet) (pk mu sig : Bytes) : Bool :=
  let tag := sig.take s.tag
  let z := dsaPolys s.l s.zBits s.gamma1 sig s.tag
  match unpackHint s (sig.drop (s.tag + 32 * s.zBits * s.l)) with
  | none => false
  | some hint =>
    let c := dsaNtt (sampleBall s tag)
    let zh := z.map dsaNtt
    let t := (List.range s.k).map fun i => unpackBits 10 ((pk.drop (32 + 320 * i)).take 320)
    let w := List.zipWith (fun row f =>
      dsaNttBack (polySub dsaQ (dsaDot row zh) (dsaMul c (dsaNtt (polyScale dsaQ (2 ^ 13) f))))) (dsaMatrix s (pk.take 32)) t
    let m := (dsaQ - 1) / (2 * s.gamma2)
    let w1 := List.zipWith (fun f h => List.zipWith (fun x b =>
      let d := decompose s x
      if b then (if 0 < d.2 then (d.1 + 1) % m else (d.1 + m - 1) % m) else d.1) f h) w hint
    dsaBelow (s.gamma1 - s.beta) z && shake256 (mu ++ packHigh s w1) s.tag = tag

end Sys2Proof.Machine
end

