-- ==== Sys2Proof/Machine/Image.lean ====
section
/-! DEFINITION. The configuration image in the keeper's bytes (R300): the image of a set, its pointer block, the set that an
image holds, and which bank is current (R301). -/

namespace Sys2Proof.Machine

/-- Round up to 64 B. -/
def up64 (n : Nat) : Nat := 64 * ceilDiv n 64

/-- Keeper address of a configuration bank (R291). -/
def bankAddr (b : Bool) : Nat := if b then 0x2910000 else 0x2400000
/-- Keeper address of a bank's pointer block (R291). -/
def ptrAddr (b : Bool) : Nat := if b then 0x80 else 0x40
/-- Size of a bank (R291). -/
abbrev bankSize : Nat := 0x510000

/-! ### What an image stores -/

/-- The library entries of a set that are VALID (R95). -/
def libEntries (c : CfgSet) : List Nat :=
  ((c.filter fun e => 0xC0000 ≤ e.1 && e.1 < 0xC2000).map fun e => (e.1 - 0xC0000) / 2).eraseDups.filter fun e =>
    bit (libEntry c e).2 32

/-- The domains whose entries are stored. -/
def imageDoms (c : CfgSet) : List Nat := (domsOf c).filter (domValid c)
/-- The rings whose words are stored. -/
def imageRings (c : CfgSet) : List Nat := (ringsOf c).filter (ringEn c)

/-- The highest START + LEN of a stored entry, in code words. -/
def imageCode (c : CfgSet) : Nat :=
  (libEntries c).foldl (fun m e => max m (fld (libEntry c e).1 0 19 + fld (libEntry c e).1 32 20)) 16384

/-- Offsets of the policy words, in register order (R300). -/
def policyOffsets : List Nat :=
  [0x3040, 0x3048, 0x9010] ++ (List.range 16).map (0xB100 + 8 * ·) ++
    (List.range 8).flatMap fun b => (List.range 7).map fun w => 0xB200 + 0x40 * b + 8 * w

/-! ### The bytes of an image -/

/-- A bitmap of n bytes: bit i is set for each i of a list. -/
def bitmap (n : Nat) (l : List Nat) : Bytes :=
  mkBytes n fun i => BitVec.ofNat 8 ((l.filter fun k => k / 8 = i).foldl (fun a k => a + 2 ^ (k % 8)) 0)

/-- n words of a set from an offset. -/
def cfgWords (c : CfgSet) (off n : Nat) : Bytes := wordsBytes ((List.range n).map fun i => cfgWord c (off + 8 * i))

/-- What follows the header of a set's image, each part from a 64 B boundary on (R300). -/
def imageParts (c : CfgSet) : List Bytes :=
  let n := 4 * (imageCode c - 16384)
  [bitmap 512 (imageDoms c), bitmap 8192 (imageRings c), bitmap 512 (libEntries c),
    wordsBytes (policyOffsets.map (cfgWord c)) ++ zeros (4096 - 600),
    (imageDoms c).flatMap fun d => cfgWords c (0x100000 + 0x100 * d) 32,
    (imageRings c).flatMap fun r => cfgWords c (0x200000 + 0x40 * r) 4,
    (libEntries c).flatMap fun e => cfgWords c (0x600000 + 16 * e) 2,
    (cfgWords c 0x610000 (ceilDiv n 8)).take n]

/-- The length of a set's image in bytes (R300). -/
def imageSize (c : CfgSet) : Nat :=
  64 + 512 + 8192 + 512 + 4096 + 256 * (imageDoms c).length + up64 (32 * (imageRings c).length) +
    up64 (16 * (libEntries c).length) + up64 (4 * (imageCode c - 16384))

/-- The image of a set (R300). -/
def imageBytes (c : CfgSet) (epoch : BitVec 16) : Bytes :=
  leBytes 2 epoch.toNat ++ leBytes 4 (imageSize c) ++ zeros 58 ++ (imageParts c).flatMap (padTo 64)

/-- The pointer block of an image (R300). -/
def pointerBlock (seq : BitVec 32) (epoch : BitVec 16) (image : Bytes) : Bytes :=
  leBytes 4 seq.toNat ++ leBytes 2 epoch.toNat ++ zeros 2 ++ sha384 image ++ zeros 8

/-! ### The set that an image holds -/

/-- The places of the set bits of a bitmap. -/
def bitmapBits (b : Bytes) : List Nat := (List.range (8 * b.length)).filter fun i => bit (b.getD (i / 8) 0) (i % 8)

/-- Words under their keys, from the bytes of an image: n words from an offset, the first under a key. -/
def keyedWords (b : Bytes) (off key n : Nat) : CfgSet :=
  (List.range n).map fun i => (key + i, BitVec.ofNat 64 (leAt b (off + 8 * i) 8))

/-- Runs of n words, one after another, each under the keys of its index. -/
def keyedRuns (b : Bytes) (off n : Nat) (key : Nat → Nat) (l : List Nat) : CfgSet :=
  l.zipIdx.flatMap fun e => keyedWords b (off + 8 * n * e.2) (key e.1) n

/-- The set that the bytes of an image hold (R300). -/
def imageHolds (b : Bytes) : CfgSet :=
  let doms := bitmapBits ((b.drop 64).take 512)
  let rings := bitmapBits ((b.drop 576).take 8192)
  let libs := bitmapBits ((b.drop 8768).take 512)
  let policy := policyOffsets.zipIdx.map fun e => (e.1 / 8, BitVec.ofNat 64 (leAt b (9280 + 8 * e.2) 8))
  let atRings := 13376 + 256 * doms.length
  let atLibs := atRings + up64 (32 * rings.length)
  let atCode := atLibs + up64 (16 * libs.length)
  (policy ++ keyedRuns b 13376 32 (fun d => 0x20000 + 32 * d) doms ++ keyedRuns b atRings 4 (fun r => 0x40000 + 8 * r) rings ++
    keyedRuns b atLibs 2 (fun e => 0xC0000 + 2 * e) libs ++ keyedWords b atCode 0xC2000 (ceilDiv (b.length - atCode) 8)).filter
      fun e => e.2 != 0

/-! ### The pointers -/

/-- A bank's pointer block as it reads. -/
def pointerOf (s : Hw) (b : Bool) : Bytes := mread s.kp.bytes (ptrAddr b) 64
/-- SEQ of a pointer; 0 names no image (R301). -/
def pointerSeq (s : Hw) (b : Bool) : BitVec 32 := BitVec.ofNat 32 (leAt (pointerOf s b) 0 4)
/-- EPOCH of a pointer. -/
def pointerEpoch (s : Hw) (b : Bool) : BitVec 16 := BitVec.ofNat 16 (leAt (pointerOf s b) 4 2)

/-- The length that a bank's header gives, as far as the bank goes. -/
def bankLength (s : Hw) (b : Bool) : Nat := min bankSize (max 64 (leAt (mread s.kp.bytes (bankAddr b) 64) 2 4))
/-- The image in a bank. -/
def bankImage (s : Hw) (b : Bool) : Bytes := mread s.kp.bytes (bankAddr b) (bankLength s b)
/-- A bank's image has the digest that its pointer gives (R301). -/
def bankWhole (s : Hw) (b : Bool) : Bool := sha384 (bankImage s b) = ((pointerOf s b).drop 8).take 48

/-- The bank of the current pointer, if a pointer names an image (R301). -/
def currentBank (s : Hw) : Option Bool :=
  let a := pointerSeq s false
  let b := pointerSeq s true
  if a = 0 && b = 0 then none
  else if b = 0 then some false
  else if a = 0 then some true
  else some (1 ≤ (b - a).toNat && (b - a).toNat ≤ 2 ^ 31)

/-- The SEQ that follows another: one above, 0 skipped (R301). -/
def seqNext (q : BitVec 32) : BitVec 32 := if q + 1 = 0 then 1 else q + 1

end Sys2Proof.Machine
end

