-- ==== Sys2Proof/Machine/Keep.lean ====
section
/-! DEFINITION. The keeper port's writes (R289, R295, R299, R437): how they wait, issue and end. The bytes of the
region stand in `kp.bytes`. -/

namespace Sys2Proof.Machine

/-- The port takes writes (R292, R304, R337). -/
def kpLive (s : Hw) : Bool := s.kp.formatted && !s.fenced 0x82 && !s.kp.inReset && !s.inert

/-- A write slot is free for a class (R299, R437). -/
def kpSlotFree (k : Keeper) (cls : Nat) : Bool :=
  k.out.length < 32 && (cls < 3 || (k.out.filter fun w => 3 ≤ w.cls).length < 24) &&
    (cls < 4 || (k.out.filter fun w => 4 ≤ w.cls).length < 8)

/-- A lease write. -/
def KpWrite.isLease (w : KpWrite) : Bool := match w.why with | .lease _ => true | _ => false

/-- A waiting write may issue: a slot is free, no write of its block is in flight (R295, R298), and at most 16 lease writes
are outstanding (R334). -/
def kpReady (k : Keeper) (w : KpWrite) : Bool :=
  kpSlotFree k w.cls && (!k.out.any fun o => o.addr / 64 = w.addr / 64) &&
    (!w.isLease || (k.out.filter KpWrite.isLease).length < 16)

/-- The lowest tag that no write holds. -/
def kpFreeTag (k : Keeper) : BitVec 6 :=
  BitVec.ofNat 6 (((List.range 32).find? fun t => !k.out.any fun w => w.tag.toNat = t).getD 0)

/-- Waiting writes that go out with w: the lease writes of its block (R298); else itself alone. -/
def kpTogether (k : Keeper) (w : KpWrite) : List KpWrite :=
  match w.why with
  | .lease _ => k.waiting.filter fun o => o.addr / 64 = w.addr / 64 && o.isLease
  | _ => [w]

/-- The slots of lease writes. -/
def kpLeaseSlots (ws : List KpWrite) : List Nat := ws.flatMap fun w => match w.why with | .lease l => l | _ => []

/-- Issue one waiting write: its block is read, changed and written (R295). -/
def kpIssueOne (s : Hw) (w : KpWrite) : Hw :=
  let k := s.kp
  let ws := kpTogether k w
  let base := w.addr / 64 * 64
  let block := mread (ws.foldl (fun m v => mwrite m v.addr v.data) k.bytes) base 64
  let why := match w.why with | .lease _ => .lease (kpLeaseSlots ws) | y => y
  { s with kp := { k with
      waiting := k.waiting.filter fun o => !ws.contains o
      out := k.out ++ [{ w with tag := kpFreeTag k, addr := base, data := block, why := why, issuedAt := s.clk.core }] } }

/-- The anchor block of a format (R292). -/
def anchorBlock (s : Hw) : Bytes := leBytes 8 (put 0 8 1 ||| put 8 8 0xA5 ||| put 32 16 (fld s.kp.cfg 32 16)).toNat ++ zeros 56

/-- The number of zero writes of a format: all that lies below the banks (R292). -/
abbrev formatUnits : Nat := 589824

/-- No write of a kind is outstanding. -/
def kpNone (k : Keeper) (why : KpWhy) : Bool := !k.out.any fun w => w.why = why

/-- The next class-3 write of a format or of an image, if one waits (R292, R301): an anchor and a pointer wait for the
acknowledgement of all before them. Seal stops them (R301). -/
def kpThird (s : Hw) : Option KpWrite :=
  let k := s.kp
  let w := fun a d y => some ⟨kpFreeTag k, 3, a, d, y, s.clk.core⟩
  if s.mc.mode = .seal then none
  else if k.formatting then
    if k.unit < formatUnits then w (64 * k.unit) (zeros 64) .zero
    else if k.unit = formatUnits && kpNone k .zero then w 0 (anchorBlock s) .anchor
    else none
  else match k.imageTo with
    | some b =>
      let img := imageBytes k.imageSet k.imageEpoch
      if 64 * k.unit < imageSize k.imageSet then w (bankAddr b + 64 * k.unit) ((img.drop (64 * k.unit)).take 64) .image
      else if !k.imagePtr && kpNone k .image then
        w (ptrAddr b) (pointerBlock (seqNext (pointerSeq s (!b))) k.imageEpoch img) .pointer
      else none
    | none => none

/-- Issue a class-3 write. -/
def kpIssueThird (s : Hw) (w : KpWrite) : Hw :=
  { s with kp := { s.kp with out := s.kp.out ++ [w], unit := s.kp.unit + 1, imagePtr := s.kp.imagePtr || w.why = .pointer } }

/-- Issue every waiting write that may go: the highest class first, and the oldest within a class (R299). -/
def kpPump : Nat → Hw → Hw
  | 0, s => s
  | n + 1, s =>
    match leastBy (·.cls) (s.kp.waiting.filter (kpReady s.kp)), (kpThird s).filter (kpReady s.kp) with
    | some w, none => kpPump n (kpIssueOne s w)
    | some w, some t => if w.cls < 3 then kpPump n (kpIssueOne s w) else kpPump n (kpIssueThird s t)
    | none, some t => kpPump n (kpIssueThird s t)
    | none, none => s

/-- Issue what may go now. -/
def kpIssue (s : Hw) : Hw := kpPump (s.kp.waiting.length + 32) s

/-- A new write joins the port's queue; a port that writes nothing drops it (R292, R304). -/
def kpWrite (s : Hw) (cls addr : Nat) (data : Bytes) (why : KpWhy) : Hw :=
  if kpLive s then
    kpIssue { s with kp := { s.kp with waiting := s.kp.waiting ++ [⟨0, cls, addr, data, why, 0⟩] } }
  else s

/-- A write is acknowledged: durable (R289), counted and timed (R305). -/
def kpDurable (s : Hw) (w : KpWrite) : Hw :=
  let t := Config.kpCycles (s.clk.core - w.issuedAt)
  let k := s.kp
  let k := { k with
    bytes := mwrite k.bytes w.addr w.data
    out := k.out.filter fun o => o.tag != w.tag
    writes := satInc k.writes
    worstAck := if k.worstAck.toNat < t then BitVec.ofNat 32 (min t (2 ^ 32 - 1)) else k.worstAck }
  let ext := s.recd.ext
  let ext := if s.recd.stopped then ext else match ext.ack with
    | some (m, _) => if m < t then { ext with ack := some (t, opSeconds s) } else ext
    | none => { ext with ack := some (t, opSeconds s) }
  let mc := s.mc
  let mc := if mc.mode = .seal then { mc with sealWrites := mc.sealWrites + 1 } else mc
  kpIssue { s with kp := k, recd := { s.recd with ext := ext }, mc := mc }

/-! ### Addresses (R291, R295) -/

/-- Slot index of a slot: narrow slots first, then wide ones; the two are consecutive slot IDs (R291). -/
def slotIndex (slot : Nat) : Nat := slot

/-- The lease entry of a narrow slot. -/
def leaseAddr (slot : Nat) : Nat := 0x200000 + 16 * slot
/-- A domain's counter record. -/
def domRecAddr (d : Nat) : Nat := 0x10000 + 64 * d
/-- A slot's directory entry. -/
def slotDirAddr (slot : Nat) : Nat := 0x50000 + 8 * slotIndex slot
/-- A tack directory entry: narrow 0-511, wide 512-543. -/
def tackDirAddr (t : Nat) : Nat := 0x100000 + 8 * t
/-- Place p of a slot in the main area. -/
def mainAddr (slot p : Nat) : Nat :=
  if slot < 0x10000 then 0x300000 + 256 * slot + 128 * p else 0x1300000 + 16512 * (slot - 0x10000) + 8256 * p
/-- Place p of a tack index. -/
def tackAddr (t p : Nat) : Nat :=
  if t < 512 then 0x102000 + 256 * t + 128 * p else 0x122000 + 16512 * (t - 512) + 8256 * p

/-- A directory entry as it reads. -/
def dirWord (s : Hw) (a : Nat) : Word := BitVec.ofNat 64 (leNat (mread s.kp.bytes a 8))

/-- Write a string of whole blocks, one 64 B write each (R437). -/
def kpWriteAll (s : Hw) (cls addr : Nat) (data : Bytes) (why : KpWhy) : Hw :=
  (List.range (ceilDiv data.length 64)).foldl
    (fun s i => kpWrite s cls (addr + 64 * i) ((data.drop (64 * i)).take 64) why) s

end Sys2Proof.Machine
end

