-- ==== Sys2Proof/Machine/Keys.lean ====
section
/-! DEFINITION. Key use: the checks of R28, the uses of R233 and R234, and the charging of usage counters within durable
leases (R149 to R154, R461), with the mirrored rules of R421 and R422. -/

namespace Sys2Proof.Machine

/-! ### Slots -/

/-- A slot's record. -/
def Hw.slot (s : Hw) (n : Nat) : Slot := tget {} s.keys.slots n
/-- Write a slot's record. -/
def Hw.setSlot (s : Hw) (n : Nat) (v : Slot) : Hw := { s with keys := { s.keys with slots := tset {} s.keys.slots n v } }
/-- The ID names a slot (R231). -/
def slotExists (n : Nat) : Bool := n < 0x10400
/-- A wide slot (R231). -/
def slotWide (n : Nat) : Bool := 0x10000 ≤ n
/-- A restore is running or yet to come, and has not passed the slot (R239, R252). -/
def slotPending (s : Hw) (n : Nat) : Bool := s.keys.allPending && s.keys.passedTo ≤ n && !s.keys.passed.contains n

/-- The algorithms with a counted unit (R233). -/
def countedAlg (a : Nat) : Bool := a = 1 || a = 3 || a = 4 || a = 5 || a = 6 || a = 7 || a = 0x10
/-- L, the lease size of an algorithm (R149). -/
def leaseSize (a : Nat) : Nat := if a = 3 then 2 ^ 32 else 2 ^ 16
/-- The usage limit of a slot (R154). -/
def usageLimit (v : Slot) : Nat :=
  if v.limit = 0 then (if v.alg = 0x10 then 2 ^ 48 else if v.alg = 3 then 2 ^ 44 else 2 ^ 32)
  else min v.limit.toNat (2 ^ 48)

/-! ### Uses (R122, R233, R234) -/

/-- Whether a slot's USES permit one of the uses asked, numbered as in R122; no use asked passes (R194). -/
def usesOk (v : Slot) (uses : List Nat) : Bool := uses.isEmpty || uses.any fun u => bit v.uses (u - 1)

/-- The block that holds a slot's key under the forwarding ranges of the active set, when it is another one (R417). The
lowest-numbered enabled range decides. -/
def forwardTo (s : Hw) (slot : Nat) : Option Nat :=
  match (List.range 16).find? fun n =>
    let w := cfgWord s.active (0xB100 + 8 * n)
    bit w 63 && fld w 0 17 ≤ slot && slot ≤ fld w 32 17 with
  | some n =>
    let b := fld (cfgWord s.active (0xB100 + 8 * n)) 56 3
    if b = s.hns.block.toNat then none else some b
  | none => none

/-- Checks 1 to 4 of R28 for a use by domain d under a configuration set: the status of the first that fails. -/
def keyCheck14 (s : Hw) (cfg : CfgSet) (d slot : Nat) : Option (BitVec 8) :=
  if !slotExists slot || !domSlotOk cfg d slot then some stKeyDenied
  else if (forwardTo s slot).isSome && !domFlag cfg d 5 then some stKeyDenied
  else if slotPending s slot then some stKeyPending
  else match (s.slot slot).st with
    | .poisoned => some stDataUncorrected
    | .full => if (s.slot slot).domain.toNat = d then none else some stKeyDenied
    | _ => some stKeyEmpty

/-- What a key use asks of its slot (R234). -/
structure KeyAsk where
  uses : List Nat
  algs : List Nat
  words : Option Nat      -- PK_WORDS that the slot must record
  secret : Bool           -- the use needs a private form
  enc : Bool              -- the use counts as encryption (R136)
deriving DecidableEq, Repr

/-- The checks of R28 in order (R28, R234). -/
def keyCheck (s : Hw) (cfg : CfgSet) (d slot : Nat) (k : KeyAsk) : Option (BitVec 8) :=
  match keyCheck14 s cfg d slot with
  | some st => some st
  | none =>
    let v := s.slot slot
    if !usesOk v k.uses || !k.algs.contains v.alg.toNat || (k.secret && v.isPublic) ||
        (match k.words with | some w => v.pkWords.toNat != w | none => false) then some stKeyDenied
    else if k.enc && v.spent then some stKeySpent
    else none

/-- A refused key use is logged (R259). -/
def keyRefused (s : Hw) : Hw := note s 0x81 7

/-! ### Leases (R150, R236, R298, R421, R422) -/

/-- The rules of a mirror pair hold (R420, R421). -/
def mirrorRules (s : Hw) : Bool := s.hns.mirror != .none

/-- COMMIT of a key (R248): KMAC256 of the slot ID and the algorithm under the stored form. -/
def keyCommit (slot : Nat) (alg : BitVec 8) (key : Bytes) : Bytes :=
  kmac 136 key (ascii "KLN commit") (beBytes 4 slot ++ [alg]) 32

/-- The bytes of a lease entry (R298). -/
def leaseEntry (slot : Nat) (v : Slot) (endUnits : Nat) : Bytes :=
  leBytes 8 (endUnits % 2 ^ 49) ++ (keyCommit slot v.alg v.key).take 4 ++ zeros 4

/-- Rank of this block in its pair: 0 leads, 1 follows (R420, R422). -/
def mirrorRank (s : Hw) : Nat :=
  match (List.range 8).find? fun b => bit (cfgWord s.active (0xB200 + 64 * b)) 0 && bit (cfgWord s.active (0xB200 + 64 * b)) 1 with
  | some b => if s.hns.block.toNat < b then 0 else 1
  | none => 0

/-- The lease that a block takes on its own in JOINING or ALONE: the first of its parity, 4 past the pair END at entry, and
past every lease the entry records (R422). -/
def aloneLease (s : Hw) (slot : Nat) (v : Slot) : Nat :=
  let l := leaseSize v.alg.toNat
  let k := max (tget (v.endLease / l) s.hns.k0 slot + 4) (v.endLease / l)
  if k % 2 = mirrorRank s then k else k + 1

/-- Write the lease entry that makes the lease ending at `e` units durable to a slot. -/
def writeLease (s : Hw) (slot e : Nat) : Hw :=
  let s := s.setSlot slot { s.slot slot with req := true, reqEnd := e, endLease := e }
  kpWrite s 1 (leaseAddr slot) (leaseEntry slot (s.slot slot) e) (.lease [slot])

/-- A link. -/
def Hw.link (s : Hw) (k : Nat) : Link := tget {} s.hns.links k
/-- Change a link. -/
def Hw.modLink (s : Hw) (k : Nat) (f : Link → Link) : Hw := { s with hns := { s.hns with links := tmod {} s.hns.links k f } }

/-- A link's waiting flits take their SEQs while its buffer of 512 has room (R407). -/
def linkPump (s : Hw) (k : Nat) : Hw :=
  let l := s.link k
  let (mine, rest) := s.hns.outbox.partition fun m => m.1 = k
  let now := mine.take (512 - l.buffer.length)
  let s := { s with hns := { s.hns with outbox := rest ++ mine.drop now.length } }
  s.modLink k fun l => { l with
    buffer := l.buffer ++ now.mapIdx fun i m => (l.txSeq + BitVec.ofNat 12 i, m.2)
    txSeq := l.txSeq + BitVec.ofNat 12 now.length }

/-- Hand a message to a link, in flits of 32 B: its KIND (R406) and its data. A link that is not UP carries nothing, and no
SECURE flit passes without a link key (R413). -/
def linkSend (s : Hw) (k : Nat) (kind : BitVec 4) (data : Bytes) : Hw :=
  if (s.link k).st != .up || (kind = 7 && !(s.link k).keyed) then s
  else
    let flits := (List.range (max 1 (ceilDiv data.length 32))).map fun i => (k, kind, (data.drop (32 * i)).take 32)
    let s := { s with hns := { s.hns with outbox := s.hns.outbox ++ flits } }
    linkPump s k

/-- Seal a message with key material as one AES-256-GCM message under the direction's link key, and send it (R414). The IV is
the count of the messages before it (log 162). -/
def secureSend (s : Hw) (k : Nat) (data : Bytes) : Hw :=
  let l := s.link k
  if l.st != .up || !l.keyed then s
  else
    let iv := beBytes 12 l.txSecure
    let c := gcmOut l.keyTx iv data
    linkSend (s.modLink k fun l => { l with txSecure := l.txSecure + 1 }) k 7 (c ++ gcmTag l.keyTx iv [] c)

/-- Hand a message to the mirror link, PL7 (R406, R421): MIRROR flits. -/
def mirrorSend (s : Hw) (data : Bytes) : Hw := linkSend s 7 6 data

/-- A grant of the lease that ends at `e`: to the block that receives it, or to the leader (R421, log 41). -/
def grantMessage (slot e : Nat) (toPeer : Bool) : Bytes := 2 :: leBytes 8 slot ++ leBytes 8 e ++ [if toPeer then 1 else 0]

/-- Request the lease beyond the durable end, at most one ahead (R150, R236, R421, R422). -/
def requestLease (s : Hw) (slot : Nat) : Hw :=
  let v := s.slot slot
  let l := leaseSize v.alg.toNat
  if v.req || 2 ≤ v.ahead || !countedAlg v.alg.toNat || slotWide slot || !kpLive s then s
  else match s.hns.mirror with
    | .none => writeLease s slot ((v.counter / l + v.ahead + 1) * l)
    | .mirrored =>
      if mirrorRank s = 0 then
        let s := writeLease s slot (v.endLease + l)
        mirrorSend s (grantMessage slot (v.endLease + l) false)
      else mirrorSend (s.setSlot slot { v with req := true }) (1 :: leBytes 8 slot)
    | .joining | .alone => writeLease s slot ((aloneLease s slot v + 1) * l)

/-! ### Charges (R150, R151, R461) -/

/-- How a charge can go at once. -/
inductive Charge where
  | granted (first : Nat) (v : Slot)
  | spent
  | wait
deriving DecidableEq, Repr

/-- A charge of u units against a slot alone (R150, R236). -/
def chargeLone (v : Slot) (u : Nat) (xts : Bool) : Charge :=
  let l := leaseSize v.alg.toNat
  let e := (v.counter / l + v.ahead) * l
  if !xts && usageLimit v < v.counter + u then .spent
  else if e < v.counter + u then .wait
  else
    let c := v.counter + u
    .granted v.counter { v with counter := c, ahead := e / l - c / l, spent := v.spent || c = usageLimit v }

/-- The counter of a mirrored slot after it reaches `c` in its current lease (R421). -/
def mirrorMove (v : Slot) (c : Nat) : Slot :=
  if c % leaseSize v.alg.toNat = 0 then
    match v.owned with
    | n :: r => { v with counter := n * leaseSize v.alg.toNat, ahead := v.ahead - 1, owned := r }
    | [] => { v with counter := c, ahead := 0 }
  else { v with counter := c }

/-- A charge under the rules of a mirror pair (R421). -/
def chargeMirror (v : Slot) (u : Nat) (xts : Bool) : Charge :=
  let l := leaseSize v.alg.toNat
  let mark := fun (w : Slot) c => { w with spent := w.spent || c = usageLimit v }
  if !xts && usageLimit v < v.counter + u then .spent
  else if v.ahead = 0 then .wait
  else if v.counter + u ≤ (v.counter / l + 1) * l then
    .granted v.counter (mark (mirrorMove v (v.counter + u)) (v.counter + u))
  else match v.owned with
    | n :: r =>
      if !xts && usageLimit v < n * l + u then .spent
      else if l < u then .wait
      else .granted (n * l) (mark (mirrorMove { v with ahead := v.ahead - 1, owned := r } (n * l + u)) (n * l + u))
    | [] => .wait

/-- One charge attempt. -/
def chargeTry (s : Hw) (v : Slot) (u : Nat) (xts : Bool) : Charge :=
  if mirrorRules s then chargeMirror v u xts else chargeLone v u xts

/-- The size of the next part of an XTS job with `left` bytes uncharged (R461). -/
def xtsPart (s : Hw) (v : Slot) (left : Nat) : Nat :=
  let l := leaseSize v.alg.toNat
  let room :=
    if mirrorRules s then (if v.ahead = 0 then 0 else (v.counter / l + 1) * l - v.counter)
    else (v.counter / l + v.ahead) * l - v.counter
  min left (if room = 0 then l else room)

/-- The answer to one charge: its first unit, or that the slot is spent, or that it waits. -/
inductive Charged where
  | first (n : Nat)
  | spent
  | waits
deriving DecidableEq, Repr

/-- Charge u units to a slot now, in its turn (R150): a charge behind a waiting one of the slot waits (R151). A slot whose
algorithm counts nothing charges nothing. -/
def chargeNow (s : Hw) (slot u : Nat) (xts behind : Bool) : Charged × Hw :=
  let v := s.slot slot
  if !countedAlg v.alg.toNat || slotWide slot then (.first 0, s)
  else if behind then (.waits, s)
  else match chargeTry s v u xts with
    | .spent => (.spent, s.setSlot slot { v with spent := true })
    | .wait => (.waits, requestLease s slot)
    | .granted n w =>
      let s := s.setSlot slot w
      let l := leaseSize w.alg.toNat
      (.first n, if w.counter / l * l + l / 2 ≤ w.counter then requestLease s slot else s)

/-- A charge of this slot is waiting. -/
def chargeQueued (s : Hw) (slot : Nat) : Bool := s.keys.charges.any fun w => w.slot.toNat = slot

/-- A job's charge joins the waiting charges (R151). -/
def chargeWait (s : Hw) (slot : BitVec 17) (key units : Nat) : Hw :=
  { s with keys := { s.keys with charges := s.keys.charges ++ [⟨slot, key, units, s.clk.core⟩] } }

/-- Spent for R153 and check 6: reserved bytes count as charged (R461). -/
def xtsReserve (s : Hw) (slot n : Nat) : Option Hw :=
  let v := s.slot slot
  if usageLimit v < v.counter + v.reserved + n then none
  else some (s.setSlot slot { v with
    reserved := v.reserved + n, spent := v.spent || v.counter + v.reserved + n = usageLimit v })

/-! ### The DRBG (R195, R244) -/

/-- A reseed of the DRBG is due: after 2^20 requests, or 1 s after the last (R244). -/
def drbgDue (s : Hw) : Bool :=
  s.keys.drbgDue || 2 ^ 20 ≤ s.keys.drbgRequests || s.keys.drbgReseedAt + 1000000 * clkPerUs s ≤ s.clk.core

/-- A request of the DRBG can be served: it fails while a reseed is due and the entropy source is fenced (R244). -/
def drbgServes (s : Hw) : Bool := !(drbgDue s && s.fenced 0x84)

/-- One generate request for n bytes. -/
def drbgBytes (s : Hw) (n : Nat) : Bytes × Hw :=
  let (b, d) := s.keys.drbg.generate n
  (b, { s with keys := { s.keys with drbg := d, drbgRequests := s.keys.drbgRequests + 1 } })

/-- Its personalization string: KVER, the harness block number and TGEN (R244). -/
def drbgPersonal (s : Hw) : Bytes := leBytes 8 kver.toNat ++ [s.hns.block.setWidth 8, s.keys.tgen.setWidth 8]

/-- The DRBG takes 384 bits of entropy, a free value, on top of a working state: instantiated or reseeded (R244). Two words of
the entropy source carry them. -/
def drbgSeeded (s : Hw) (from_ : Drbg) (personal : Bytes) : Hw :=
  let (k, s) := drawFree s
  { s with
    sec := { s.sec with entOutputs := satInc s.sec.entOutputs 2 }
    keys := { s.keys with
      drbg := from_.seed (mkBytes 48 (Config.freeByte k)) personal
      drbgReseedAt := s.clk.core, drbgRequests := 0, drbgDue := false } }

/-- The DRBG reseeds from the entropy source, which serves unless it is fenced or under its start-up tests (R244, R397). -/
def drbgReseed (s : Hw) : Hw :=
  if s.fenced 0x84 || !s.sec.entHealthy then s else drbgSeeded s s.keys.drbg []

/-- The start-up tests pass (R397). In bring-up the DRBG is instantiated (R244, R327 step 3), and so it is where a zeroization
has cleared it; elsewhere its state stands, and a reseed that waited for the tests is made. -/
def startupPass (s : Hw) : Hw :=
  if !s.sec.entStartup then s
  else
    let s := note { s with
      sec := { s.sec with entStartup := false, entHealthy := true, entSources := 15 }
      mc := { s.mc with bring := { s.mc.bring with entropyDone := true } } } 0x84 1
    if s.mc.mode = .cold || s.keys.drbg = {} then drbgSeeded s {} (drbgPersonal s)
    else if drbgDue s && !s.fenced 0x84 then drbgSeeded s s.keys.drbg []
    else s

end Sys2Proof.Machine
end

