-- ==== Sys2Proof/Machine/CipherJob.lean ====
section
/-! DEFINITION. Cipher jobs: the checks of R116, R129, R130 and R156 at issue, the start of a job (R118, R131, R147 to
R157, R461), and the output functions of the modes (R129 to R137). -/

namespace Sys2Proof.Machine

/-! ### The block as issued (R112, R115, R116, R129, R130, R132, R134, R156) -/

/-- A mode code of R116. -/
def modeKnown (m : Nat) : Bool := (1 ≤ m && m ≤ 7) || m = 0x10

/-- A mode that takes an IV that Kalnader forms, and additional data. -/
def aeadMode (m : Nat) : Bool := m = 1 || m = 2 || m = 0x10

/-- Reserved fields and values of a cipher block; DU_LOG2 has reserved values whatever the mode (R116). -/
def cbReserved (b : Block) : Bool :=
  (1 ≤ cbDu b && cbDu b ≤ 3) || 24 < cbDu b ||
  bit (wordOf b 0) 15 || fld (wordOf b 0) 18 14 != 0 || fld (wordOf b 0) 49 15 != 0 || fld (wordOf b 6) 5 27 != 0 ||
    wordOf b 7 != 0

/-- A range that may lie in scratch is badly formed. -/
def rgBad (r : Word) : Bool := rgReserved r || !rgScrOk r
/-- A payload range is badly formed (R14, R115). -/
def rgPayloadBad (r : Word) : Bool := rgReserved r || rgScr r

/-- An IV range is read: CTR and CBC, and an AEAD decryption with EXTIV. -/
def ivRanged (b : Block) : Bool :=
  pbFirst b && (cbMode b = 4 || cbMode b = 5 || (aeadMode (cbMode b) && cbDir b && cbExtiv b))

/-- The length of the IV range of a mode. -/
def ivLen (m : Nat) : Nat := if m = 4 || m = 5 then 16 else 12

/-- TAG LEN lies in the column of R129. -/
def tagLenOk (m : Nat) (dir : Bool) (n : Nat) : Bool :=
  match m with
  | 1 | 2 => if dir then 12 ≤ n && n ≤ 16 else n = 16
  | 6 => 8 ≤ n && n ≤ 16
  | 7 => n = 8
  | 0x10 => n = 16
  | _ => n = 0

/-- SRC LEN of a job that does not close its stream (R130). -/
def partLenOk (m n : Nat) : Bool :=
  if m = 1 || m = 2 || m = 4 || m = 0x10 then n % 64 = 0 else if m = 5 || m = 6 then n % 16 = 0 else true

/-- The data units of an XTS job are long enough (R132). -/
def xtsOk (du n : Nat) : Bool :=
  if du = 0 then 16 ≤ n
  else 4 ≤ du && du ≤ 24 && (n = 0 || (16 ≤ n && (n % 2 ^ du = 0 || 16 ≤ n % 2 ^ du)))

/-- The same range. -/
def rgSame (a b : Word) : Bool := rgHnd a = rgHnd b && rgOff a = rgOff b && rgLen a = rgLen b

/-- What makes a cipher block DESCRIPTOR_INVALID at issue whatever its stream; `rel` is the descriptor's STREAM_REL flag. -/
def ciphBad (b : Block) (rel : Bool) : Bool :=
  let m := cbMode b
  let n := rgLen (pbSrc b)
  !modeKnown m || cbReserved b || rgPayloadBad (pbSrc b) || rgPayloadBad (pbDst b) || rgBad (cbAad b) ||
    (pbLast b && (rgBad (cbTag b) || !tagLenOk m (cbDir b) (rgLen (cbTag b)))) ||
    (ivRanged b && (rgBad (cbIvw b) || rgLen (cbIvw b) != ivLen m)) ||
    (!pbFirst b && rgLen (cbAad b) != 0) || (!pbLast b && !partLenOk m n) || (m = 7 && !(pbFirst b && pbLast b)) ||
    rgLen (pbDst b) != (if m = 2 || m = 6 then 0 else n) ||
    (rgOverlap (pbSrc b) (pbDst b) && !rgSame (pbSrc b) (pbDst b)) ||
    (m = 5 && n % 16 != 0) || (m = 3 && !xtsOk (cbDu b) n) ||
    (m = 7 && cbRel b) || (taggedMode m && cbRel b && !rel)

/-- The job's fields match the opening job of its stream (R117). -/
def ciphMatches (v : CipherStream) (b : Block) : Bool :=
  v.mode.toNat = cbMode b && v.dir = cbDir b && v.slot = pbSlot b && v.rel = cbRel b

/-- The stream that stands under a STREAM number: the one open for issue. -/
def openCs (x : Ctx) (n : Nat) : Option (Nat × CipherStream) := x.cstreams.find? fun e => e.2.num = n && e.2.isOpen

/-! ### Bench and pair state -/

/-- Jobs passed to a pair and not ended: its queue (R460). -/
def pairQueue (s : Hw) (p : Nat) : Nat :=
  (s.jobs.filter fun e => match e.2.op with
    | .ciph b => pairOf (benchOf (e.1 / 16)) (cbMode b) = p && e.2.phase != .after && e.2.phase != .scrubbing
    | _ => false).length

/-- A pair cannot take a job: fenced, or stopped for entropy (R138, R142). -/
def pairRefuses (s : Hw) (p : Nat) : Option (BitVec 8) :=
  if s.out (pairUnit p) then some stEngineFenced else if (s.pair p).entStop then some stEntropyFail else none

/-! ### The start of a job -/

/-- The algorithm code that a cipher mode asks of its slot (R233). -/
def modeAlg (m : Nat) : Nat := if m = 2 then 1 else m

/-- An AEAD encryption holds the number whose draw took the counter exactly to the limit: the slot is spent, and the job of
that unit completes normally (R153). -/
def lastUnit (s : Hw) (c : Nat) (b : Block) : Bool :=
  aeadMode (cbMode b) && !cbDir b &&
    match tget none (s.ctx c).holders (cbNhold b) with
    | some (slot, n) => slot = pbSlot b && n.toNat + 1 = usageLimit (s.slot slot.toNat)
    | none => false

/-- What a cipher job asks of its slot (R136, R234); the holder of the last unit is not refused for spending. -/
def ciphAsk (b : Block) (last : Bool) : KeyAsk :=
  { uses := [if cbMode b = 7 then 6 else if cbDir b then 2 else 1], algs := [modeAlg (cbMode b)], words := none
    secret := true, enc := !cbDir b && !last }

/-- The stored form has a length that the mode takes (R129). -/
def keyLenOk (m n : Nat) : Bool :=
  if m = 3 then n = 32 || n = 64 else if m = 0x10 then n = 32 else n = 16 || n = 24 || n = 32

/-- The instance field of this block's pair (R147). -/
def nonceField (s : Hw) (bench m : Nat) : Nat := s.hns.block.toNat * 256 + (if m = 0x10 then 16 else 0) + bench

/-- The IV of an AEAD encryption (R147). -/
def aeadIv (field number : Nat) : Bytes := beBytes 4 field ++ beBytes 8 number

/-- Blocks of 16 B. -/
def blocks16 (n : Nat) : Nat := ceilDiv n 16

/-- A job is refused for its mode's limit: event 0x06 (R131, R168). -/
def modeLimit (s : Hw) (p : Nat) : Hw := note s (pairUnit p) 6

/-- A mode's limit on a stream of `total` bytes (R131). -/
def overLimit (m : Nat) (iv : Bytes) (total : Nat) : Bool :=
  if m = 1 then 68719476704 < total
  else if m = 4 then 2 ^ 128 < beNat iv + blocks16 total
  else if m = 7 then 8192 < total
  else if m = 0x10 then (2 ^ 32 - 1) * 64 < total
  else false

/-- The buffers that a hold reserves (R157). -/
def holdNeed (x : Ctx) : Nat := ceilDiv x.length 4096

/-- A stream holds its plaintext until its tag is decided (R156, R157). -/
def CipherStream.holds (v : CipherStream) : Bool := v.dir && taggedMode v.mode.toNat && !v.rel
/-- A stream releases plaintext before its tag (R156, R159). -/
def CipherStream.releases (v : CipherStream) : Bool := v.dir && taggedMode v.mode.toNat && v.rel

/-- A FIRST job's hold cannot be reserved: QUOTA at issue (R33, R157). -/
def holdOver (s : Hw) (c : Nat) (b : Block) : Bool :=
  let x := s.ctx c
  pbFirst b && cbDir b && taggedMode (cbMode b) && !cbRel b &&
    (1024 < holdNeed x || domHold (s.cfgOf c) x.domain < holdCount s x.domain + holdNeed x)

/-- The checks that a FIRST job meets when it is passed to its pair (R24, R28, R113, R131, R132), in this order: domain flags,
key checks, lengths. -/
def ciphFirstCheck (s : Hw) (c : Nat) (b : Block) : Option (BitVec 8) × Hw :=
  let x := s.ctx c
  let cfg := s.cfgOf c
  let m := cbMode b
  let v := s.slot (pbSlot b).toNat
  if taggedMode m && cbRel b && !domFlag cfg x.domain 1 then (some stDescriptorInvalid, s)
  else if aeadMode m && cbDir b && cbExtiv b && !domFlag cfg x.domain 2 then (some stDescriptorInvalid, s)
  else match keyCheck s cfg x.domain (pbSlot b).toNat (ciphAsk b (lastUnit s c b)) with
    | some st => (some st, keyRefused s)
    | none =>
      if !keyLenOk m v.key.length then (some stKeyDenied, s)
      else if m = 3 && v.key.take (v.key.length / 2) = v.key.drop (v.key.length / 2) then (some stKeyDenied, s)
      else if overLimit m (if m = 4 && rgInside x (cbIvw b) then rgRead s c (cbIvw b) else []) x.length ||
          (aeadMode m && 4194304 < rgLen (cbAad b)) then
        (some stInputRange, modeLimit s (pairOf (benchOf c) m))
      else (none, s)

/-- The range of a job's additional data, when its mode takes any (R116). -/
def ciphAad (b : Block) : Word := if aeadMode (cbMode b) then cbAad b else 0

/-- The ranges of a job lie inside their handles (R74). -/
def ciphInside (x : Ctx) (b : Block) : Bool :=
  rgInside x (pbSrc b) && rgInside x (pbDst b) && rgInside x (ciphAad b) && (!pbLast b || rgInside x (cbTag b)) &&
    (!ivRanged b || rgInside x (cbIvw b))

/-- What a job reads before its first stitch, beside its input: additional data, an IV, the C0 of an unwrap. -/
def ciphReads (b : Block) : List Word :=
  [ciphAad b] ++ (if ivRanged b then [cbIvw b] else []) ++ (if cbMode b = 7 && cbDir b then [cbTag b] else [])

/-- One of those ranges lies on a poisoned buffer (R286). -/
def ciphPoisoned (s : Hw) (c : Nat) (b : Block) : Bool := (ciphReads b).any (rgPoisoned s c)

/-- The IV or tweak with which a FIRST job opens its stream, and the context once a holder is consumed; none when the
holder does not serve (R118, R133, R147, R148). -/
def ciphIv (s : Hw) (c : Nat) (b : Block) : Option (Bytes × Ctx) :=
  let x := s.ctx c
  let m := cbMode b
  if m = 4 || m = 5 then some (rgRead s c (cbIvw b), x)
  else if aeadMode m then
    if cbDir b then
      if cbExtiv b then some (rgRead s c (cbIvw b), x)
      else some (beBytes 4 (fld (wordOf b 6) 32 32) ++ beBytes 8 (cbIvw b).toNat, x)
    else match tget none x.holders (cbNhold b) with
      | some (slot, n) =>
        if slot = pbSlot b then
          some (aeadIv (nonceField s (benchOf c) m) n.toNat, { x with holders := tset none x.holders (cbNhold b) none })
        else none
      | none => none
  else some ([], x)

/-- A job of a stream is ready for its pair: held or released ranges are marked (R157, R159), and the pair may stitch. -/
def ciphReady (s : Hw) (key : Nat) (j : Job) (b : Block) : Hw :=
  let c := key / 16
  let v := (s.ctx c).cs j.stream
  let keep := v.holds || v.releases
  let s := s.modCtx c fun x =>
    let w := x.cs j.stream
    { x.setCs j.stream { w with
        started := true
        undecided := w.undecided || keep
        held := if keep && rgLen (pbDst b) != 0 then w.held ++ [pbDst b] else w.held
        heldBytes := if w.holds then w.heldBytes + rgLen (pbDst b) else w.heldBytes } with
      held := x.held || w.holds }
  s.setJob key { j with phase := .running, started := true }

/-- A cipher stream has jobs issued before a point of the issue order that are not done. -/
def csOlder (s : Hw) (c n issued : Nat) : Bool := (s.jobsOf c).any fun e => e.2.ofCs n && e.2.issued < issued

/-- A later job of a cipher stream has failed: what was issued before it runs on (R117). -/
def endingCs (s : Hw) (c n : Nat) (st : BitVec 8) : Hw :=
  s.modCtx c fun x => x.setCs n { x.cs n with ending := some ((x.cs n).ending.getD st) }

/-- A job of a cipher stream fails: the stream closes, and the jobs from this one on complete with its status; jobs before it
that are not done run on (R117). -/
def ciphFail (s : Hw) (key : Nat) (j : Job) (st : BitVec 8) : Hw :=
  let c := key / 16
  if csOlder s c j.stream j.issued then
    endJobs (endingCs s c j.stream st) c (fun k => k.ofCs j.stream && j.issued ≤ k.issued) st
  else failCs s c j.stream st (some (key % 16))

/-- The charge of an XTS job's next part, when one is due: the part's bytes join the charged ones, or the job waits
(R461). -/
def xtsCharge (s : Hw) (key : Nat) (j : Job) (b : Block) (behind : Bool) : Hw :=
  let slot := (pbSlot b).toNat
  let part := xtsPart s (s.slot slot) (j.span - j.charged)
  match chargeNow s slot part true behind with
  | (.first _, s) =>
    let s := s.setSlot slot { s.slot slot with reserved := (s.slot slot).reserved - part }
    s.setJob key { j with phase := .running, started := true, charged := j.charged + part }
  | (.spent, s) => ciphFail s key j stKeySpent
  | (.waits, s) => (chargeWait s (pbSlot b) key part).setJob key { j with phase := .charging, since := s.clk.core }

/-- The charge with which an encrypting job starts (R149, R461); a job that charges nothing is ready at once. -/
def ciphCharge (s : Hw) (key : Nat) (j : Job) (b : Block) : Hw :=
  let m := cbMode b
  let slot := (pbSlot b).toNat
  if cbDir b then ciphReady s key j b
  else if m = 3 then
    if rgLen (pbSrc b) = 0 then ciphReady s key j b
    else match xtsReserve s slot (rgLen (pbSrc b)) with
      | none => ciphFail (s.setSlot slot { s.slot slot with spent := true }) key j stKeySpent
      | some s =>
        let j := { j with span := rgLen (pbSrc b), charged := 0 }
        let s := ciphReady s key j b
        xtsCharge s key { j with phase := .running, started := true } b (chargeQueued s slot)
  else if pbFirst b && (m = 4 || m = 5 || m = 6 || m = 7) then
    match chargeNow s slot 1 false (chargeQueued s slot) with
    | (.first _, s) => ciphReady s key j b
    | (.spent, s) => ciphFail s key j stKeySpent
    | (.waits, s) => (chargeWait s (pbSlot b) key 1).setJob key { j with phase := .charging, since := s.clk.core }
  else ciphReady s key j b

/-- The job that is next in its stream starts (R131, R143, R157): it is refused, or charged and made ready. -/
def ciphStart (s : Hw) (key : Nat) (j : Job) (b : Block) : Hw :=
  let c := key / 16
  let x := s.ctx c
  let v := x.cs j.stream
  let m := cbMode b
  if x.mismatch then ciphFail s key j stLengthMismatch
  else if !ciphInside x b then ciphFail s key j stWindowFault
  else if ciphPoisoned s c b then ciphFail s key j stDataUncorrected
  else if m = 7 && !(16 ≤ rgLen (pbSrc b) && rgLen (pbSrc b) ≤ 8192 && rgLen (pbSrc b) % 8 = 0) then
    ciphFail (modeLimit s (pairOf (benchOf c) m)) key j stInputRange
  else if pbFirst b then
    match ciphIv s c b with
    | none => ciphFail s key j stDescriptorInvalid
    | some (iv, x') =>
      let k := s.slot (pbSlot b).toNat
      let s := s.setCtx c (x'.setCs j.stream { v with
        started := true, key := k.key, iv := iv, msg := []
        aad := if m = 7 && cbDir b then rgRead s c (cbTag b) else rgRead s c (ciphAad b) })
      if v.holds && 4096 * v.holdBufs < rgLen (pbDst b) then ciphFail s key j stQuota
      else if overLimit m iv (rgLen (pbSrc b)) then ciphFail (modeLimit s (pairOf (benchOf c) m)) key j stInputRange
      else ciphCharge s key j b
  else if overLimit m v.iv (v.msg.length + rgLen (pbSrc b)) then
    ciphFail (modeLimit s (pairOf (benchOf c) m)) key j stInputRange
  else if v.holds && 4096 * v.holdBufs < v.heldBytes + rgLen (pbDst b) then ciphFail s key j stQuota
  else ciphCharge s key j b

/-- Start the next job of a stream once it has been passed to the pair (R117). -/
def ciphAdvance (s : Hw) (c n : Nat) : Hw :=
  match csHead s c n with
  | some (key, j) =>
    match j.op with
    | .ciph b => if j.phase = .queued then ciphStart s key j b else s
    | _ => s
  | none => s

/-- Work of a domain arrives at a cipher or stream pair (R34). -/
def pairArrive (s : Hw) (p d : Nat) : Hw :=
  let had := s.jobs.any fun e => match e.2.op with
    | .ciph b => e.2.phase != .after && pairOf (benchOf (e.1 / 16)) (cbMode b) = p && (s.ctx (e.1 / 16)).domain = d
    | _ => false
  s.modPair p fun v => { v with arb := v.arb.arrive d had }

/-- A cipher job is passed to its pair (R24, R28, R113, R143). -/
def ciphPass (s : Hw) (key : Nat) (j : Job) (b : Block) : Hw :=
  let c := key / 16
  match pairRefuses s (pairOf (benchOf c) (cbMode b)) with
  | some st => ciphFail s key j st
  | none =>
    let (st, s) := if pbFirst b then ciphFirstCheck s c b else (none, s)
    match st with
    | some st => ciphFail s key j st
    | none =>
      let s := pairArrive s (pairOf (benchOf c) (cbMode b)) (s.ctx c).domain
      ciphAdvance (s.setJob key { j with phase := .queued, seq := s.jobSeq }) c j.stream

/-! ### Output of the modes (R129, R132 to R135) -/

/-- The data-unit size of an XTS job (R132). -/
def xtsUnit (b : Block) : Nat := if cbDu b = 0 then max 1 (rgLen (pbSrc b)) else 2 ^ cbDu b

/-- The cipher input of a stream with more bytes behind those it has consumed. -/
def CipherStream.input (v : CipherStream) (more : Bytes := []) : CipherIn :=
  { mode := v.mode, dir := v.dir, key := v.key, iv := v.iv, aad := v.aad, msg := v.msg ++ more }

/-- Output bytes pos to pos + n - 1 of a job whose source is `src`, with the bytes of earlier jobs in the stream. Data unit u
of an XTS job has the tweak IVW + u, and is one message (R132). -/
def ciphOut (b : Block) (v : CipherStream) (src : Bytes) (pos n : Nat) : Bytes :=
  let out := if cbMode b = 3 then
      ((pieces (xtsUnit b) src).mapIdx fun u unit =>
        cipherOutput { mode := 3, dir := cbDir b, key := v.key, iv := leBytes 16 ((cbIvw b).toNat + u), aad := [], msg := unit }).flatten
    else (cipherOutput (v.input src)).drop v.msg.length
  (out.drop pos).take n

/-- Whether the tag of a decryption or a verification is right (R129, R134, R135); C0 of an unwrap stands in `aad`. -/
def ciphTagOk (v : CipherStream) (tag : Bytes) : Bool :=
  if v.mode = 7 then unwrapOk v.key v.aad v.msg else tag = (cipherTag v.input).take tag.length

/-- The tag, MAC or C0 of a stream, n bytes (R129, R134, R135). -/
def ciphTag (v : CipherStream) (n : Nat) : Bytes := (cipherTag v.input).take n

/-- A cipher job is a verdict ticket (R116, R134, R135). -/
def ciphVerdict (b : Block) : Bool :=
  pbLast b && cbDir b && (taggedMode (cbMode b) || cbMode b = 2 || cbMode b = 6)

/-- A job's LAST part decides or writes a tag (R155, R158). -/
def ciphTagged (b : Block) : Bool :=
  pbLast b && (taggedMode (cbMode b) || cbMode b = 2 || cbMode b = 6)

/-- The next job of a stream starts; a stream that fails behind this job and has none left fails now (R117). -/
def ciphNext (s : Hw) (c n : Nat) : Hw :=
  match ((s.ctx c).cs n).ending, csHead s c n with
  | some st, none => failCs s c n st none
  | _, _ => ciphAdvance s c n

/-- A job ends OK: its byte count is its result, and a LAST job closes its stream; the next job starts (R116, R117). -/
def ciphEnd (s : Hw) (key : Nat) (j : Job) (b : Block) : Hw :=
  let c := key / 16
  let s := finish s key stOk (BitVec.ofNat 64 (rgLen (pbDst b)))
  if pbLast b then closeCs s c j.stream else ciphNext s c j.stream

/-! ### Charges that waited (R150, R151) -/

/-- A draw succeeds: the holder takes the number, and the record's INVOCATION its first (R118). -/
def ndrawDone (s : Hw) (key : Nat) (slot : BitVec 17) (holder n : Nat) : Hw :=
  let s := s.modCtx (key / 16) fun x => { x with
    holders := tset none x.holders holder (some (slot, BitVec.ofNat 64 n))
    invocation := match x.invocation with | some i => some i | none => some (BitVec.ofNat 64 n) }
  finish s key stOk (BitVec.ofNat 64 n)

/-- The job of a charge that succeeds goes on. -/
def chargeGrant (s : Hw) (key n units : Nat) : Hw :=
  match s.job key with
  | some j => match j.op with
    | .ndraw slot h => ndrawDone s key slot h n
    | .ciph b =>
      if cbMode b = 3 then
        let v := s.slot (pbSlot b).toNat
        (s.setSlot (pbSlot b).toNat { v with reserved := v.reserved - units }).setJob key
          { j with phase := .running, charged := j.charged + units }
      else ciphReady s key j b
    | _ => s
  | none => s

/-- The job of a charge that fails ends with a status: a stream fails, a draw ends (R151, R153). -/
def chargeFail (s : Hw) (key : Nat) (st : BitVec 8) : Hw :=
  let s := { s with keys := { s.keys with charges := s.keys.charges.filter fun w => w.key != key } }
  match s.job key with
  | some j => match j.op with
    | .ciph _ => ciphFail s key j st
    | _ => finishFree s key st
  | none => s

/-- Serve the waiting charges of a slot in the order in which they arrived, until one must wait (R151). -/
def serveCharges : Nat → Nat → Hw → Hw
  | 0, _, s => s
  | n + 1, slot, s =>
    match s.keys.charges.find? fun w => w.slot.toNat = slot with
    | none => s
    | some w =>
      let xts := match s.job w.key with | some j => (match j.op with | .ciph b => cbMode b = 3 | _ => false) | none => false
      let u := match s.job w.key with
        | some j => if xts then xtsPart s (s.slot slot) (j.span - j.charged) else w.units
        | none => w.units
      match chargeNow s slot u xts false with
      | (.first f, s) =>
        let s := { s with keys := { s.keys with charges := s.keys.charges.filter fun v => v.key != w.key } }
        serveCharges n slot (chargeGrant s w.key f u)
      | (.spent, s) => serveCharges n slot (chargeFail s w.key stKeySpent)
      | (.waits, s) => s

/-- Serve a slot's charges. -/
def serveSlot (s : Hw) (slot : Nat) : Hw := serveCharges (2 * s.keys.charges.length + 16) slot s

end Sys2Proof.Machine
end

