-- ==== Sys2Proof/Machine/DigestJob.lean ====
section
/-! DEFINITION. Digest jobs: the checks of R119, R173, R174, R176, R182 and R185 at issue, binding to engines (R170, R177),
the start of a job, and the results (R169, R175). -/

namespace Sys2Proof.Machine

/-! ### The block as issued -/

/-- CHECK. -/
def dbCheck (b : Block) : Bool := bit (wordOf b 0) 13
/-- BOARD. -/
def dbBoard (b : Block) : Bool := bit (wordOf b 0) 14
/-- LANES; 0 acts as 1. -/
def dbLanes (b : Block) : Nat := max 1 (fld (wordOf b 0) 16 5)
/-- BIDX. -/
def dbIndex (b : Block) : Nat := fld (wordOf b 0) 24 8
/-- EXPECT. -/
def dbExpect (b : Block) : Word := wordOf b 3
/-- CUST. -/
def dbCust (b : Block) : Word := wordOf b 4
/-- NAME. -/
def dbName (b : Block) : Word := wordOf b 5
/-- CRC_INIT. -/
def dbCrc (b : Block) : BitVec 32 := (wordOf b 6).extractLsb' 0 32
/-- PH_B_LOG2. -/
def dbBlockLog2 (b : Block) : Nat := fld (wordOf b 6) 32 8

/-- The natural length of an algorithm's result; 0 for a reserved code (R169, R173). -/
def digNatural (a : Nat) : Nat :=
  match a with
  | 0x01 | 0x08 => 28
  | 0x02 | 0x09 | 0x20 | 0x0C | 0x0E | 0x10 | 0x28 => 32
  | 0x03 | 0x0A | 0x21 => 48
  | 0x04 | 0x0B | 0x22 | 0x0D | 0x0F | 0x11 | 0x29 => 64
  | 0x18 => 4
  | _ => 0

/-- A keyed algorithm (R119). -/
def digKeyed (a : Nat) : Bool := 0x20 ≤ a
/-- ParallelHash. -/
def digParallel (a : Nat) : Bool := a = 0x10 || a = 0x11
/-- The output length may exceed the natural one (R173). -/
def digXof (a : Nat) : Bool := (0x0C ≤ a && a ≤ 0x11) || a = 0x28 || a = 0x29
/-- The output length enters the computation (R173). -/
def digLenEnters (a : Nat) : Bool := digParallel a || a = 0x28 || a = 0x29

/-- Whether OUT LEN is permitted (R173). -/
def digOutOk (a n : Nat) : Bool := n = 0 || (if digXof a then n ≤ 65536 else if a = 0x18 then n = 4 else n ≤ digNatural a)

/-- The output length of a job (R173). -/
def digOutLen (b : Block) : Nat := if rgLen (pbDst b) = 0 then digNatural (dbAlg b) else rgLen (pbDst b)

/-- The range that a result is written to: OUT, at the output length (R119, R173). -/
def dbOut (b : Block) : Word := rgSub (pbDst b) 0 (digOutLen b)

/-- Reserved fields of a digest block. -/
def dbReserved (b : Block) : Bool :=
  bit (wordOf b 0) 8 || bit (wordOf b 0) 15 || fld (wordOf b 0) 21 3 != 0 || fld (wordOf b 0) 49 15 != 0 ||
    fld (wordOf b 6) 40 24 != 0 || wordOf b 7 != 0 || 16 < fld (wordOf b 0) 16 5

/-- What makes a digest block DESCRIPTOR_INVALID at issue; `unit` is the ParallelHash block size of its stream. -/
def dgstBad (b : Block) (unit : Nat) : Bool :=
  let a := dbAlg b
  let n := rgLen (pbSrc b)
  digNatural a = 0 || dbReserved b || rgPayloadBad (pbSrc b) || rgBad (dbCust b) || rgBad (dbName b) ||
    (a != 0x0E && a != 0x0F && rgLen (dbName b) != 0) || 256 < rgLen (dbName b) || 256 < rgLen (dbCust b) ||
    (!(digLenEnters a || a = 0x0E || a = 0x0F) && rgLen (dbCust b) != 0) ||
    (dbBoard b && (digKeyed a || !pbLast b || 64 < digOutLen b)) ||
    rgReserved (pbDst b) || !digOutOk a (rgLen (pbDst b)) || (pbLast b && !dbCheck b && !rgScrOk (dbOut b)) ||
    (dbCheck b && (rgBad (dbExpect b) || rgLen (dbExpect b) != digOutLen b || 64 < rgLen (dbExpect b))) ||
    (digParallel a && pbFirst b && (dbBlockLog2 b < 10 || 24 < dbBlockLog2 b)) ||
    (digParallel a && !pbLast b && n % unit != 0)

/-- The job's fields match the opening job of its stream (R117). -/
def dgstMatches (v : DigestStream) (b : Block) : Bool := v.alg.toNat = dbAlg b && v.slot = pbSlot b

/-- The stream that stands under a STREAM number: the one open for issue. -/
def openDs (x : Ctx) (n : Nat) : Option (Nat × DigestStream) := x.dstreams.find? fun e => e.2.num = n && e.2.isOpen

/-! ### Engines (R170, R177): 0-31 lanes, 32-39 sequencers -/

/-- A digest engine. -/
def Hw.dig (s : Hw) (e : Nat) : DigestUnit := tget {} s.digs e
/-- Change a digest engine. -/
def Hw.modDig (s : Hw) (e : Nat) (f : DigestUnit → DigestUnit) : Hw := { s with digs := tmod {} s.digs e f }

/-- The digest stream of a job. -/
def dsOf (s : Hw) (key : Nat) (j : Job) : DigestStream := (s.ctx (key / 16)).ds j.stream

/-- The engines a bound stream occupies. -/
def DigestStream.engines (v : DigestStream) : List Nat := if v.claimed.isEmpty then [v.engine] else v.claimed

/-- Digest jobs bound to an engine: for ParallelHash those whose home lane it is. -/
def digJobs (s : Hw) (e : Nat) : Table Job :=
  s.jobs.filter fun k => match k.2.op with
    | .dgst _ => k.2.phase != .after && (dsOf s k.1 k.2).bound && (dsOf s k.1 k.2).engine = e
    | _ => false

/-- Input bytes queued at an engine (R170). -/
def digQueued (s : Hw) (e : Nat) : Nat :=
  (digJobs s e).foldl (fun n k => match k.2.op with | .dgst b => n + (rgLen (pbSrc b) - k.2.pos) | _ => n) 0

/-- Streams bound to an engine (DGS_STATUS.BOUND); the flag counts ParallelHash claims of other benches alone. -/
def digBound (s : Hw) (e : Nat) (remote : Bool) : Nat :=
  (s.ctxs.flatMap fun x => x.2.dstreams.filter fun d =>
    d.2.bound && d.2.engines.contains e && (!remote || benchOf x.1 != e / 4)).length

/-- The lanes of a bench that may be taken, fewest queued bytes first, ties to the lowest number (R170). -/
def lanesInOrder : Nat → Hw → List Nat → List Nat
  | 0, _, _ => []
  | n + 1, s, l =>
    match leastBy (digQueued s) l with
    | some g => g :: lanesInOrder n s (l.filter fun x => x != g)
    | none => []

/-- Unfenced lanes of bench b in the order of R170. -/
def benchLanes (s : Hw) (b : Nat) : List Nat :=
  lanesInOrder 4 s (((List.range 4).map (4 * b + ·)).filter fun g => !s.out (digUnit g))

/-- The lanes that a ParallelHash stream of bench b claims (R177). -/
def claimLanes (s : Hw) (b want : Nat) : List Nat :=
  let near := if s.mc.mode = .pilot then [] else
    (List.range 3).flatMap fun i => (benchLanes s ((b + 1 + i) % 8)).filter fun g => digBound s g true < 16
  (benchLanes s b ++ near).take want

/-- The engine a job goes to: that of its stream, or for FIRST the one it would bind to; none when all are fenced. -/
def dgstEngine (s : Hw) (c : Nat) (v : DigestStream) (b : Block) : Option Nat :=
  if v.bound then some v.engine
  else if digKeyed (dbAlg b) then (if s.out (digUnit (32 + benchOf c)) then none else some (32 + benchOf c))
  else (benchLanes s (benchOf c)).head?

/-! ### The start of a job -/

/-- What a keyed digest job asks of its slot (R179, R234). -/
def dgstAsk (b : Block) : KeyAsk :=
  { uses := [if dbCheck b then 4 else 3], algs := [dbAlg b], words := none, secret := true, enc := false }

/-- The ranges of a job lie inside their handles. -/
def dgstInside (x : Ctx) (b : Block) : Bool :=
  rgInside x (pbSrc b) && (!pbFirst b || (rgInside x (dbCust b) && rgInside x (dbName b))) &&
    (!pbLast b || ((dbCheck b || rgInside x (dbOut b)) && (!dbCheck b || rgInside x (dbExpect b))))

/-- A digest stream has jobs issued before a point of the issue order that are not done. -/
def dsOlder (s : Hw) (c n issued : Nat) : Bool := (s.jobsOf c).any fun e => e.2.ofDs n && e.2.issued < issued

/-- A job of a digest stream fails: the stream closes, and the jobs from this one on complete with its status; jobs before it
that are not done run on (R117). -/
def dgstFail (s : Hw) (key : Nat) (j : Job) (st : BitVec 8) : Hw :=
  let c := key / 16
  if dsOlder s c j.stream j.issued then
    endJobs (endingDs s c j.stream st) c (fun k => k.ofDs j.stream && j.issued ≤ k.issued) st
  else failDs s c j.stream st

/-- A digest job ends OK, or with a verdict or a refused post: its result is the bytes consumed (R119). -/
def dgstDone (s : Hw) (key : Nat) (b : Block) (st : BitVec 8) : Hw := finish s key st (BitVec.ofNat 64 (rgLen (pbSrc b)))

/-- The oldest unfinished job of a digest stream. -/
def dsHead (s : Hw) (c n : Nat) : Option (Nat × Job) :=
  leastBy (fun e => e.2.issued) ((s.jobsOf c).filter fun e => e.2.ofDs n)

/-- The job that is next in its stream starts (R171, R174): at FIRST the strings, the key and CRC_INIT are read. A job
with nothing to absorb ends or closes at once. -/
def dgstStart (s : Hw) (key : Nat) (j : Job) (b : Block) : Hw :=
  let c := key / 16
  let x := s.ctx c
  if x.mismatch then dgstFail s key j stLengthMismatch
  else if !dgstInside x b then dgstFail s key j stWindowFault
  else if pbFirst b && (rgPoisoned s c (dbCust b) || rgPoisoned s c (dbName b)) then dgstFail s key j stDataUncorrected
  else
    let s := s.modCtx c fun x =>
      let v := x.ds j.stream
      x.setDs j.stream (if pbFirst b then
        { v with started := true, key := if digKeyed (dbAlg b) then (s.slot (pbSlot b).toNat).key else []
                 cust := rgRead s c (dbCust b), name := rgRead s c (dbName b), crcInit := dbCrc b }
        else v)
    s.setJob key { j with
      phase := if rgLen (pbSrc b) = 0 then .closing else .running, started := true }

/-- Start the next job of a digest stream; jobs of no bytes that do not close the stream end at once. A stream that fails
behind its last job fails now (R117). -/
def dgstAdvance : Nat → Hw → Nat → Nat → Hw
  | 0, s, _, _ => s
  | n + 1, s, c, d =>
    match dsHead s c d with
    | some (key, j) =>
      match j.op with
      | .dgst b =>
        if j.phase = .queued then
          let s := dgstStart s key j b
          if rgLen (pbSrc b) = 0 && !pbLast b && (s.job key).isSome then dgstAdvance n (dgstDone s key b stOk) c d else s
        else s
      | _ => s
    | none => match ((s.ctx c).ds d).ending with
      | some st => failDs s c d st
      | none => s

/-- Work of a domain arrives at a digest engine (R34). -/
def digArrive (s : Hw) (e d : Nat) : Hw :=
  let had := s.jobs.any fun k => match k.2.op with
    | .dgst _ => k.2.phase != .after && (dsOf s k.1 k.2).engines.contains e && (s.ctx (k.1 / 16)).domain = d
    | _ => false
  s.modDig e fun v => { v with arb := v.arb.arrive d had }

/-- A digest job is passed to its bench (R113, R170, R177, R179). The key checks are those of the FIRST job, whose key the
stream keeps (R180). -/
def dgstPass (s : Hw) (key : Nat) (j : Job) (b : Block) : Hw :=
  let c := key / 16
  let x := s.ctx c
  let v := x.ds j.stream
  match dgstEngine s c v b with
  | none => dgstFail s key j stEngineFenced
  | some e =>
    match (if digKeyed (dbAlg b) && pbFirst b then keyCheck s (s.cfgOf c) x.domain (pbSlot b).toNat (dgstAsk b) else none) with
    | some st => dgstFail (keyRefused s) key j st
    | none =>
      if digKeyed (dbAlg b) && pbFirst b && slotWide (pbSlot b).toNat then dgstFail (keyRefused s) key j stKeyDenied
      else
        let claims := if digParallel (dbAlg b) then claimLanes s (benchOf c) (dbLanes b) else []
        let s := if v.bound then s else s.modCtx c fun x => x.setDs j.stream { v with
          bound := true, engine := claims.headD e, claimed := claims, lanes := dbLanes b }
        let s := ((s.ctx c).ds j.stream).engines.foldl (fun s e => digArrive s e x.domain) s
        dgstAdvance 17 (s.setJob key { j with phase := .queued, seq := s.jobSeq }) c j.stream

/-! ### Results -/

/-- One bit of the reflected CRC-32C (R175). -/
def crcBit (c : BitVec 32) : BitVec 32 := if bit c 0 then (c >>> 1) ^^^ 0x82F63B78#32 else c >>> 1

/-- Eight bits. -/
def crcByte (c : BitVec 32) (b : Byte) : BitVec 32 :=
  crcBit (crcBit (crcBit (crcBit (crcBit (crcBit (crcBit (crcBit (c ^^^ b.zeroExtend 32))))))))

/-- The CRC-32C of a message that continues from the finished CRC-32C of what precedes it (R175). -/
def crc32c (init : BitVec 32) (msg : Bytes) : BitVec 32 := ~~~(msg.foldl crcByte (~~~init))

/-- The first n bytes of a stream's result (R169, R173, R175). -/
def digResult (v : DigestStream) (n : Nat) : Bytes :=
  if v.alg = 0x18 then leBytes n (crc32c v.crcInit v.msg).toNat
  else digestOf { alg := v.alg, key := v.key, cust := v.cust, name := v.name, blockLog2 := v.blockLog2, msg := v.msg } n

end Sys2Proof.Machine
end

