-- ==== Sys2Proof/Machine/Mm.lean ====
section
/-! DEFINITION. The memory master ports: binding, splitting and issuing transactions (R25 to R27, R432 to R434). -/

namespace Sys2Proof.Machine

/-- The unit of a memory master port. -/
def mmUnit (p : Nat) : Nat := 0x90 + p
/-- A memory master port's registers. -/
def Hw.mmp (s : Hw) (p : Nat) : MmPort := tget {} s.mm.ports p
/-- Change a port's registers. -/
def Hw.modMmp (s : Hw) (p : Nat) (f : MmPort → MmPort) : Hw :=
  { s with mm := { s.mm with ports := tmod {} s.mm.ports p f } }

/-- A port that takes new transactions. -/
def mmUsable (s : Hw) (p : Nat) : Bool := !s.fenced (mmUnit p) && !(s.mmp p).inReset

/-- Outstanding transactions of a port in one direction (MM_STATUS). -/
def mmOut (s : Hw) (p : Nat) (w : Bool) : Nat := (s.mm.txns.filter fun t => t.port = p && t.write = w).length

/-- Outstanding beats of a port (R434). -/
def mmBeats (s : Hw) (p : Nat) : Nat :=
  (s.mm.txns.filter fun t => t.port = p).foldl (fun n t => n + (if t.write then t.beats else t.beats - t.data.length / 32)) 0

/-- The port a transfer binds to: the usable port with the fewest outstanding beats, ties to the next after the port
chosen last (R434). -/
def mmBind (s : Hw) : Option Nat :=
  leastBy (mmBeats s) (((List.range 32).map fun i => (s.mm.last + 1 + i) % 32).filter (mmUsable s))

/-- The lowest tag of a port and direction that is free (R432). -/
def mmTag (s : Hw) (p : Nat) (w : Bool) : Option Nat :=
  (List.range 128).find? fun t => !s.mm.txns.any fun x => x.port = p && x.write = w && x.tag.toNat = t

/-- Beats of 32 B that n bytes at an address touch. -/
def beatsOf (addr n : Nat) : Nat := ceilDiv (addr % 32 + n) 32

/-- Cut n bytes at an address into transactions of at most 16 beats, as offset and length. None crosses 512 B, so none
crosses 4 KiB (R432). -/
def txnCuts : Nat → Nat → Nat → Nat → List (Nat × Nat)
  | 0, _, _, _ => []
  | f + 1, addr, off, n =>
    if n = 0 then []
    else
      let k := min n (512 - addr % 512)
      (off, k) :: txnCuts f (addr + k) (off + k) (n - k)

/-- The transactions of n bytes at an address. -/
def cutsOf (addr n : Nat) : List (Nat × Nat) := txnCuts (n / 512 + 2) addr 0 n

/-- Cut n bytes at an address at 4 KiB boundaries, as address and length (R26). -/
def pageCuts : Nat → Nat → Nat → List (Nat × Nat)
  | 0, _, _ => []
  | f + 1, addr, n =>
    if n = 0 then []
    else
      let k := min n (4096 - addr % 4096)
      (addr, k) :: pageCuts f (addr + k) (n - k)

/-- The pieces of n bytes at an address. -/
def piecesOf (addr n : Nat) : List (Nat × Nat) := pageCuts (n / 4096 + 2) addr n

/-- The memory attributes of a permitted piece: those of the lowest-numbered window that grants it (R26, log 23). -/
def winCheck (cfg : CfgSet) (d addr : Nat) (write : Bool) : Option (BitVec 4) :=
  (domWindow cfg d (addr % 2 ^ 64 / 4096) write).map (winAttr cfg d)

/-- Issue one transaction at a port; none when it has no free tag. -/
def mmIssue (s : Hw) (p : Nat) (w : Bool) (addr n : Nat) (data : Bytes) (d : Nat) (attr : BitVec 4) (o : TxnOwner) :
    Option Hw :=
  (mmTag s p w).map fun t =>
    { s with mm := { s.mm with txns := s.mm.txns ++ [
      { port := p, tag := BitVec.ofNat 7 t, write := w, addr := addr % 2 ^ 64, want := n, beats := beatsOf addr n, data := data
        domain := BitVec.ofNat 12 d, attr := attr, issuedAt := s.clk.core, owner := o }] } }

/-- A port has room for n further transactions. -/
def mmRoom (s : Hw) (p : Nat) (w : Bool) (n : Nat) : Bool := mmOut s p w + n ≤ 128

/-- Remember the port chosen last. -/
def mmChose (s : Hw) (p : Nat) : Hw := { s with mm := { s.mm with last := p } }

/-- Issue every transaction of one piece at a port with room for them; `o` names each by its offset in the piece. -/
def mmPiece (s : Hw) (p : Nat) (w : Bool) (addr n : Nat) (data : Bytes) (d : Nat) (attr : BitVec 4) (o : Nat → TxnOwner) :
    Hw :=
  (cutsOf addr n).foldl (fun s c =>
    (mmIssue s p w (addr + c.1) c.2 (if w then (data.drop c.1).take c.2 else []) d attr (o c.1)).getD s) s

/-- The bytes that a finished read delivers. -/
def Txn.bytes (t : Txn) : Bytes := (t.data.drop (t.addr % 32)).take t.want

/-- The transaction outstanding under a tag. -/
def mmFind (s : Hw) (p : Nat) (w : Bool) (tag : BitVec 7) : Option Txn :=
  s.mm.txns.find? fun t => t.port = p && t.write = w && t.tag = tag

/-- Remove a transaction. -/
def mmDrop (s : Hw) (t : Txn) : Hw :=
  { s with mm := { s.mm with txns := s.mm.txns.filter fun x => !(x.port = t.port && x.write = t.write && x.tag = t.tag) } }

end Sys2Proof.Machine
end

