-- ==== Sys2Proof/Machine/Xfer.lean ====
section
/-! DEFINITION. Transfers: fragment lists (R50 to R52), spans (R121), pieces and their ends (R26, R27, R286), the scrub list
and its writes (R159 to R161), and SIGNAL (R125). -/

namespace Sys2Proof.Machine

/-! ### Fragment lists -/

/-- The address of a request's list from its locator (R48). -/
def reqList (s : Hw) (r : Request) (out : Bool) : Nat :=
  let l := if out then fld (wordOf r.desc 2) 0 27 else fld (wordOf r.desc 1) 32 27
  fld (domWord (s.setOf r.epoch) r.domain.toNat (0x40 + 0x10 * (l / 2 ^ 24))) 12 52 * 4096 + l % 2 ^ 24 * 64

/-- The address of a list of a context. -/
def listAddr (s : Hw) (c : Nat) (out : Bool) : Nat :=
  match (s.ctx c).req with
  | some r => reqList s r out
  | none => 0

/-- The peer that a context's request has come from. -/
def Ctx.peer (x : Ctx) : Option (BitVec 3 × BitVec 8) := x.req.bind (·.fromPeer)

/-- A message of the DATA flits of a forwarded request (R418, log 41): what it is, the request's id, the end marker, the
byte of the list, and its payload. What asks for or carries a piece names where its transfer's span starts first. -/
def dataMessage (kind : Byte) (id : BitVec 8) (ends : Bool) (off : Nat) (payload : Bytes) : Bytes :=
  [kind, id, if ends then 1 else 0] ++ leBytes 8 off ++ payload

/-- Addresses from here on stand for the bytes of the list of the block that a request came from. -/
abbrev peerBase : Nat := 2 ^ 64

/-- A request has a list: FLAGS bit 3 or 4 is clear (R48). -/
def hasList (x : Ctx) (out : Bool) : Bool := !x.flag (if out then 4 else 3)

/-- One of a context's two walks. -/
def walkOf (x : Ctx) (out : Bool) : ListWalk := if out then x.outWalk else x.inWalk
/-- Write one of the walks. -/
def setWalk (x : Ctx) (out : Bool) (w : ListWalk) : Ctx := if out then { x with outWalk := w } else { x with inWalk := w }

/-- Bytes of the fragments read so far. -/
def walkBytes (w : ListWalk) : Nat := w.frags.foldl (fun n f => n + f.len) 0

/-- Read one entry of a segment into a walk; true when the segment goes on (R50). -/
def walkEntry (w : ListWalk) (a l : Word) : ListWalk × Bool :=
  let w := { w with entries := w.entries + 1 }
  let add := fun (w : ListWalk) => if fld l 0 32 = 0 then w else { w with frags := w.frags ++ [⟨a, fld l 0 32⟩] }
  if fld l 34 30 != 0 then ({ w with fail := some stDescriptorInvalid }, false)
  else if bit l 32 then ({ add w with ended := true }, false)
  else if w.entries = 65536 then ({ w with fail := some stDescriptorInvalid }, false)
  else if bit l 33 then
    if fld a 0 6 != 0 then ({ w with fail := some stDescriptorInvalid }, false) else ({ w with nextSeg := a }, false)
  else (add w, true)

/-- Read the four entries of a segment (R50). -/
def walkSegment (w : ListWalk) (b : Bytes) : ListWalk :=
  let w := { w with reading := false, nextSeg := w.nextSeg + 64 }
  ((List.range 4).foldl (fun (p : ListWalk × Bool) i =>
    if p.2 then walkEntry p.1 (wordAt b (2 * i)) (wordAt b (2 * i + 1)) else p) (w, true)).1

/-- The fragment that holds byte n of a list: the address of that byte, modulo 2^64, and the bytes left in its fragment. -/
def fragAt : List Fragment → Nat → Option (Nat × Nat)
  | [], _ => none
  | f :: r, n => if n < f.len then some ((f.addr.toNat + n) % 2 ^ 64, f.len - n) else fragAt r (n - f.len)

/-- Issue the read of a list's next segment (R50, R26). A refused read ends the walk. The list of a forwarded request is
walked by the block it came from, which is asked for the byte past LENGTH (R51, R418). -/
def readSegment (s : Hw) (c : Nat) (out : Bool) : Hw :=
  let x := s.ctx c
  let w := walkOf x out
  if w.reading || w.ended || w.fail.isSome then s
  else match x.peer with
  | some (link, id) =>
    linkSend (s.modCtx c fun x => setWalk x out { w with reading := true }) link.toNat 5
      (dataMessage 0 id false x.length (leBytes 8 x.length ++ leBytes 4 1))
  | none =>
    let addr := if w.started then w.nextSeg.toNat else listAddr s c out
    let w := { w with started := true, nextSeg := BitVec.ofNat 64 addr }
    match winCheck (s.cfgOf c) x.domain addr false with
    | none => s.modCtx c fun x => setWalk x out { w with fail := some stWindowFault }
    | some attr =>
      match mmBind s with
      | none => s.modCtx c fun x => setWalk x out { w with fail := some stEngineFenced }
      | some p =>
        match mmIssue s p false addr 64 [] x.domain attr (.segment c out) with
        | some s' => (mmChose s' p).modCtx c fun x => setWalk x out { w with reading := true }
        | none => s

/-- The input disagrees with LENGTH (R52): the request completes LENGTH_MISMATCH, and no cipher or digest job of it
produces anything more (log 24). -/
def lengthMismatch (s : Hw) (c : Nat) : Hw :=
  if (s.ctx c).mismatch then s
  else
    let s := s.modCtx c fun x => { x with mismatch := true }
    let s := ((s.ctx c).dstreams.filter fun e => e.2.failed.isNone).foldl (fun s e => failDs s c e.1 stLengthMismatch) s
    ((s.ctx c).cstreams.filter fun e => e.2.failed.isNone).foldl (fun s e => failCs s c e.1 stLengthMismatch (csLead s c e.1)) s

/-- A segment of a list has arrived: the walk goes on, and an END before LENGTH bytes is a disagreement (R51). -/
def segmentArrived (s : Hw) (c : Nat) (out : Bool) (b : Bytes) : Hw :=
  let w := walkSegment (walkOf (s.ctx c) out) b
  let s := s.modCtx c fun x => setWalk x out w
  if !out && w.ended && walkBytes w < (s.ctx c).length then lengthMismatch s c else s

/-! ### Transfers -/

/-- The range of a transfer. -/
def xferRange (j : Job) : Word :=
  match j.op with
  | .xgath r | .xscat r => r
  | .xload _ r | .xstore _ r | .xlib _ r => r
  | _ => 0

/-- A transfer of any kind. -/
def isXfer (j : Job) : Bool :=
  match j.op with | .xgath _ | .xscat _ | .xload _ _ | .xstore _ _ | .xlib _ _ => true | _ => false

/-- The list that a transfer walks. -/
def xferList (j : Job) : Option Bool := match j.op with | .xgath _ => some false | .xscat _ => some true | _ => none

/-- Bytes that a transfer is to move, as far as its list has been read: a span past the end of a list that has ended is
clipped there (R51, R121). -/
def xferBytes (x : Ctx) (j : Job) : Nat :=
  match xferList j with
  | some out =>
    let w := walkOf x out
    if w.ended || !hasList x out then min j.span (walkBytes w - j.start) else j.span
  | none => rgLen (xferRange j)

/-- A transfer has issued all it is to move. -/
def xferIssued (x : Ctx) (j : Job) : Bool := xferBytes x j ≤ j.pos

/-- Whether a transfer's status is known once its pieces are done: a gather that asks beyond LENGTH must have seen the end
of its list, or a byte past LENGTH (R51, R121). -/
def xferDecided (x : Ctx) (j : Job) : Bool :=
  match j.op with
  | .xgath r => rgLen r = j.span || !hasList x false || x.inWalk.ended || x.inWalk.fail.isSome || x.length < walkBytes x.inWalk
  | _ => true

/-- The status of a transfer whose pieces have all completed (R50, R51, R121). -/
def xferStatus (x : Ctx) (j : Job) : BitVec 8 :=
  match j.op with
  | .xgath r =>
    if xferBytes x j < j.span || (rgLen r != j.span && x.length < walkBytes x.inWalk) then stLengthMismatch
    else match x.inWalk.fail with
      | some st => if rgLen r != j.span then st else stOk
      | none => stOk
  | .xscat r => if xferBytes x j < rgLen r then stLengthMismatch else stOk
  | _ => stOk

/-- The bytes after the last piece that counts are undefined in the destination of a refused transfer into a handle: they
become free values (R27, log 1). -/
def undefineTail (s : Hw) (key : Nat) (j : Job) : Hw :=
  let m := movedBytes j
  if j.outward || !j.pieces.any (·.bad) || j.pos ≤ m then s
  else
    let (n, s) := drawFree s
    rgWrite s (key / 16) (rgSub (xferRange j) m (j.pos - m)) (mkBytes (j.pos - m) (Config.freeByte n))

/-- End a transfer once nothing of it is outstanding and its end is known (R27, R121). -/
def xferSettle (s : Hw) (key : Nat) : Hw :=
  match s.job key with
  | none => s
  | some j =>
    let c := key / 16
    if !isXfer j || outstanding j != 0 || j.phase = .after then s
    else if j.stopped then finishTransfer (undefineTail s key j) key j j.final
    else if xferIssued (s.ctx c) j && xferDecided (s.ctx c) j then
      let st := xferStatus (s.ctx c) j
      let more := match j.op with
        | .xgath r => rgLen r != j.span && (s.ctx c).length < walkBytes (s.ctx c).inWalk
        | _ => false
      let s := finishTransfer s key j st
      if more then lengthMismatch s c else s
    else s

/-- Stop a transfer with a status (R27). -/
def xferStop (s : Hw) (key : Nat) (st : BitVec 8) : Hw :=
  match s.job key with
  | some j =>
    xferSettle (s.setJob key { j with
      stopped := true, phase := .closing, final := if j.stopped then j.final else st }) key
  | none => s

/-- A shadow write that finds the sets not READY is ignored and reported: EDIT_LOST and event 0x05 (R314). -/
def editLost (s : Hw) : Hw := note { s with seam := { s.seam with editLost := true } } 0x8A 5

/-- A transfer is passed to the transfer queue; one with nothing to move ends (R121). -/
def xferPass (s : Hw) (key : Nat) (j : Job) : Hw :=
  let c := key / 16
  let r := xferRange j
  let s := s.setJob key { j with phase := .running, seq := s.jobSeq }
  if !rgInside (s.ctx c) r then xferStop s key stWindowFault
  else match j.op with
    | .xlib a _ =>
      if !s.awlLoad then xferStop s key stKeyDenied
      else if s.seam.st != .ready then xferStop (editLost s) key stKeyDenied
      else if 0x200000 < a.toNat + rgLen r then xferStop s key stDescriptorInvalid
      else xferSettle s key
    | .xgath _ | .xscat _ =>
      if rgLen r = 0 || (match xferList j with | some o => !hasList (s.ctx c) o | none => false) then xferSettle s key else s
    | _ => xferSettle s key

/-- The system address of a transfer's next byte and how many bytes go there without a break; none until its list has been
read so far. -/
def xferNext (x : Ctx) (j : Job) : Option (Nat × Nat) :=
  match j.op with
  | .xload a r | .xstore a r => some ((a.toNat + j.pos) % 2 ^ 64, rgLen r - j.pos)
  | .xgath _ | .xscat _ =>
    if x.peer.isSome then some (peerBase + j.start + j.pos, xferBytes x j - j.pos)
    else match xferList j with
    | some out => (fragAt (walkOf x out).frags (j.start + j.pos)).map fun f => (f.1, min f.2 (xferBytes x j - j.pos))
    | none => none
  | _ => none

/-! ### The scrub list (R159) -/

/-- Record a system piece written from a released range: it extends the entry it continues, or adds one. -/
def scrubAdd (l : List (Nat × Nat)) (a n : Nat) : List (Nat × Nat) :=
  match l.getLast? with
  | some (b, m) => if b + m = a then l.dropLast ++ [(b, m + n)] else l ++ [(a, n)]
  | none => [(a, n)]

/-- A transfer carries bytes of released ranges. -/
def fromReleased (x : Ctx) (j : Job) : Bool :=
  j.outward && j.source.any fun r => (releasedRanges x).any fun h => rgOverlap h r

/-- The runs of system addresses that a transfer writes, one after the other. -/
def xferRuns : Nat → Ctx → Job → List (Nat × Nat)
  | 0, _, _ => []
  | f + 1, x, j =>
    if xferIssued x j then []
    else match xferNext x j with
      | some (a, n) => if n = 0 then [] else (a, n) :: xferRuns f x { j with pos := j.pos + n }
      | none => []

/-- A transfer from released ranges would need more than 1,024 entries of the scrub list (R159). -/
def scrubFull (x : Ctx) (j : Job) : Bool :=
  1024 < ((xferRuns 1026 x j).foldl (fun l r => scrubAdd l r.1 r.2) x.scrub).length

/-- The span of a scatter from released ranges has been read whole (R159). -/
def scrubKnown (x : Ctx) (j : Job) : Bool :=
  match xferList j with
  | some out => x.peer.isSome || (walkOf x out).ended || (walkOf x out).fail.isSome || j.start + j.span ≤ walkBytes (walkOf x out)
  | none => true

/-! ### Issuing a piece -/

/-- Issue one piece at a port: its transactions, its entry in the job, and its part in the scrub list. -/
def issuePiece (s : Hw) (key : Nat) (j : Job) (p addr n : Nat) (attr : BitVec 4) : Hw :=
  let c := key / 16
  let d := (s.ctx c).domain
  let w := j.outward
  let data := if w then rgRead s c (rgSub (xferRange j) j.pos n) else []
  let k := j.pieces.length
  let s := if fromReleased (s.ctx c) j then s.modCtx c fun x => { x with scrub := scrubAdd x.scrub addr n } else s
  let s := mmPiece s p w addr n data d attr fun off => .piece key k (j.pos + off)
  (mmChose s p).setJob key { j with
    phase := .running, port := some p, pos := j.pos + n, pieces := j.pieces ++ [⟨n, (cutsOf addr n).length, false⟩] }

/-- Ask the block that a request came from for a piece of its input list, or send it one of its output list (R418). -/
def peerPiece (s : Hw) (key : Nat) (j : Job) (addr n : Nat) : Hw :=
  let c := key / 16
  let off := addr - peerBase
  match (s.ctx c).peer with
  | none => s
  | some (link, id) =>
    let payload := if j.outward then rgRead s c (rgSub (xferRange j) j.pos n) else leBytes 4 n
    let s := if fromReleased (s.ctx c) j then s.modCtx c fun x => { x with scrub := scrubAdd x.scrub addr n } else s
    let s := linkSend s link.toNat 5 (dataMessage (if j.outward then 1 else 0) id false off (leBytes 8 j.start ++ payload))
    s.setJob key { j with phase := .running, pos := j.pos + n, pieces := j.pieces ++ [⟨n, 1, false⟩] }

/-- The port of a transfer's next piece: its bound port, or the one it binds to (R434). -/
def xferPort (s : Hw) (j : Job) : Option Nat :=
  match j.port with
  | some p => if mmUsable s p then some p else mmBind s
  | none => mmBind s

/-- Write a piece of the shadow library (R97, R121). -/
def libPiece (s : Hw) (key : Nat) (j : Job) (addr n : Nat) : Hw :=
  let b := rgRead s (key / 16) (rgSub (xferRange j) j.pos n)
  let put := fun (s : Hw) (i : Nat) =>
    let off := 0x600000 + (addr + i) / 8 * 8
    let old := leBytes 8 (cfgWord s.shadow off).toNat
    let at_ := (addr + i) % 8
    let new := BitVec.ofNat 64 (leNat (old.take at_ ++ [b.getD i 0] ++ old.drop (at_ + 1)))
    { s with shadow := cfgSet s.shadow off (new &&& libWordMask off) }
  let s := (List.range n).foldl put s
  let s := { s with seam := { s.seam with dirty := true } }
  xferSettle (s.setJob key { j with pos := j.pos + n, pieces := j.pieces ++ [⟨n, 0, false⟩] }) key

/-- A transfer's read of its next n bytes from its handle, before what it does with them: a lost word ends it (R286). -/
def xferRead (s : Hw) (key : Nat) (j : Job) (n : Nat) (read : List WordErrors) (go : Hw → Hw) : Hw :=
  let x := s.ctx (key / 16)
  let r := rgSub (xferRange j) j.pos n
  let l := rgWords x r read
  if !j.outward then go s
  else if rgPoisoned s (key / 16) r then xferStop (readRefused s (key / 16) r) key stDataUncorrected
  else if readLost s l then xferStop (readAll s l) key stDataUncorrected
  else go (readAll s l)

/-- The address and length of a transfer's next piece (R26). -/
def xferCut (x : Ctx) (j : Job) : Option (Nat × Nat) :=
  (xferNext x j).map fun a => (a.1, min a.2 (4096 - a.1 % 4096))

/-- A transfer of the context that began to write released bytes before this one has pieces still to issue: the scrub list
takes one such transfer's pieces at a time, so that its bound holds (R159, log 132). -/
def scrubWaits (s : Hw) (key : Nat) (j : Job) : Bool :=
  let x := s.ctx (key / 16)
  fromReleased x j && (s.jobsOf (key / 16)).any fun e =>
    e.1 != key && !e.2.pieces.isEmpty && !e.2.stopped && fromReleased x e.2 && !xferIssued x e.2 &&
      (j.pieces.isEmpty || e.2.seq < j.seq)

/-- A transfer that waits at a memory master port: its key, domain, order of arrival, and the beats of its next piece. -/
structure PortAsk where
  key : Nat
  domain : Nat
  seq : Nat
  beats : Nat
deriving DecidableEq, Repr

/-- The transfers bound to a port that could issue a piece there, with the one that asks now. -/
def portAsks (s : Hw) (p key : Nat) : List PortAsk :=
  s.jobs.filterMap fun e =>
    let x := s.ctx (e.1 / 16)
    if e.1 = key || (isXfer e.2 && e.2.phase = .running && e.2.port = some p && !(e.2.outward && rgHeld x (xferRange e.2)) &&
        !scrubWaits s e.1 e.2) then
      match xferCut x e.2 with
      | some (a, n) => if peerBase ≤ a || n = 0 then none else some ⟨e.1, x.domain, e.2.seq, beatsOf a n⟩
      | none => none
    else none

/-- A port takes a piece of the transfer that asks when its turn has come: its domain's by the arbitration, and within it the
transfer that arrived first (R34, R35). The beats of a piece are charged together (log 133). -/
def portTurn (s : Hw) (p key : Nat) (new : Bool) : Option Hw :=
  let asks := portAsks s p key
  let d := (s.ctx (key / 16)).domain
  let arb := if new then (s.mmp p).arb.arrive d (asks.any fun a => a.domain = d && a.key != key) else (s.mmp p).arb
  let heads := (risingNats (asks.map (·.domain))).filterMap fun d => leastBy (·.seq) (asks.filter fun a => a.domain = d)
  match arbPick (domWeight s.active) (heads.map fun a => (a.domain, a.beats)) arb with
  | some (d', arb) =>
    if heads.any fun a => a.domain = d' && a.key = key then some (s.modMmp p fun m => { m with arb := arb }) else none
  | none => none

/-- Issue the next piece of a transfer (R26, R27, R50, R75, R159, R286, R434). None starts from released ranges while their
scrub runs: it ends with the scrub (R160). An XLIB's range is checked before AWL_LOAD (log 134). -/
def xferPiece (s : Hw) (key : Nat) (j : Job) (read : List WordErrors) : Hw :=
  let c := key / 16
  let x := s.ctx c
  if j.outward && rgHeld x (xferRange j) then s
  else if x.scrubbing.isSome && j.pieces.isEmpty && fromReleased x j then s
  else if xferIssued x j then
    if xferDecided x j then xferSettle s key else xferSettle (readSegment s c false) key
  else match j.op with
    | .xlib a _ =>
      let n := min 4096 (xferBytes x j - j.pos)
      if !s.awlLoad then xferStop s key stKeyDenied
      else if s.seam.st != .ready then xferStop (editLost s) key stKeyDenied
      else xferRead s key j n read fun s => libPiece s key j (a.toNat + j.pos) n
    | _ =>
      if fromReleased x j && !scrubKnown x j then
        match xferList j with | some out => xferSettle (readSegment s c out) key | none => s
      else if scrubWaits s key j then s
      else if fromReleased x j && j.pos = 0 && scrubFull x j then xferStop s key stQuota
      else match xferCut x j with
        | none =>
          match xferList j with
          | some out =>
            match (walkOf x out).fail with
            | some st => xferStop s key st
            | none =>
              let s := readSegment s c out
              match (walkOf (s.ctx c) out).fail with | some st => xferStop s key st | none => s
          | none => s
        | some (addr, n) =>
          if peerBase ≤ addr then xferRead s key j n read fun s => peerPiece s key j addr n
          else match winCheck (s.cfgOf c) x.domain addr j.outward with
          | none => xferStop s key stWindowFault
          | some attr =>
            match xferPort s j with
            | none => xferStop s key stEngineFenced
            | some p =>
              if mmRoom s p j.outward (cutsOf addr n).length then
                match portTurn s p key (j.port != some p) with
                | some s => xferRead s key j n read fun s => issuePiece s key j p addr n attr
                | none => s
              else s

/-- A scatter's share of BYTES grows by what it has moved since, up to a disagreement of the input's length (R27, R52,
R57). -/
def countBytes (s : Hw) (key : Nat) (j : Job) (was : Nat) : Hw :=
  match j.op with
  | .xscat _ => s.modCtx (key / 16) fun x =>
      if x.mismatch then x else { x with bytes := x.bytes + BitVec.ofNat 64 (movedBytes j - was) }
  | _ => s

/-- A transaction of a piece ends: its bytes land, or its piece fails and no later piece is issued (R27, R433, R434). -/
def pieceDone (s : Hw) (key k off : Nat) (data : Bytes) (err : Option (BitVec 8)) : Hw :=
  match s.job key with
  | none => s
  | some j =>
    let s := if err.isSome || j.outward then s else rgWrite s (key / 16) (rgSub (xferRange j) off data.length) data
    let was := movedBytes j
    let j := { j with pieces := j.pieces.mapIdx fun i p => if i = k then { p with out := p.out - 1, bad := p.bad || err.isSome } else p }
    let j := match err with
      | some st => if j.stopped then j else { j with stopped := true, phase := .closing, final := st }
      | none => j
    xferSettle ((countBytes s key j was).setJob key j) key

/-! ### SIGNAL (R125) -/

/-- Issue the write of a SIGNAL; it waits while its port has no tag. -/
def signalIssue (s : Hw) (key : Nat) (j : Job) (addr value : Word) : Hw :=
  let d := (s.ctx (key / 16)).domain
  match winCheck (s.cfgOf (key / 16)) d addr.toNat true with
  | none => finishFree s key stWindowFault
  | some attr =>
    match mmBind s with
    | none => finishFree s key stEngineFenced
    | some p =>
      match mmIssue s p true addr.toNat 8 (leBytes 8 value.toNat) d attr (.signal key) with
      | some s' => (mmChose s' p).setJob key { j with phase := .closing, port := some p }
      | none => s.setJob key { j with phase := .queued }

/-! ### Scrubs (R160, R161) -/

/-- Transfers from released ranges that have issued pieces and are not done. -/
def scrubBlocked (s : Hw) (c : Nat) : Bool :=
  (s.jobsOf c).any fun e => fromReleased (s.ctx c) e.2 && (outstanding e.2 != 0 || (!e.2.pieces.isEmpty && !e.2.stopped))

/-- Issue the next write of a scrub; a refused piece stops it (R160, R161). -/
def scrubPiece (s : Hw) (c : Nat) (k : Scrub) : Hw :=
  match (s.ctx c).scrub with
  | [] => s
  | (a, n) :: r =>
    if k.refused || scrubBlocked s c then s
    else
      let m := min n (4096 - a % 4096)
      let rest := if m = n then r else (a + m, n - m) :: r
      let refuse := s.modCtx c fun x => { x with scrubbing := some { k with refused := true } }
      if peerBase ≤ a then
        match (s.ctx c).peer with
        | some (link, id) =>
          linkSend (s.modCtx c fun x => { x with scrub := rest, scrubbing := some { k with out := k.out + 1 } }) link.toNat 5
            (dataMessage 2 id false (a - peerBase) (leBytes 8 0 ++ leBytes 4 m))
        | none => refuse
      else match winCheck (s.cfgOf c) (s.ctx c).domain a true, mmBind s with
      | some attr, some p =>
        if mmRoom s p true (cutsOf a m).length then
          let s := mmPiece s p true a m (zeros m) (s.ctx c).domain attr fun _ => .scrub c
          (mmChose s p).modCtx c fun x => { x with
            scrub := rest
            scrubbing := some { k with out := k.out + (cutsOf a m).length } }
        else s
      | _, _ => refuse

/-- A scrub write ends. -/
def scrubWritten (s : Hw) (c : Nat) (err : Bool) : Hw :=
  s.modCtx c fun x => { x with scrubbing := x.scrubbing.map fun k => { k with out := k.out - 1, refused := k.refused || err } }

/-- The end of a scrub, complete or stopped (R160, R161): the handle ranges are zeroed, the streams are no longer undecided,
the lead ticket or the posted status takes its status, and so does every transfer that was refused its start. -/
def scrubEnd (s : Hw) (c : Nat) (k : Scrub) (complete : Bool) : Hw :=
  let old := s.ctx c
  let s := (releasedRanges old).foldl (fun s r => rgWrite s c r (zeros (rgLen r))) s
  let st := if complete then k.status else k.stopStatus
  let s := s.modCtx c fun x => { x with
    scrub := [], scrubbing := none, scrubbed := x.scrubbed || complete, unscrubbed := x.unscrubbed || !complete
    posted := if k.post then some st else x.posted
    cstreams := x.cstreams.map fun e => if e.2.undecided && e.2.rel then (e.1, { e.2 with undecided := false, held := [] }) else e }
  let s := s.modPair k.pair fun p =>
    if complete then { p with scrubbed := satInc p.scrubbed } else { p with unscrubbed := satInc p.unscrubbed }
  let s := note s (pairUnit k.pair) (if complete then 2 else 3)
  let s := match k.ticket with
    | some t => endJob s (jobKey c t) st
    | none => s
  let s := k.also.foldl (fun s w => endJob s (jobKey c w.1) (if complete then w.2.1 else w.2.2)) s
  endJobs s c (fun j => j.phase != .after && j.pieces.isEmpty && fromReleased old j) st

end Sys2Proof.Machine
end

