-- ==== Sys2Proof/Machine/PkJob.lean ====
section
/-! DEFINITION. Public-key operations: the table of R192 and R193, their fixed counts (R197 to R200, R208), their results
and edge inputs (R201 to R205), and the queue of a bench (R207, R229). -/

namespace Sys2Proof.Machine

/-! ### The block (R120) -/

/-- OP. -/
def kbOp (b : Block) : Nat := fld (wordOf b 0) 0 16
/-- WORDS. -/
def kbWords (b : Block) : Nat := fld (wordOf b 0) 16 9
/-- KEYED. -/
def kbKeyed (b : Block) : Bool := bit (wordOf b 0) 49
/-- MSG_LEN. -/
def kbMsg (b : Block) : Nat := fld (wordOf b 0) 50 14
/-- INk. -/
def kbIn (b : Block) (k : Nat) : Word := wordOf b (1 + k)
/-- OUTk. -/
def kbOut (b : Block) (k : Nat) : Word := wordOf b (5 + k)
/-- CURVE. -/
def kbCurve (b : Block) : Word := wordOf b 7

/-! ### The operations (R192, R193) -/

/-- One of three numbers by a digit 1, 2, 3. -/
def pick3 (k a b c : Nat) : Nat := match k with | 1 => a | 2 => b | _ => c

/-- The families of operations. -/
inductive PkFam where
  | modular | rsa | ec | loaded | ed25519 | ed448 | x25519 | x448 | kem (k : Nat) | dsa (k : Nat)
deriving DecidableEq, Repr

/-- The family and the last digit of an OP; none for a reserved one. -/
def pkFam (op : Nat) : Option (PkFam × Nat) :=
  let d := op % 16
  match op with
  | 0x0001 | 0x0002 => some (.modular, d)
  | 0x0003 | 0x0004 => some (.rsa, d)
  | 0x0211 | 0x0212 | 0x0215 => some (.ed25519, d)
  | 0x0231 | 0x0232 | 0x0235 => some (.ed448, d)
  | 0x0223 | 0x0224 | 0x0225 => some (.x25519, d)
  | 0x0243 | 0x0244 | 0x0245 => some (.x448, d)
  | _ =>
    let k := op / 16 % 16
    if op / 256 = 1 && (k = 0xC) then none
    else if op / 256 = 1 && 1 ≤ d && d ≤ 5 && (k = 1 || k = 2 || k = 3 || k = 0xF) then
      some (if k = 0xF then .loaded else .ec, d)
    else if op / 256 = 3 && 1 ≤ k && k ≤ 3 && (d = 1 || d = 2 || d = 5) then some (.kem k, d)
    else if op / 256 = 3 && 4 ≤ k && k ≤ 6 && 1 ≤ d && d ≤ 5 then some (.dsa k, d)
    else none

/-- The algorithm code that a keyed operation asks of its slot (R233). -/
def pkAlg (op : Nat) : Nat :=
  match pkFam op with
  | some (.rsa, _) => 0x40
  | some (.ec, _) => 0x40 + op / 16 % 16
  | some (.loaded, _) => 0x4F
  | some (.ed25519, _) => 0x50
  | some (.x25519, _) => 0x51
  | some (.ed448, _) => 0x52
  | some (.x448, _) => 0x53
  | some (.kem k, _) => 0x5F + k
  | some (.dsa k, _) => 0x60 + k
  | _ => 0

/-- Whether WORDS is right for an operation (R193). -/
def pkWordsOk (op w : Nat) : Bool :=
  match pkFam op with
  | some (.modular, _) => 4 ≤ w && w ≤ 256
  | some (.rsa, d) => 4 ≤ w && w ≤ 256 && (d != 4 || w % 2 = 0)
  | some (.ec, _) => w = (match op / 16 % 16 with | 1 => 4 | 2 => 6 | _ => 9)
  | some (.loaded, _) => 4 ≤ w && w ≤ 10
  | some (.ed25519, _) | some (.x25519, _) => w = 4
  | some (.ed448, _) | some (.x448, _) => w = 7
  | some (.kem k, _) => w = 4 + 4 * k
  | some (.dsa k, _) => w = (match k with | 4 => 16 | 5 => 24 | _ => 32)
  | none => false

/-- The operation is a verification. -/
def pkVerify (op : Nat) : Bool :=
  match pkFam op with
  | some (.ec, d) | some (.loaded, d) | some (.ed25519, d) | some (.ed448, d) => d = 2
  | some (.dsa _, d) => d = 2 || d = 4
  | _ => false

/-- The operation signs with ML-DSA (R200). -/
def pkDsaSign (op : Nat) : Bool := match pkFam op with | some (.dsa _, d) => d = 1 || d = 3 | _ => false

/-- The operation gives a public key from a stored one: "algorithm only" (R194). -/
def pkPublic (op : Nat) : Bool := match pkFam op with | some (.modular, _) | some (.rsa, _) => false | some (_, d) => d = 5 | none => false

/-- KEYED may be 0, and may be 1 (R192). -/
def pkKeyedOk (op : Nat) (keyed : Bool) : Bool :=
  match pkFam op with
  | some (.modular, _) => !keyed
  | some (.rsa, d) => d = 3 || keyed
  | some (.kem _, d) => if d = 1 then !keyed else keyed
  | some (_, d) => if pkVerify op then true else if d = 4 then !keyed else keyed
  | none => false

/-- The uses, any of which a keyed operation needs (R192); none for "algorithm only". -/
def pkUses (op : Nat) : List Nat :=
  match pkFam op with
  | some (.rsa, d) => if d = 3 then [1, 4] else [3, 2]
  | some (.kem _, d) => if d = 2 then [5] else []
  | some (_, d) => if pkVerify op then [4] else if d = 5 then [] else if d = 1 || pkDsaSign op then [3] else if d = 3 then [5] else []
  | none => []

/-- HLEN of an ECDSA input (R193). -/
def hashLen (op w : Nat) : Nat :=
  match op / 16 % 16 with
  | 1 => 32
  | 2 => 48
  | 3 => 64
  | _ => if w ≤ 7 then 8 * w else 64

/-- Encapsulation key and ciphertext of ML-KEM (R193). -/
def kemLens (k : Nat) : Nat × Nat := match k with | 1 => (800, 768) | 2 => (1184, 1088) | _ => (1568, 1568)
/-- Public key and signature of ML-DSA (R193). -/
def dsaLens (k : Nat) : Nat × Nat := match k with | 4 => (1312, 2420) | 5 => (1952, 3309) | _ => (2592, 4627)

/-- The inputs of an operation, as the number of the IN field and a length (R192, R193). -/
def pkIns (op w msg : Nat) (keyed : Bool) : List (Nat × Nat) :=
  let pub := fun n => if keyed then [] else [(1, n)]
  match pkFam op with
  | some (.modular, d) => [(0, 8 * w), (1, 8 * w), (2, if d = 1 then 8 * w else 8)]
  | some (.rsa, d) => (if d = 3 && !keyed then [(0, 8 * w)] else []) ++ [(1, 8 * w)]
  | some (.ec, d) | some (.loaded, d) =>
    match d with
    | 1 => [(0, hashLen op w)]
    | 2 => [(0, hashLen op w)] ++ pub (16 * w) ++ [(2, 16 * w)]
    | 3 | 4 => [(0, 16 * w)]
    | _ => []
  | some (.ed25519, d) => match d with | 1 => [(0, msg)] | 2 => [(0, msg)] ++ pub 32 ++ [(2, 64)] | _ => []
  | some (.ed448, d) => match d with | 1 => [(0, msg)] | 2 => [(0, msg)] ++ pub 57 ++ [(2, 114)] | _ => []
  | some (.x25519, d) => if d = 5 then [] else [(0, 32)]
  | some (.x448, d) => if d = 5 then [] else [(0, 56)]
  | some (.kem k, d) => match d with | 1 => [(0, (kemLens k).1)] | 2 => [(0, (kemLens k).2)] | _ => []
  | some (.dsa k, d) =>
    match d with
    | 1 => [(0, msg)]
    | 2 => [(0, msg)] ++ pub (dsaLens k).1 ++ [(2, (dsaLens k).2)]
    | 3 => [(0, 64)]
    | 4 => [(0, 64)] ++ pub (dsaLens k).1 ++ [(2, (dsaLens k).2)]
    | _ => []
  | none => []

/-- The results of an operation, as the number of the OUT field and a length (R192, R193). -/
def pkOuts (op w : Nat) : List (Nat × Nat) :=
  if pkVerify op then []
  else match pkFam op with
    | some (.modular, _) | some (.rsa, _) => [(0, 8 * w)]
    | some (.ec, d) | some (.loaded, d) =>
      match d with
      | 1 | 5 => [(0, 16 * w)]
      | 3 => [(0, 8 * w)]
      | _ => [(0, 16 * w), (1, 8 * w)]
    | some (.ed25519, d) => [(0, if d = 1 then 64 else 32)]
    | some (.ed448, d) => [(0, if d = 1 then 114 else 57)]
    | some (.x25519, d) => if d = 4 then [(0, 32), (1, 32)] else [(0, 32)]
    | some (.x448, d) => if d = 4 then [(0, 56), (1, 56)] else [(0, 56)]
    | some (.kem k, d) => match d with | 1 => [(0, (kemLens k).2), (1, 32)] | 2 => [(0, 32)] | _ => [(0, (kemLens k).1)]
    | some (.dsa k, d) => if d = 5 then [(0, (dsaLens k).1)] else [(0, (dsaLens k).2)]
    | none => []

/-- The operation draws randomness (R195). -/
def pkDraws (op : Nat) : Bool :=
  match pkFam op with
  | some (.ec, d) | some (.loaded, d) => d = 1 || d = 4
  | some (.x25519, d) | some (.x448, d) => d = 4
  | some (.kem _, d) => d = 1
  | some (.dsa _, d) => d = 1 || d = 3
  | _ => false

/-- The bytes drawn to form a lattice key: d and z, or ξ (R245). -/
def latticeDraw (op : Nat) : Nat := match pkFam op with | some (.kem _, _) => 64 | _ => 32

/-- The operation runs on a loaded curve. -/
def pkLoaded (op : Nat) : Bool := match pkFam op with | some (.loaded, _) => true | _ => false

/-! ### Refusals at issue (R24, R112, R193) -/

/-- An address the operation uses is not 8 B-aligned (R120, log 25). -/
def pkMisaligned (b : Block) : Bool :=
  (pkIns (kbOp b) (kbWords b) (kbMsg b) (kbKeyed b)).any (fun i => i.2 != 0 && fld (kbIn b i.1) 0 3 != 0) ||
    (pkOuts (kbOp b) (kbWords b)).any (fun o => fld (kbOut b o.1) 0 3 != 0) ||
    (pkLoaded (kbOp b) && fld (kbCurve b) 0 6 != 0)

/-- What makes a public-key block DESCRIPTOR_INVALID at issue. -/
def pkBad (b : Block) : Bool :=
  (pkFam (kbOp b)).isNone || fld (wordOf b 0) 25 7 != 0 || !pkKeyedOk (kbOp b) (kbKeyed b) || !pkWordsOk (kbOp b) (kbWords b) ||
    (pkLoaded (kbOp b) != (kbCurve b != 0)) || pkMisaligned b

/-- The refusals of R24. -/
def pkFlags (cfg : CfgSet) (d : Nat) (b : Block) : Option (BitVec 8) :=
  if domPkMax cfg d < kbWords b then some stInputRange
  else if pkLoaded (kbOp b) && !domFlag cfg d 4 then some stCurveRejected
  else none

/-- What a keyed job asks of its slot (R192, R194, R234). -/
def pkAsk (b : Block) : KeyAsk :=
  { uses := pkUses (kbOp b), algs := [pkAlg (kbOp b)]
    words := if pkAlg (kbOp b) = 0x40 || pkAlg (kbOp b) = 0x4F then some (kbWords b) else none
    secret := !pkVerify (kbOp b) && kbOp b != 3, enc := false }

/-! ### Fixed counts (R197 to R200) -/

/-- The rows of R197 for RSA: WORDS and the count of RSA_PRIV_CRT. -/
def rsaRows : List (Nat × Nat) :=
  [(32, 2400000), (48, 7600000), (64, 17800000), (128, 138000000), (256, 1090000000)]

/-- RSA_PRIV_CRT (R197, R198). -/
def rsaPriv (w : Nat) : Nat :=
  if w < 32 then ceilDiv (2400000 * w ^ 3) 32768
  else match rsaRows.find? (·.1 = w) with
    | some r => r.2
    | none =>
      match (rsaRows.filter (·.1 < w)).getLast?, rsaRows.find? (w < ·.1) with
      | some a, some b => a.2 + ceilDiv ((b.2 - a.2) * (w ^ 3 - a.1 ^ 3)) (b.1 ^ 3 - a.1 ^ 3)
      | _, _ => 0

/-- MODMUL (R198). -/
def modmulCount (w : Nat) : Nat := ceilDiv (4000 * w ^ 2) 1024

/-- Blocks of MSG_LEN beyond 64 B (R199). -/
def msgBlocks (msg n : Nat) : Nat := ceilDiv (msg - 64) n

/-- The fixed count of an operation with a number of ML-DSA attempts (R197 to R200). -/
def pkCount (op w msg attempts : Nat) : Nat :=
  let c := op / 16 % 16
  match pkFam op with
  | some (.modular, d) => if d = 1 then modmulCount w else 128 * modmulCount w
  | some (.rsa, d) => if d = 3 then ceilDiv (72000 * w ^ 2) 1024 else rsaPriv w
  | some (.ec, d) =>
    match d with
    | 1 => pick3 c 180000 410000 900000
    | 2 => pick3 c 340000 775000 1700000
    | 4 => pick3 c 340000 776000 1700000
    | _ => pick3 c 170000 388000 850000
  | some (.loaded, d) =>
    match d with
    | 1 => 3600 * w ^ 3 + 20000
    | 2 => 6800 * w ^ 3 + 20000
    | 4 => 2 * (3400 * w ^ 3 + 10000)
    | _ => 3400 * w ^ 3 + 10000
  | some (.ed25519, d) =>
    match d with | 1 => 150000 + 192 * msgBlocks msg 128 | 2 => 290000 + 96 * msgBlocks msg 128 | _ => 140000
  | some (.ed448, d) =>
    match d with | 1 => 420000 + 96 * msgBlocks msg 136 | 2 => 812000 + 48 * msgBlocks msg 136 | _ => 380000
  | some (.x25519, d) => if d = 4 then 280000 else 140000
  | some (.x448, d) => if d = 4 then 760000 else 380000
  | some (.kem k, d) =>
    match d with | 1 => pick3 k 30000 44000 62000 | 2 => pick3 k 40000 58000 80000 | _ => pick3 k 24000 36000 52000
  | some (.dsa k, d) =>
    let add := 48 * (if d = 1 || d = 2 then msgBlocks msg 136 else 0)
    if d = 1 || d = 3 then pick3 (k - 3) 40000 60000 90000 + add + attempts * pick3 (k - 3) 36000 52000 78000
    else if d = 5 then pick3 (k - 3) 70000 110000 170000
    else pick3 (k - 3) 60000 90000 140000 + add
  | none => 0

/-- The cost of a job when it is served: setup and five attempts for ML-DSA signing (R208). -/
def pkCost (op w msg : Nat) : Nat := ceilDiv (pkCount op w msg 5) 65536

/-- S, the length of one segment of a curve check (R229). -/
def segmentCount (w : Nat) : Nat := 6800 * w ^ 3 + 20000

/-! ### Results (R201 to R205) -/

/-- A modulus that an operation accepts: odd, with a nonzero top word (R202). -/
def modulusOk (w n : Nat) : Bool := n % 2 = 1 && 2 ^ (64 * w - 64) ≤ n

/-- The RSA private operation by CRT over a stored form of W words (R191, R192, R233). -/
def rsaCrt (w : Nat) (key : Bytes) (c : Nat) : Nat :=
  let h := 4 * w
  let p := leAt key (8 * w + 8) h
  let q := leAt key (8 * w + 8 + h) h
  let dp := leAt key (8 * w + 8 + 2 * h) h
  let dq := leAt key (8 * w + 8 + 3 * h) h
  let qinv := leAt key (8 * w + 8 + 4 * h) h
  let m1 := modExp (32 * w) (c % p) dp p
  let m2 := modExp (32 * w) (c % q) dq q
  m2 + q * (qinv * (m1 + (p - m2 % p)) % p)

/-- The result of a modular or RSA operation, none for an input out of range (R202). -/
def modularResult (op w : Nat) (key : Bytes) (args : List Bytes) : Option Nat :=
  let a := fun k => leNat (args.getD k [])
  match op with
  | 1 => if modulusOk w (a 0) && a 1 < a 0 && a 2 < a 0 then some (a 1 * a 2 % a 0) else none
  | 2 => if modulusOk w (a 0) && a 1 < a 0 then some (modExp 64 (a 1) (a 2) (a 0)) else none
  | 3 =>
    let n := if args.length = 1 then leAt key 0 (8 * w) else a 0
    let m := leNat (args.getLastD [])
    if modulusOk w n && m < n then some (modExp 17 m 65537 n) else none
  | _ =>
    let n := leAt key 0 (8 * w)
    if modulusOk w n && a 0 < n then some (if a 0 = 0 then 0 else rsaCrt w key (a 0)) else none

/-! ### Loaded curves (R227, R228) -/

/-- The fingerprint of a curve record: the first 32 B of SHAKE256 over it. -/
def curvePrint (b : Bytes) : Bytes := shake256 b 32

/-- The structural checks of R228 on a record against a job's WORDS. -/
def curveShapeOk (b : Bytes) (w : Nat) : Bool :=
  let h := leAt b 0 8
  let p := leAt b 0x40 (8 * w)
  let f := fun k => leAt b (0x40 + 8 * w * k) (8 * w)
  h % 16 = w && 1 ≤ h / 256 % 16 && h / 256 % 16 ≤ 8 && modulusOk w p && 3 < p && f 1 < p && f 2 < p && f 3 < p && f 4 < p &&
    1 < f 5

/-! ### Units and benches -/

/-- A bench's queue and curve table. -/
def Hw.pkb' (s : Hw) (b : Nat) : PkBench := tget {} s.pkb b
/-- Change a bench's queue and curve table. -/
def Hw.modPkb (s : Hw) (b : Nat) (f : PkBench → PkBench) : Hw := { s with pkb := tmod {} s.pkb b f }
/-- A public-key unit. -/
def Hw.pkUnit (s : Hw) (u : Nat) : PkUnit := tget {} s.pku u
/-- Change a unit. -/
def Hw.modPku (s : Hw) (u : Nat) (f : PkUnit → PkUnit) : Hw := { s with pku := tmod {} s.pku u f }

/-! ### Operand memory (R219): half A, whose regions half B repeats 7,168 words on -/

/-- The first byte of A.K. -/
abbrev opKey : Nat := 8 * 2048
/-- The first byte of A.I. -/
abbrev opIn : Nat := 8 * 3072
/-- The first byte of A.W. -/
abbrev opWork : Nat := 8 * 4096
/-- The first byte of A.O. -/
abbrev opOut : Nat := 8 * 8576
/-- From a byte of half A to its like in half B. -/
abbrev opHalf : Nat := 8 * 7168

/-- The operation takes a message, which lies in region M. -/
def pkMessage (op : Nat) : Bool :=
  match pkFam op with
  | some (.ed25519, d) | some (.ed448, d) | some (.dsa _, d) => d = 1 || d = 2
  | _ => false

/-- Where operands of these lengths lie in half A: a message in M, the others one after the other from the start of A.I, each
at a word (log 143). -/
def opLayout (msg : Bool) (lens : List Nat) : List (Nat × Nat) :=
  let step := fun (a : List (Nat × Nat) × Nat) (n : Nat) => (a.1 ++ [(a.2, n)], a.2 + 8 * ceilDiv n 8)
  match msg, lens with
  | true, n :: r => (0, n) :: (r.foldl step ([], opIn)).1
  | _, l => (l.foldl step ([], opIn)).1

/-- Write bytes of half A and, outside M, the same of half B. -/
def opPut (m : Memory) (a : Nat) (b : Bytes) : Memory :=
  if a < opKey then mwrite m a b else mwrite (mwrite m a b) (a + opHalf) b

/-- A unit's operands as one of its halves holds them. -/
def PkUnit.operands (v : PkUnit) (half : Bool) : List Bytes :=
  v.layout.map fun p => mread v.mem (if half && opKey ≤ p.1 then p.1 + opHalf else p.1) p.2

/-- A unit's key as one of its halves holds it. -/
def PkUnit.key (v : PkUnit) (half : Bool) : Bytes := mread v.mem (if half then opKey + opHalf else opKey) v.keyLen

/-- A unit with a key copied to both halves. -/
def PkUnit.takeKey (v : PkUnit) (k : Bytes) : PkUnit := { v with mem := opPut v.mem opKey k, keyLen := k.length }

/-- A unit with operands that lie in the key store. -/
def PkUnit.takeOperands (v : PkUnit) (msg : Bool) (l : List Bytes) : PkUnit :=
  let places := opLayout msg (l.map (·.length))
  { v with layout := places, mem := (places.zip l).foldl (fun m p => opPut m p.1.1 p.2) v.mem }

/-- A unit serves: not fenced, and an image is active (R217). -/
def pkuServes (s : Hw) (u : Nat) : Bool := s.ucode.active && !s.out (pkuUnit u)

/-- A bench's public-key engine counts as unfenced (R206, R217). -/
def pkBenchServes (s : Hw) (b : Nat) : Bool := pkuServes s (2 * b) || pkuServes s (2 * b + 1)

/-! ### A bench's queue (R207, R208, R228, R229, R250) -/

/-- One thing that waits in a bench's queue. -/
structure PkItem where
  domain : Nat
  seq : Nat
  cost : Nat
  work : PkWork
deriving DecidableEq, Repr

/-- The operation of part p of an attestation: the public value, then the two identity signatures (R247). -/
def kattOp (alg p : Nat) : Nat :=
  match p with
  | 1 => 0x0121
  | 2 => 0x0351
  | _ =>
    match alg with
    | 0x41 => 0x0115
    | 0x42 => 0x0125
    | 0x43 => 0x0135
    | 0x4F => 0x01F5
    | 0x50 => 0x0215
    | 0x51 => 0x0225
    | 0x52 => 0x0235
    | 0x53 => 0x0245
    | 0x60 => 0x0315
    | 0x61 => 0x0325
    | 0x62 => 0x0335
    | 0x64 => 0x0345
    | 0x65 => 0x0355
    | _ => 0x0365

/-- WORDS of an attestation's public value: PK_WORDS for a loaded curve, else those of the family (R193, R235). -/
def kattWords (alg pkWords : Nat) : Nat :=
  if alg = 0x4F then pkWords else ((List.range 33).find? fun w => pkWordsOk (kattOp alg 0) w).getD 0

/-- The parts of the key intake's public-key work, as operation and WORDS: the verifications of check 5 (0, 1), the exchanges
of an ENROL (2, 3), the forming of a lattice key under the count of its public-key operation (4), the signatures of a receipt
(5, 6) (R245, R266 to R268, R270). -/
def innerOp (message : Bytes) (part : Nat) : Nat × Nat :=
  match part with
  | 0 => (0x0122, 6)
  | 1 => (0x0352, 24)
  | 2 => (0x0321, 12)
  | 3 => (0x0224, 4)
  | 5 => (0x0121, 6)
  | 6 => (0x0351, 24)
  | _ => let a := fld (wordAt message 9) 8 8; (kattOp a 0, kattWords a 0)

/-- The bench whose public-key units serve a message (R268). -/
def updBench (u : Update) : Nat := match u.source with | .kint k => benchOf (k / 16) | _ => 0

/-- A loaded-curve job waits for an entry that is being checked (R228). -/
def curveWaits (p : PkBench) (domain : BitVec 12) (print : Bytes) : Bool :=
  print != [] && (p.curves.any (fun e => e.domain = domain && e.fingerprint = print && e.st = .checking) ||
    (!(p.curves.any fun e => e.domain = domain && e.fingerprint = print) && 16 ≤ p.curves.length &&
      p.curves.all fun e => e.st = .checking))

/-- What waits in the queue of a bench. -/
def pkItems (s : Hw) (b : Nat) : List PkItem :=
  let jobs := s.jobs.filter fun e => benchOf (e.1 / 16) = b && e.2.phase != .after
  jobs.flatMap (fun e =>
    let d := (s.ctx (e.1 / 16)).domain
    match e.2.op with
    | .pk k =>
      if e.2.phase = .queued && !curveWaits (s.pkb' b) (BitVec.ofNat 12 d) e.2.data then
        [⟨d, e.2.seq, pkCost (kbOp k) (kbWords k) (kbMsg k), .job e.1⟩]
      else []
    | .katt _ _ => e.2.parts.map fun p =>
      let a := wordAt e.2.data 8
      let o := kattOp (fld a 8 8) p
      ⟨d, e.2.seq, pkCost o (match p with | 1 => 6 | 2 => 24 | _ => kattWords (fld a 8 8) (fld a 40 9)) 64, .katt e.1 p⟩
    | _ => []) ++
  ((s.keys.updates.filter fun u => updBench u = b).flatMap fun u => u.parts.map fun p =>
    let o := innerOp u.message p
    ⟨0, u.seq, pkCost o.1 o.2 64, .inner u.id p u.seq⟩) ++
  ((s.pkb' b).curves.filter fun e => e.st = .checking && !e.taken).map fun e =>
    ⟨e.domain.toNat, e.seq, ceilDiv (segmentCount e.words) 65536, .segment b e.id⟩

/-- Jobs in the queue of a bench (PKE_STATUS.QUEUED). -/
def pkQueued (s : Hw) (b : Nat) : Nat :=
  (s.jobs.filter fun e => benchOf (e.1 / 16) = b && (match e.2.op with | .pk _ => e.2.phase = .queued | _ => false)).length +
    (pkItems s b).countP fun i => match i.work with | .job _ => false | _ => true

/-- The item that a bench serves next, with the charge made (R34, R207, R208). -/
def pkNext (s : Hw) (b : Nat) : Option (PkItem × Hw) :=
  let items := pkItems s b
  let ds := risingNats (items.map (·.domain))
  let heads := ds.filterMap fun d => (leastBy (·.seq) (items.filter fun i => i.domain = d))
  match arbPick (domWeight s.active) (heads.map fun h => (h.domain, h.cost)) (s.pkb' b).arb with
  | some (d, a) =>
    match heads.find? fun h => h.domain = d with
    | some h => some (h, s.modPkb b fun p => { p with arb := a })
    | none => none
  | none => none

/-- Work of a domain arrives in a bench's queue (R34). -/
def pkArrive (s : Hw) (b d : Nat) : Hw :=
  s.modPkb b fun p => { p with arb := p.arb.arrive d ((pkItems s b).any fun i => i.domain = d) }

/-- A public-key job is passed to its bench (R24, R113, R194, R207). -/
def pkPass (s : Hw) (key : Nat) (j : Job) (b : Block) : Hw :=
  let c := key / 16
  let cfg := s.cfgOf c
  let d := (s.ctx c).domain
  match pkFlags cfg d b with
  | some st => finish s key st 0
  | none =>
    if !pkBenchServes s (benchOf c) then finish s key stEngineFenced 0
    else match (if kbKeyed b then keyCheck s cfg d (pbSlot b).toNat (pkAsk b) else none) with
      | some st => finish (keyRefused s) key st 0
      | none => (pkArrive s (benchOf c) d).setJob key { j with phase := .queued, seq := s.jobSeq, since := s.clk.core }

end Sys2Proof.Machine
end

