-- ==== Sys2Proof/Machine/PkResult.lean ====
section
/-! DEFINITION. What a public-key operation computes: its status in the order of R201, its ML-DSA attempts, and its results
(R192, R201 to R205), and the checks of a stored form (R270 check 10) and of a loaded curve (R229). -/

namespace Sys2Proof.Machine

/-- What a public-key operation depends on: OP, WORDS, the key, the operands, and the randomness drawn. -/
structure PkIn where
  op : BitVec 16
  words : Nat
  key : Bytes
  args : List Bytes
  rand : Bytes
deriving DecidableEq, Repr

/-- A status, the ML-DSA attempts, and the results, which stand only beside OK (R201). -/
abbrev PkOut := BitVec 8 × Nat × List Bytes

/-- An operation that succeeds. -/
def pkDone (outs : List Bytes) : PkOut := (stOk, 0, outs)
/-- One that ends with a status. -/
def pkEnds (st : BitVec 8) : PkOut := (st, 0, [])
/-- A verification's verdict. -/
def pkVerdict (ok : Bool) : PkOut := if ok then pkDone [] else pkEnds stVerifyFail

/-- The curve of a record (R227). -/
def curveOf (w : Nat) (b : Bytes) : Curve :=
  let f := fun k => leAt b (0x40 + 8 * w * k) (8 * w)
  ⟨f 0, f 1, f 2, f 3, f 4, f 5⟩

/-- A scalar from 1 to n - 1 out of drawn bytes (log 150). -/
def scalarOf (n : Nat) (b : Bytes) : Nat := leNat b % (n - 1) + 1

/-- Short-Weierstrass operations by their digit (R192, R203). -/
def pkEc (c : Curve) (w d : Nat) (i : PkIn) (args : List Bytes) : PkOut :=
  let key := leNat i.key
  let bad := key = 0 || c.n ≤ key
  let peer := pointOf w (args.headD [])
  let share := fun (k : Nat) (own : List Bytes) =>
    match ecMul c k (some peer) with
    | some (x, _) => pkDone (own ++ [leBytes (8 * w) x])
    | none => pkEnds stZeroResult
  match d with
  | 1 =>
    let e := bitsToInt c.n (args.headD [])
    let (r, s) := ecdsaSign c key e (Config.hedge i.rand key e % (c.n - 1) + 1)
    if bad then pkEnds stInputRange
    else if r = 0 || s = 0 then pkEnds stEntropyFail
    else pkDone [leBytes (8 * w) r ++ leBytes (8 * w) s]
  | 2 =>
    let q := pointOf w (if args.length = 2 then i.key else args.getD 1 [])
    let sig := args.getLastD []
    if !onCurve c q then pkEnds stPointInvalid
    else pkVerdict (ecdsaVerify c q (bitsToInt c.n (args.headD [])) (leAt sig 0 (8 * w)) (leAt sig (8 * w) (8 * w)))
  | 3 => if bad then pkEnds stInputRange else if !onCurve c peer then pkEnds stPointInvalid else share key []
  | 4 =>
    let k := scalarOf c.n i.rand
    if !onCurve c peer then pkEnds stPointInvalid else share k [pointBytes w (ecMul c k c.g)]
  | _ => if bad then pkEnds stInputRange else pkDone [pointBytes w (ecMul c key c.g)]

/-- Ed25519 and Ed448 operations (R192, R204). -/
def pkEd (c : Edwards) (d : Nat) (i : PkIn) : PkOut :=
  match d with
  | 1 => pkDone [edSign c i.key (i.args.headD [])]
  | 2 =>
    let a := if i.args.length = 2 then i.key else i.args.getD 1 []
    match edDecode c a with
    | none => pkEnds stPointInvalid
    | some q => if q = (0, 1) then pkEnds stPointInvalid else pkVerdict (edVerify c a (i.args.headD []) (i.args.getLastD []))
  | _ => pkDone [edPublic c i.key]

/-- X25519 and X448 operations on n bytes (R192, R204). -/
def pkX (n d : Nat) (i : PkIn) : PkOut :=
  let k := if d = 4 then i.rand else i.key
  let out := xMul n k (i.args.headD [])
  if d = 5 then pkDone [xMul n k (xBase n)]
  else if out = zeros n then pkEnds stZeroResult
  else pkDone ((if d = 4 then [xMul n k (xBase n)] else []) ++ [out])

/-- ML-KEM operations of a module rank (R192, R205). The one that gives the encapsulation key forms the key itself where the
unit was given a draw, d and z, in place of one (R245). -/
def pkKem (k d : Nat) (i : PkIn) : PkOut :=
  let a := i.args.headD []
  match d with
  | 1 =>
    let r := kemEncaps k a i.rand
    if kemEkOk k a then pkDone [r.1, r.2] else pkEnds stInputRange
  | 2 => pkDone [kemDecaps k i.key a]
  | _ => pkDone [if i.key = [] then kemKeyGen k (i.rand.take 32) (i.rand.drop 32) else kemEk k i.key]

/-- ML-DSA operations of a parameter set (R192, R200, R205). The one that gives the public key forms the key itself where the
unit was given a draw, ξ, in place of one (R245). -/
def pkDsa (s : DsaSet) (d : Nat) (i : PkIn) : PkOut :=
  let a := i.args.headD []
  let pk := if i.args.length = 2 then i.key else i.args.getD 1 []
  let sign := fun mu => match dsaSign s i.key mu i.rand with | some (sig, n) => (stOk, n, [sig]) | none => (stEntropyFail, 200, [])
  match d with
  | 1 => sign (dsaMu ((i.key.drop 64).take 64) a)
  | 2 => pkVerdict (dsaVerify s pk (dsaMu (shake256 pk 64) a) (i.args.getLastD []))
  | 3 => sign a
  | 4 => pkVerdict (dsaVerify s pk a (i.args.getLastD []))
  | _ => pkDone [if i.key = [] then dsaKeyGen s i.rand else dsaPublic s i.key]

/-- What a computation answers (R192, R201, R223). -/
def pkAnswer (i : PkIn) : PkOut :=
  let op := i.op.toNat
  match pkFam op with
  | some (.modular, _) | some (.rsa, _) =>
    match modularResult op i.words i.key i.args with
    | some v => pkDone [leBytes (8 * i.words) v]
    | none => pkEnds stInputRange
  | some (.ec, d) => pkEc (namedCurve (op / 16 % 16)) i.words d i i.args
  | some (.loaded, d) => pkEc (curveOf i.words (i.args.headD [])) i.words d i (i.args.drop 1)
  | some (.ed25519, d) => pkEd ed25519 d i
  | some (.ed448, d) => pkEd ed448 d i
  | some (.x25519, d) => pkX 32 d i
  | some (.x448, d) => pkX 56 d i
  | some (.kem k, d) => pkKem (k + 1) d i
  | some (.dsa k, d) => pkDsa (dsaSet k) d i
  | none => pkDone []

/-- An operation with a stored key and operands. -/
def pkIn (op : Nat) (words : Nat) (key : Bytes) (args : List Bytes) (rand : Bytes := []) : PkIn :=
  { op := BitVec.ofNat 16 op, words := words, key := key, args := args, rand := rand }

/-- The polynomials that an operation decodes from its key and its operands (R220): of ML-KEM t, or u, v and s; of ML-DSA s1,
s2 and t0, or z and t1. -/
def latticePolys (i : PkIn) : List (List Nat) :=
  let a := i.args.headD []
  match pkFam i.op.toNat with
  | some (.kem k, 1) => kemPolys (k + 1) 12 a
  | some (.kem k, 2) =>
    kemPolys (k + 1) (kemDu (k + 1)) a ++ [unpackBits (kemDv (k + 1)) (a.drop (32 * kemDu (k + 1) * (k + 1)))] ++
      kemPolys (k + 1) 12 i.key
  | some (.dsa k, d) =>
    let s := dsaSet k
    if d = 1 || d = 3 then
      let v := dsaSecrets s i.key
      v.1 ++ v.2.1 ++ v.2.2
    else if d = 2 || d = 4 then
      let pk := if i.args.length = 2 then i.key else i.args.getD 1 []
      dsaPolys s.l s.zBits s.gamma1 (i.args.getLastD []) s.tag ++
        (List.range s.k).map fun r => unpackBits 10 ((pk.drop (32 + 320 * r)).take 320)
    else []
  | _ => []

/-- A polynomial in operand memory: coefficient i in half-word rev8(i) of 128 words (R220). -/
def polyBytes (f : List Nat) : Bytes := (List.range 256).flatMap fun h => leBytes 4 (f.getD (revNat 8 h) 0)

/-- Both signatures of an authority or a signer verify over the 48 B of h: ECDSA P-384 and ML-DSA-65 (R215, R270, R411). -/
def bothVerify (h ec ml sigEc sigMl : Bytes) : Bool :=
  (pkAnswer (pkIn 0x0122 6 [] [h, ec, sigEc])).1 = stOk && (pkAnswer (pkIn 0x0352 24 [] [h, ml, sigMl])).1 = stOk

/-- Whether a stored form is a valid key of its algorithm, beyond the private scalars, XTS keys and RSA forms (R270 check 10).
No slot names its loaded curve: of its keys only the all-zero ones are refused, DESIGN CHOICE (log 151). -/
def formOk (alg : Nat) (isPublic : Bool) (k : Bytes) : Bool :=
  let w := match alg with | 0x41 => 4 | 0x42 => 6 | _ => 9
  let decodes := fun c => match edDecode c k with | some q => q != (0, 1) | none => false
  match alg with
  | 0x41 | 0x42 | 0x43 => !isPublic || onCurve (namedCurve (alg % 16)) (pointOf w k)
  | 0x4F => k != zeros k.length
  | 0x50 => !isPublic || decodes ed25519
  | 0x52 => !isPublic || decodes ed448
  | 0x60 | 0x61 | 0x62 => kemDkOk (alg - 0x5E) k
  | _ => true

/-- Whether segment k of a loaded curve's sanity check passes on its record (R229). The bases are an expansion of the
fingerprint that the spec fixes and does not give (log 9). -/
def curveSegmentOk (b : Bytes) (k : Nat) : Bool :=
  let c := curveOf (leAt b 0 8 % 16) b
  let base := Config.mrBase (curvePrint b)
  if k ≤ 3 then roundsPass c.p base (segmentRounds k)
  else if k ≤ 6 then roundsPass c.n (fun i => base (40 + i)) (segmentRounds (k - 3))
  else curveSound c (leAt b 0 8 / 256 % 16)

end Sys2Proof.Machine
end

