-- ==== Sys2Proof/Machine/Seal.lean ====
section
/-! DEFINITION. What the key store derives and shows: the KDF and the identity (R243, R246), the slot record (R235, R236),
stored forms (R232, R233), and the sealed and empty records of the keeper with their places (R251, R294 to R297). -/

namespace Sys2Proof.Machine

/-! ### Derivation (R243) -/

/-- Block i of the KDF of R243. -/
def kdfBlock (k : Bytes) (label : String) (context : Bytes) (l i : Nat) : Bytes :=
  kmac 136 k (ascii "KLN KDF") (beBytes 4 i ++ ascii label ++ [0] ++ context ++ beBytes 4 (8 * l)) 32

/-- kdf(k, label, context, l). -/
def kdf (k : Bytes) (label : String) (context : Bytes) (l : Nat) : Bytes :=
  ((List.range (ceilDiv l 32)).flatMap fun i => kdfBlock k label context l (i + 1)).take l

/-- The life-cycle state code: the highest blown bit, plus 1 (R382). -/
def lcState (s : Hw) : Nat :=
  if bit s.sec.lcBits 4 then 5 else if bit s.sec.lcBits 3 then 4 else if bit s.sec.lcBits 2 then 3
  else if bit s.sec.lcBits 1 then 2 else if bit s.sec.lcBits 0 then 1 else 0

/-- The root that the life-cycle and the debug state select (R241, R395). -/
def rootCode (s : Hw) : RootCode :=
  if s.sec.debug = .full then .none
  else match lcState s with | 1 => .f | 2 | 3 => .d | 4 => .x | _ => .none

/-- The root code of R241. -/
def RootCode.num : RootCode → Nat
  | .none => 0
  | .f => 1
  | .d => 2
  | .x => 3

/-- K_seal (R243). -/
def sealKey (s : Hw) : Bytes :=
  kdf s.keys.rootKey "seal" [s.keys.tgen.setWidth 8, BitVec.ofNat 8 s.keys.root.num] 32

/-- The key of one sealed record (R243). -/
def sealRecKey (s : Hw) (slot : Nat) (counter : Word) (salt : Bytes) : Bytes :=
  kdf (sealKey s) "seal-rec" (beBytes 4 slot ++ beBytes 8 counter.toNat ++ salt) 32

/-- The order n of P-256, P-384 or P-521 by ALG (R243, R245, R270). -/
def ecOrder (alg : Nat) : Nat := (namedCurve (alg % 16)).n

/-- WORDS of a standard curve by ALG (R193). -/
def ecWords (alg : Nat) : Nat := match alg with | 0x41 => 4 | 0x42 => 6 | _ => 9

/-! ### The identity (R246) -/

/-- The P-384 identity scalar as a stored form (R243, R246). -/
def identityEcKey (s : Hw) : Bytes := leBytes 48 (beNat (kdf s.keys.rootKey "id-ec" [] 56) % (ecOrder 0x42 - 1) + 1)

/-- The ML-DSA-65 identity key as a stored form (R243, R246). -/
def identityMlKey (s : Hw) : Bytes := dsaKeyGen (dsaSet 5) (kdf s.keys.rootKey "id-ml" [] 32)

/-- The identity public keys (R246). -/
def identityPublic (s : Hw) : Bytes × Bytes :=
  (pointBytes 6 (ecMul p384 (leNat (identityEcKey s)) p384.g), dsaPublic (dsaSet 5) (identityMlKey s))

/-- KEY_IDEC as bytes; zero until ID_READY. -/
def idecBytes (s : Hw) : Bytes := if s.keys.idReady then s.keys.idEc else zeros 96
/-- KEY_IDML as bytes; zero until ID_READY. -/
def idmlBytes (s : Hw) : Bytes := if s.keys.idReady then s.keys.idMl else zeros 1952

/-- The block's identity digest (R247, R260). -/
def identityDigest (s : Hw) : Bytes := sha384 (idecBytes s ++ idmlBytes s)

/-- The pairing words of block b in a set: VALID, MIRROR, and its identity digest (R412). -/
def pairValid (c : CfgSet) (b : Nat) : Bool := bit (cfgWord c (0xB200 + 64 * b)) 0
/-- A mirror pairing with block b. -/
def pairMirror (c : CfgSet) (b : Nat) : Bool := pairValid c b && bit (cfgWord c (0xB200 + 64 * b)) 1
/-- The identity digest recorded for block b. -/
def pairDigest (c : CfgSet) (b : Nat) : Bytes := wordsBytes ((List.range 6).map fun w => cfgWord c (0xB200 + 64 * b + 8 * (w + 1)))
/-- The mirror partner. -/
def mirrorPartner (s : Hw) : Option Nat := (List.range 8).find? fun b => pairMirror s.active b

/-- The pair identity digest (R415). -/
def pairIdentity (s : Hw) : Option Bytes :=
  (mirrorPartner s).map fun b =>
    let own := identityDigest s
    let other := pairDigest s.active b
    sha384 (ascii "KLN pair" ++ (if s.hns.block.toNat < b then own ++ other else other ++ own))

/-! ### The slot record (R235, R236) -/

/-- A slot has a COUNT word: its algorithm has a counted unit, and it is narrow (R233, R236). -/
def slotCounted (v : Slot) : Bool := countedAlg v.alg.toNat

/-- STATE as it reads in ATTR. -/
def slotStateCode : SlotState → Nat
  | .empty => 0
  | .pending => 1
  | .full => 2
  | .poisoned => 3

/-- The ATTR word with given STATE and SPENT. -/
def attrWord (v : Slot) (st : SlotState) (spent : Bool) : Word :=
  put 50 14 v.klen ||| put 40 9 v.pkWords.toNat ||| putb 36 v.isPublic ||| put 34 2 (slotStateCode st) ||| putb 33 spent |||
    putb 32 v.share ||| putb 31 v.tack ||| putb 30 v.persist ||| put 28 2 v.origin.toNat ||| put 16 12 v.domain.toNat |||
    put 8 8 v.alg.toNat ||| put 0 6 v.uses.toNat

/-- The LIMIT word; zero for an algorithm without a counted unit (R236). -/
def limitWord (v : Slot) : Word := if slotCounted v then put 0 49 v.limit.toNat else 0

/-- The COUNT word. -/
def countWord (v : Slot) : Word :=
  if slotCounted v then putb 51 v.req ||| put 49 2 v.ahead ||| put 0 49 v.counter else 0

/-- The slot record as it reads (R235, R239): the three words of KEY_VIEW. -/
def slotView (s : Hw) (n : Nat) : List Word :=
  if !slotExists n then [0, 0, 0]
  else if slotPending s n then [attrWord {} .pending false, 0, 0]
  else
    let v := s.slot n
    [attrWord v v.st v.spent, limitWord v, countWord v]

/-- The fields that an ATTR and a LIMIT word give a record (R235). -/
def slotOfWords (a l : Word) : Slot :=
  { st := .full, klen := fld a 50 14, pkWords := a.extractLsb' 40 9, isPublic := bit a 36, share := bit a 32
    tack := bit a 31, persist := bit a 30, origin := a.extractLsb' 28 2, domain := a.extractLsb' 16 12
    alg := a.extractLsb' 8 8, uses := a.extractLsb' 0 6, limit := l.extractLsb' 0 49 }

/-! ### Stored forms (R232, R233) -/

/-- The algorithms of R233. -/
def algKnown (a : Nat) : Bool :=
  a = 1 || (3 ≤ a && a ≤ 7) || a = 0x10 || (0x20 ≤ a && a ≤ 0x22) || a = 0x28 || a = 0x29 || (0x40 ≤ a && a ≤ 0x43) ||
    a = 0x4F || (0x50 ≤ a && a ≤ 0x53) || (0x60 ≤ a && a ≤ 0x62) || (0x64 ≤ a && a ≤ 0x66)

/-- Whether KLEN is a stored form's length of an algorithm in its form, with WORDS (R233). -/
def klenOk (a words : Nat) (isPublic : Bool) (n : Nat) : Bool :=
  match a with
  | 1 | 4 | 5 | 6 | 7 => !isPublic && (n = 16 || n = 24 || n = 32)
  | 3 => !isPublic && (n = 32 || n = 64)
  | 0x10 => !isPublic && n = 32
  | 0x20 | 0x21 | 0x22 | 0x28 | 0x29 => !isPublic && 1 ≤ n && n ≤ 64
  | 0x40 => 4 ≤ words && words ≤ 256 && n = (if isPublic then 8 * words + 8 else 28 * words + 8)
  | 0x41 => n = (if isPublic then 64 else 32)
  | 0x42 => n = (if isPublic then 96 else 48)
  | 0x43 => n = (if isPublic then 144 else 72)
  | 0x4F => 4 ≤ words && words ≤ 10 && n = (if isPublic then 16 * words else 8 * words)
  | 0x50 => n = 32
  | 0x52 => n = 57
  | 0x51 => !isPublic && n = 32
  | 0x53 => !isPublic && n = 56
  | 0x60 => !isPublic && n = 1632
  | 0x61 => !isPublic && n = 2400
  | 0x62 => !isPublic && n = 3168
  | 0x64 => n = (if isPublic then 1312 else 2560)
  | 0x65 => n = (if isPublic then 1952 else 4032)
  | 0x66 => n = (if isPublic then 2592 else 4896)
  | _ => false

/-- The USES bits that an algorithm may carry in its form (R233). -/
def usesAllowed (a : Nat) (isPublic : Bool) : Nat :=
  match a with
  | 1 | 3 | 4 | 5 | 6 | 0x10 => 0b000011
  | 7 => 0b100000
  | 0x20 | 0x21 | 0x22 | 0x28 | 0x29 => 0b001100
  | 0x40 => if isPublic then 0b001001 else 0b000110
  | 0x41 | 0x42 | 0x43 | 0x4F => if isPublic then 0b001000 else 0b010100
  | 0x50 | 0x52 | 0x64 | 0x65 | 0x66 => if isPublic then 0b001000 else 0b000100
  | 0x51 | 0x53 | 0x60 | 0x61 | 0x62 => 0b010000
  | _ => 0

/-- Every use that a record carries is allowed (R233, R237). -/
def usesFit (v : Slot) : Bool :=
  (List.range 6).all fun i => !bit v.uses i || bit (BitVec.ofNat 6 (usesAllowed v.alg.toNat v.isPublic)) i

/-- A stored form of n bytes goes into the kind of slot that an ID names (R232). -/
def slotKindOk (slot n : Nat) : Bool := if slotWide slot then 64 < n && n ≤ 8192 else n ≤ 64

/-- Whether a stored form is valid (R270 check 10). -/
def formValid (v : Slot) : Bool :=
  let a := v.alg.toNat
  let k := v.key
  if a = 3 then k.take (k.length / 2) != k.drop (k.length / 2)
  else if (a = 0x41 || a = 0x42 || a = 0x43) && !v.isPublic then 1 ≤ leNat k && leNat k < ecOrder a
  else if a = 0x40 then
    let w := v.pkWords.toNat
    leAt k (8 * w) 8 = 65537 &&
      (v.isPublic || leAt k 0 (8 * w) = leAt k (8 * w + 8) (4 * w) * leAt k (12 * w + 8) (4 * w))
  else if 0x40 ≤ a && a < 0x70 then formOk a v.isPublic k
  else true

/-! ### Records of the keeper (R251, R293, R294) -/

/-- The header word of a record (R294). -/
def recordHeader (s : Hw) (slot klen : Nat) (isEmpty reset : Bool) : Word :=
  put 0 17 slot ||| put 17 6 s.keys.tgen.toNat ||| put 23 2 s.keys.root.num ||| putb 25 isEmpty ||| putb 26 reset |||
    put 27 14 klen

/-- The clear part of a sealed record, its AAD (R251). -/
def recordClear (s : Hw) (slot : Nat) (v : Slot) (counter : Word) (salt : Bytes) (reset : Bool) : Bytes :=
  leBytes 8 (recordHeader s slot v.klen false reset).toNat ++ salt ++ leBytes 8 counter.toNat ++
    leBytes 8 (attrWord v .full false).toNat ++ leBytes 8 (limitWord v).toNat ++ zeros 8

/-- The size of the padded stored form of a slot. -/
def slotSize (slot : Nat) : Nat := if slotWide slot then 8192 else 64

/-- The cipher input of a sealed record: AES-256-GCM under the record key with a zero IV (R251). -/
def recordIn (key aad msg : Bytes) (dir : Bool) : CipherIn :=
  { mode := 1, dir := dir, key := key, iv := zeros 12, aad := aad, msg := msg }

/-- A sealed record (R251, R294). -/
def sealedRecord (s : Hw) (slot : Nat) (v : Slot) (counter : Word) (salt : Bytes) (reset : Bool) : Bytes :=
  let clear := recordClear s slot v counter salt reset
  let n := slotSize slot
  let i := recordIn (sealRecKey s slot counter salt) clear (v.key ++ zeros (n - v.key.length)) false
  clear ++ cipherOutput i ++ cipherTag i

/-- An empty record (R294). -/
def emptyRecord (s : Hw) (slot : Nat) (counter : Word) (reset : Bool) : Bytes :=
  leBytes 8 (recordHeader s slot 0 true reset).toNat ++ zeros 8 ++ leBytes 8 counter.toNat ++ zeros 40

/-- A domain counter record (R293). -/
def domainRecord (counter floor : Word) : Bytes := leBytes 8 counter.toNat ++ leBytes 8 floor.toNat ++ zeros 48

/-! ### Places (R291, R295 to R297) -/

/-- The directory entry of slot directory: VALID, PLACE, TACKED, TACK_IDX. -/
def slotDirEntry (valid : Bool) (p : Nat) (tacked : Bool) (idx : Nat) : Bytes :=
  leBytes 8 (putb 0 valid ||| put 1 1 p ||| putb 2 tacked ||| put 3 9 idx).toNat

/-- The tack directory entry of a slot. -/
def tackDirEntry (valid : Bool) (p slot : Nat) : Bytes :=
  leBytes 8 (putb 0 valid ||| put 1 1 p ||| put 2 17 slot).toNat

/-- The tack index at which a slot stands, if any (R295). -/
def tackOf (s : Hw) (slot : Nat) : Option Nat :=
  (if slotWide slot then (List.range 32).map (· + 512) else List.range 512).find? fun t =>
    bit (dirWord s (tackDirAddr t)) 0 && fld (dirWord s (tackDirAddr t)) 2 17 = slot

/-- A keeper write under way makes a tack directory entry valid. -/
def tackWritten (s : Hw) (t : Nat) : Bool :=
  (s.kp.waiting ++ s.kp.out).any fun w =>
    w.addr ≤ tackDirAddr t && bit (wordAt (w.data.drop (tackDirAddr t - w.addr)) 0) 0

/-- The free tack indices of a slot's kind that no commit in progress takes (R297). -/
def freeTacks (s : Hw) (slot : Nat) : List Nat :=
  (if slotWide slot then (List.range 32).map (· + 512) else List.range 512).filter fun t =>
    !bit (dirWord s (tackDirAddr t)) 0 && !tackWritten s t &&
      !s.keys.updates.any fun u => u.steps.any fun w => w.addr = tackDirAddr t

/-- The lowest of them. -/
def freeTack (s : Hw) (slot : Nat) : Option Nat := (freeTacks s slot).head?

/-- The other place. -/
def otherPlace (p : Nat) : Nat := 1 - p

/-- The main place that is not current: place 0 where the directory names none (R296). -/
def mainFree (s : Hw) (slot : Nat) : Nat :=
  let e := dirWord s (slotDirAddr slot)
  if bit e 0 then otherPlace (fld e 1 1) else 0

/-- The writes that put a record into the place that is not current, with their commit point (R296). `tacked` says that the
slot is a tack slot after the update. -/
def recordSteps (s : Hw) (slot : Nat) (record : Bytes) (tacked : Bool) : List UpdWrite :=
  let e := dirWord s (slotDirAddr slot)
  match tackOf s slot, tacked with
  | none, false =>
    let p := mainFree s slot
    [⟨mainAddr slot p, record, false⟩, ⟨slotDirAddr slot, slotDirEntry true p false 0, true⟩]
  | some t, true =>
    let p := otherPlace (fld (dirWord s (tackDirAddr t)) 1 1)
    [⟨tackAddr t p, record, false⟩, ⟨tackDirAddr t, tackDirEntry true p slot, true⟩]
  | none, true =>
    match freeTack s slot with
    | some t =>
      [⟨tackAddr t 0, record, false⟩, ⟨tackDirAddr t, tackDirEntry true 0 slot, true⟩,
        ⟨slotDirAddr slot, slotDirEntry (bit e 0) (fld e 1 1) true (t % 512), false⟩]
    | none => []
  | some t, false =>
    let p := mainFree s slot
    [⟨mainAddr slot p, record, false⟩, ⟨slotDirAddr slot, slotDirEntry true p false 0, false⟩,
      ⟨tackDirAddr t, zeros 8, true⟩]

end Sys2Proof.Machine
end

