-- ==== Sys2Proof/Machine/Updates.lean ====
section
/-! DEFINITION. Key updates: the message (R260, R261), the checks of R270, staging (R273 step 2), the keeper writes of a
commit (R273 step 3, R296), the flip (R238, R274) and the end of a message (R268, R279). -/

namespace Sys2Proof.Machine

/-! ### The message (R260) -/

/-- HDR. -/
def umHdr (m : Bytes) : Word := wordAt m 0
/-- KIND. -/
def umKind (m : Bytes) : Nat := fld (umHdr m) 8 8
/-- TOTAL_LEN. -/
def umTotal (m : Bytes) : Nat := fld (umHdr m) 32 32
/-- DOMAIN. -/
def umDomain (m : Bytes) : Nat := fld (wordAt m 1) 0 12
/-- SLOT. -/
def umSlot (m : Bytes) : Nat := fld (wordAt m 1) 12 17
/-- AUTH_SLOT. -/
def umAuth (m : Bytes) : Nat := fld (wordAt m 1) 29 17
/-- COUNTER. -/
def umCounter (m : Bytes) : Word := wordAt m 2
/-- TARGET. -/
def umTarget (m : Bytes) : Bytes := (m.drop 0x18).take 48
/-- NEW_ATTR. -/
def umAttr (m : Bytes) : Word := wordAt m 9
/-- NEW_LIMIT. -/
def umLimit (m : Bytes) : Word := wordAt m 10
/-- BODY_LEN. -/
def umBodyLen (m : Bytes) : Nat := fld (wordAt m 11) 0 32
/-- AUTH_EC followed by AUTH_ML. -/
def umAuthKeys (m : Bytes) : Bytes := (m.drop 0x80).take 2048
/-- BODY. -/
def umBody (m : Bytes) : Bytes := (m.drop 0x880).take (umBodyLen m)
/-- h. -/
def umHash (m : Bytes) : Bytes := sha384 (m.take (0x880 + umBodyLen m))
/-- The record that NEW_ATTR and NEW_LIMIT give. -/
def umSlotRecord (m : Bytes) : Slot := slotOfWords (umAttr m) (umLimit m)

/-- DELIVER. -/
abbrev kDeliver : Nat := 0x01
/-- GENERATE. -/
abbrev kGenerate : Nat := 0x02
/-- SET_ATTR. -/
abbrev kSetAttr : Nat := 0x03
/-- DESTROY. -/
abbrev kDestroy : Nat := 0x04
/-- ENROL. -/
abbrev kEnrol : Nat := 0x10
/-- RETIRE. -/
abbrev kRetire : Nat := 0x11

/-- A kind of R261. -/
def umKnown (k : Nat) : Bool := (1 ≤ k && k ≤ 4) || k = kEnrol || k = kRetire

/-- BODY_LEN for the kind (R261, R263). -/
def umBodyOk (m : Bytes) : Bool :=
  let k := umKind m
  umBodyLen m = (if k = kDeliver then max 16 (8 * ceilDiv (fld (umAttr m) 50 14) 8) + 8 else if k = kEnrol then 3264 else 0)

/-- An ENROL by domain 0 over another authority: a reset, not a rotation (R261). -/
def umReset (s : Hw) (m : Bytes) : Bool := umKind m = kEnrol && slotExists (umAuth m) && umAuth m != umSlot m && (s.slot (umAuth m)).domain = 0

/-- The floor of the domain becomes COUNTER: an ENROL by reset, or RETIRE (R273, R275). -/
def umFloors (s : Hw) (m : Bytes) : Bool := umReset s m || umKind m = kRetire

/-! ### Checks 1 to 4 (R262, R270) -/

/-- Check 1. -/
def updCheck1 (m : Bytes) : Bool :=
  fld (umHdr m) 0 8 = 1 && umKnown (umKind m) && umTotal m = m.length && umTotal m = 5581 + umBodyLen m && umBodyOk m &&
    fld (umHdr m) 16 16 = 0 && fld (wordAt m 1) 46 18 = 0 && fld (wordAt m 11) 32 32 = 0 &&
    (m.drop 0x60).take 32 = zeros 32 && (umKind m != kRetire || umSlot m = 0)

/-- DOM_CTL.PK_MAX_WORDS of domain 0 allows the intake's jobs (R268). -/
def intakePk (s : Hw) : Bool := 24 ≤ domPkMax s.active 0

/-- TARGET names this block, or its pair while it is mirrored (R270 check 3). -/
def targetOk (s : Hw) (t : Bytes) : Bool :=
  t = identityDigest s || (s.hns.mirror = .mirrored && pairIdentity s = some t)

/-- Domain 0 holds a FULL slot of ALG 0x70 (R262, R279). -/
def d0Auth (s : Hw) : Bool := s.keys.slots.any fun e => e.2.st = .full && e.2.alg = 0x70 && e.2.domain = 0

/-- The first authority of domain 0 (R262). -/
def firstAuthority (s : Hw) (m : Bytes) : Bool :=
  umAuth m = 0x1FFFF && umKind m = kEnrol && umDomain m = 0 && !d0Auth s && (lcState s = 1 || lcState s = 2) &&
    umAuthKeys m = (umBody m).take 2048

/-- The authority digest of a pair of public keys (R265). -/
def authDigest (keys : Bytes) : Bytes := (sha384 keys).take 32

/-- The owner that AUTH_SLOT needs (R261). -/
def authOwnerOk (m : Bytes) (owner : Nat) : Bool :=
  let d := umDomain m
  if umKind m = kEnrol then (owner = d && umSlot m = umAuth m) || owner = 0
  else if umKind m = kRetire then owner = d || owner = 0
  else owner = d

/-- Check 4: the status that refuses, if any. -/
def updCheck4 (s : Hw) (m : Bytes) : Option (BitVec 8) :=
  if firstAuthority s m then none
  else if !slotExists (umAuth m) then some stKeyDenied
  else if slotPending s (umAuth m) then some stKeyPending
  else
    let v := s.slot (umAuth m)
    if v.st = .full && v.alg = 0x70 && authOwnerOk m v.domain.toNat && authDigest (umAuthKeys m) = v.key.take 32 then none
    else some stKeyDenied

/-- Checks 1 to 4 in order: status and reason of the first that fails. A partner repeats checks 3 and 4 alone (R278). -/
def updChecks14 (s : Hw) (src : UpdSource) (m : Bytes) : Option (BitVec 8 × BitVec 4) :=
  if !updCheck1 m then some (stDescriptorInvalid, 1)
  else if src != .partner && (!s.keys.idReady || !s.ucode.active) then some (stEngineFenced, 2)
  else if src != .partner && !intakePk s then some (stInputRange, 2)
  else if !targetOk s (umTarget m) then some (stKeyDenied, 3)
  else (updCheck4 s m).map fun st => (st, 4)

/-! ### Checks 5 to 8 (R237, R264, R270, R271, R297) -/

/-- The stored update counter of a domain. -/
def domCounter (s : Hw) (d : Nat) : Word := tget 0 s.keys.counters d
/-- The floor of a domain. -/
def domFloor (s : Hw) (d : Nat) : Word := tget 0 s.keys.floors d

/-- The counters reserved for a domain (R271, R411). -/
def reservedCounters (s : Hw) (d : Nat) : List Word :=
  ((s.keys.updates.filter fun u => u.half && umDomain u.message = d && u.stage != .receipt).map fun u => umCounter u.message) ++
    (if d = 0 then (match s.hns.ceremony with | some (_, a, _) => [wordAt a 2] | none => []) else [])

/-- Check 6. -/
def updCheck6 (s : Hw) (m : Bytes) : Bool :=
  domCounter s (umDomain m) < umCounter m && (reservedCounters s (umDomain m)).all fun r => r < umCounter m

/-- Reserved bits of NEW_ATTR and NEW_LIMIT, and the fields that Kalnader alone sets (R235, R264). -/
def attrZeros (m : Bytes) : Bool :=
  let a := umAttr m
  !bit a 49 && fld a 37 3 = 0 && fld a 6 2 = 0 && fld a 34 2 = 0 && !bit a 33 && fld a 28 2 = 0 && fld (umLimit m) 49 15 = 0

/-- NEW_ATTR meets R233, R237 and R264. -/
def attrOk (s : Hw) (m : Bytes) : Bool :=
  let v := umSlotRecord m
  let a := v.alg.toNat
  let k := umKind m
  if k = kDestroy || k = kRetire then umAttr m = 0 && umLimit m = 0
  else
    attrZeros m && v.domain.toNat = umDomain m &&
      (if k = kEnrol then a = 0x70 && v.klen = 64 && v.uses = 0 && !v.isPublic && !v.share && v.pkWords = 0
       else
        usesFit v &&
          (if k = kSetAttr then
            let o := s.slot (umSlot m)
            o.st = .full && o.alg = v.alg && o.klen = v.klen && o.pkWords = v.pkWords && o.isPublic = v.isPublic &&
              o.domain = v.domain
           else
            algKnown a && klenOk a v.pkWords.toNat v.isPublic v.klen && (a = 0x40 || a = 0x4F || v.pkWords = 0) &&
              (k != kGenerate || (!v.isPublic && a != 0x40 && a != 0x4F))))

/-- SLOT is of the right kind and the domain's (R232, R270). -/
def slotFits (s : Hw) (m : Bytes) : Bool :=
  let n := umSlot m
  let v := s.slot n
  slotExists n && domSlotOk s.active (umDomain m) n &&
    (umKind m = kDestroy || slotKindOk n (fld (umAttr m) 50 14)) &&
    (v.st = .empty || v.domain.toNat = umDomain m)

/-- The update leaves a sealed slot that takes a tack index (R295). -/
def umTacked (m : Bytes) : Bool := bit (umAttr m) 30 && bit (umAttr m) 31

/-- Messages past check 7 whose commits will take a tack index of a slot's kind. -/
def tackClaims (s : Hw) (slot : Nat) : Nat :=
  (s.keys.updates.filter fun u => u.half && (u.stage = .staging || u.stage = .partner) && umTacked u.message &&
    slotWide (umSlot u.message) = slotWide slot && (tackOf s (umSlot u.message)).isNone).length

/-- Check 7: the status that refuses, if any. A RETIRE names no slot; that of domain 0 is refused (R261). -/
def updCheck7 (s : Hw) (m : Bytes) : Option (BitVec 8) :=
  if umKind m = kRetire then (if umDomain m = 0 || !attrOk s m then some stKeyDenied else none)
  else if !slotExists (umSlot m) || !domSlotOk s.active (umDomain m) (umSlot m) then some stKeyDenied
  else if slotPending s (umSlot m) then some stKeyPending
  else if !slotFits s m || !attrOk s m then some stKeyDenied
  else if umTacked m && (tackOf s (umSlot m)).isNone && (freeTacks s (umSlot m)).length ≤ tackClaims s (umSlot m) then some stKeyDenied
  else none

/-- Check 8: a persistent key needs a live root. -/
def updCheck8 (s : Hw) (m : Bytes) : Bool := !bit (umAttr m) 30 || s.keys.root != .none

/-- Checks 6 to 8 in order. -/
def updChecks68 (s : Hw) (m : Bytes) : Option (BitVec 8 × BitVec 4) :=
  if !updCheck6 s m then some (stKeyDenied, 6)
  else match updCheck7 s m with
    | some st => some (st, 7)
    | none => if updCheck8 s m then none else some (stKeyDenied, 8)

/-! ### Updates in progress -/

/-- The update with an id. -/
def updOf (s : Hw) (id : Nat) : Option Update := s.keys.updates.find? fun u => u.id = id
/-- Write an update. -/
def setUpd (s : Hw) (u : Update) : Hw :=
  { s with keys := { s.keys with updates := s.keys.updates.map fun v => if v.id = u.id then u else v } }
/-- Remove an update. -/
def dropUpd (s : Hw) (id : Nat) : Hw :=
  { s with keys := { s.keys with updates := s.keys.updates.filter fun v => v.id != id } }

/-- A port's intake. -/
def Hw.intake (s : Hw) (p : CtlPort) : Intake := match p with | .ctla => s.keys.intakeA | .ctlb => s.keys.intakeB
/-- Write a port's intake. -/
def Hw.setIntake (s : Hw) (p : CtlPort) (v : Intake) : Hw :=
  { s with keys := match p with | .ctla => { s.keys with intakeA := v } | .ctlb => { s.keys with intakeB := v } }

/-- A port's intake ends with a result: its buffers are freed (R268, R279). -/
def intakeDone (s : Hw) (p : CtlPort) (st : BitVec 8) (reason : BitVec 4) : Hw :=
  let v := s.intake p
  (freeBuffers s 0 v.bufs).setIntake p { v with state := 4, result := st, reason := reason, bytes := [], bufs := [] }

/-- Tell the source of a message its end. -/
def updTell (s : Hw) (src : UpdSource) (st : BitVec 8) (reason : BitVec 4) (result : Nat) : Hw :=
  match src with
  | .ctl p => intakeDone s p st reason
  | .kint key => if (s.job key).isSome then finish s key st (BitVec.ofNat 64 result) else s
  | .partner | .shared => s

/-- A message is refused: nothing of it stays, and it is counted (R270, R279). -/
def updRefuse (s : Hw) (u : Update) (st : BitVec 8) (reason : BitVec 4) : Hw :=
  let s := dropUpd s u.id
  let s := if u.source = .shared then s else { s with keys := { s.keys with refusedCnt := satInc s.keys.refusedCnt } }
  updTell s u.source st reason 0

/-- The modes in which the intake processes messages (R269). -/
def intakeMode (s : Hw) : Bool := s.mc.mode = .pilot || s.mc.mode = .full || s.mc.mode = .degraded

/-- The next free id. -/
def updNextId (s : Hw) : Nat :=
  ((List.range (s.keys.updates.length + 1)).find? fun i => !s.keys.updates.any fun u => u.id = i).getD 0

/-! ### Public-key work (R245, R266 to R268, R270) -/

/-- Key and operands of a part of a message's public-key work. A receipt's parts sign h' over its head. -/
def innerArgs (s : Hw) (u : Update) (part : Nat) : Bytes × List Bytes :=
  let m := u.message
  let sigs := m.drop (0x880 + umBodyLen m)
  match part with
  | 0 => ([], [umHash m, (umAuthKeys m).take 96, sigs.take 96])
  | 1 => ([], [umHash m, (umAuthKeys m).drop 96, (sigs.drop 96).take 3309])
  | 2 => ([], [((umBody m).drop 2080).take 1184])
  | 3 => ([], [((umBody m).drop 2048).take 32])
  | 5 => (identityEcKey s, [sha384 u.receipt])
  | 6 => (identityMlKey s, [sha384 u.receipt])
  | _ => ([], [])

/-- Parts of a message's public-key work join the queue of its bench, charged to domain 0 (R207, R268); an earlier set's
results go. -/
def updParts (s : Hw) (u : Update) (parts : List Nat) : Hw :=
  if parts.isEmpty then setUpd s { u with parts := [], partsLeft := 0, results := [] }
  else
    let s := pkArrive s (updBench u) 0
    setUpd { s with jobSeq := s.jobSeq + 1 }
      { u with parts := parts, partsLeft := parts.length, seq := s.jobSeq, results := [], since := s.clk.core }

/-- Status and result k of an ended part. -/
def Update.part (u : Update) (p k : Nat) : BitVec 8 × Bytes :=
  let r := tget (stEngineFenced, []) u.results p
  (r.1, r.2.getD k [])

/-- The status of a message's public-key work: the first part that did not end OK decides. -/
def Update.worked (u : Update) : BitVec 8 :=
  ((u.results.map fun r => r.2.1).find? fun st => st != stOk).getD stOk

/-- A whole message arrives: checks 1 to 4, then the verifications of check 5 join the queue (R270). -/
def updAccept (s : Hw) (src : UpdSource) (m : Bytes) : Hw :=
  let u : Update := { id := updNextId s, source := src, message := m, stage := .verifying, since := s.clk.core }
  let s := { s with keys := { s.keys with updates := s.keys.updates ++ [u] } }
  if !intakeMode s then updRefuse s u stAborted 0xD
  else match updChecks14 s src m with
    | some (st, r) => updRefuse s u st r
    | none =>
      if !pkBenchServes s (updBench u) then updRefuse s u stEngineFenced 2
      else
        let s := updParts s u [0, 1]
        match src with
        | .ctl p => s.setIntake p { s.intake p with state := 2 }
        | _ => s

/-- Another update of the slot holds a staging half (R272). -/
def slotBusy (s : Hw) (u : Update) : Bool :=
  umKind u.message != kRetire && s.keys.updates.any fun v =>
    v.id != u.id && v.half && v.stage != .receipt && umKind v.message != kRetire && umSlot v.message = umSlot u.message

/-- Staging halves bound (R240, R272). -/
def halvesBound (s : Hw) : Nat := (s.keys.updates.filter fun u => u.half && u.stage != .receipt).length

/-- The checks of a copied slot (R416, R426): its counter exceeds the slot's, and a persistent key needs a live root. -/
def sharedChecks (s : Hw) (m : Bytes) : Option (BitVec 8 × BitVec 4) :=
  if umCounter m ≤ (s.slot (umSlot m)).updCounter then some (stKeyDenied, 6)
  else if updCheck8 s m then none else some (stKeyDenied, 8)

/-- A GENERATE forms a lattice key, as a job of a public-key unit (R245). -/
def umLattice (m : Bytes) : Bool := umKind m = kGenerate && 0x60 ≤ fld (umAttr m) 8 8

/-- The parts of a message's staging: an ENROL's two exchanges, or the forming of a lattice key. A partner stages the key
that it was sent, and a copied slot comes with its key (R245, R266, R278, R416). -/
def stagingParts (u : Update) : List Nat :=
  if u.source = .shared || u.formed != [] then []
  else if umKind u.message = kEnrol then [2, 3]
  else if umLattice u.message then [4]
  else []

/-- Checks 6 to 8, with the waits before check 6 (R272, R275): a passing message binds a staging half and reserves its
counter. Where bring-up has ended without reading the whole Full set, check 6 can never be made: the message is refused as
the commits of a fenced port are, DESIGN CHOICE (R304, log 148). -/
def updReserve (s : Hw) (u : Update) : Hw :=
  if !s.keys.countersComplete && s.mc.bring.phase = .done then updRefuse s u stEngineFenced 2
  else if !s.keys.countersComplete || slotBusy s u then setUpd s { u with stage := .waiting }
  else if 32 ≤ halvesBound s then
    setUpd s { u with stage := .waitHalf, since := if u.stage = .waitHalf then u.since else s.clk.core }
  else match (if u.source = .shared then sharedChecks s u.message else updChecks68 s u.message) with
    | some (st, r) => updRefuse s u st r
    | none =>
      if !(stagingParts u).isEmpty && !pkBenchServes s (updBench u) then updRefuse s u stEngineFenced 2
      else updParts s { u with stage := .staging, half := true, isReset := umFloors s u.message } (stagingParts u)

/-- UPDATE_VERIFIED: check 5 ends, once both verifications have, and the message goes on as far as it can (R270, R272). -/
def updVerified (s : Hw) (id : Nat) : Hw :=
  match updOf s id with
  | none => s
  | some u =>
    match u.stage with
    | .verifying =>
      if u.partsLeft != 0 then s
      else if u.worked = stOk then updReserve s u
      else if u.worked = stEngineFenced then updRefuse s u stEngineFenced 2
      else updRefuse s u stVerifyFail 5
    | .waiting | .waitHalf => updReserve s u
    | _ => s

/-! ### Staging (R245, R263, R266, R273) -/

/-- The bytes that a GENERATE draws (R245). -/
def generateLen (v : Slot) : Nat :=
  let a := v.alg.toNat
  if a = 0x41 || a = 0x42 || a = 0x43 then 8 * ecWords a + 8 else v.klen

/-- K2 of an XTS key is drawn again until it differs from K1 (R132, R245). Sixteen draws all alike count as no entropy,
DESIGN CHOICE (log 149). -/
def drawApart : Nat → Hw → Bytes → Option (Bytes × Hw)
  | 0, _, _ => none
  | f + 1, s, k1 =>
    let (k2, s) := drbgBytes s k1.length
    if k2 = k1 then drawApart f s k1 else some (k2, s)

/-- The stored form that a GENERATE forms from a draw in the key store (R245); none when XTS halves cannot be drawn apart. -/
def generated (s : Hw) (v : Slot) : Option (Bytes × Hw) :=
  let a := v.alg.toNat
  let (b, s) := drbgBytes s (generateLen v)
  let k1 := b.take (v.klen / 2)
  if a = 0x41 || a = 0x42 || a = 0x43 then some (leBytes v.klen (leNat b % (ecOrder a - 1) + 1), s)
  else if a = 3 && k1 = b.drop (v.klen / 2) then (drawApart 16 s k1).map fun r => (k1 ++ r.1, r.2)
  else some (b, s)

/-- The unwrapped body of a DELIVER, none when its integrity value or its padding fails (R263). -/
def unwrapped (s : Hw) (m : Bytes) (klen : Nat) : Option Bytes :=
  let key := ((s.slot (umAuth m)).key.drop 32).take 32
  let b := umBody m
  let p := (kwUnwrap key (b.take 8) (pieces 8 (b.drop 8))).2.flatten
  if unwrapOk key (b.take 8) (b.drop 8) && p.drop klen = zeros (p.length - klen) then some (p.take klen) else none

/-- The stored form that an ENROL's exchanges give, and u_dev with c (R266). -/
def enrolled (u : Update) : Bytes × Bytes :=
  let m := u.message
  let context := beBytes 4 (umDomain m) ++ beBytes 4 (umSlot m) ++ beBytes 8 (umCounter m).toNat ++ umHash m
  let k := kdf ((u.part 2 1).2 ++ (u.part 3 1).2) "deliver" context 32
  (authDigest ((umBody m).take 2048) ++ k, (u.part 3 0).2 ++ (u.part 2 0).2)

/-- The staged record of an update, with u_dev and c of an ENROL, or the refusal of check 9 or 10 (R270). A key that the
leader of the pair has formed is staged as it came (R278). -/
def stagedSlot (s : Hw) (u : Update) : Except (BitVec 8 × BitVec 4) (Slot × Bytes × Hw) :=
  let m := u.message
  let v := umSlotRecord m
  let k := umKind m
  if u.formed != [] then .ok ({ v with key := u.formed, origin := 1 }, [], s)
  else if u.worked != stOk then
    .error (if u.worked = stEngineFenced then (stEngineFenced, 2) else if u.worked = stEntropyFail then (stEntropyFail, 9)
      else (u.worked, 0xA))
  else if k = kDeliver then
    match unwrapped s m v.klen with
    | none => .error (stTagFail, 9)
    | some key =>
      let v := { v with key := key, origin := 2 }
      if formValid v then .ok (v, [], s) else .error (stInputRange, 0xA)
  else if k = kGenerate then
    if umLattice m then .ok ({ v with key := (u.part 4 0).2, origin := 1 }, [], s)
    else if !drbgServes s then .error (stEntropyFail, 9)
    else match generated s v with
      | some (key, s) => .ok ({ v with key := key, origin := 1 }, [], s)
      | none => .error (stEntropyFail, 9)
  else if k = kSetAttr then .ok ({ v with key := (s.slot (umSlot m)).key, origin := (s.slot (umSlot m)).origin }, [], s)
  else if k = kEnrol then .ok ({ v with key := (enrolled u).1, origin := 1 }, (enrolled u).2, s)
  else .ok ({}, [], s)

/-- The stored counter of an update's domain after its flip: COUNTER, which never lowers it (R271, R273). -/
def domainNext (s : Hw) (m : Bytes) : Word :=
  if umCounter m < domCounter s (umDomain m) then domCounter s (umDomain m) else umCounter m

/-- The writes of step 3 (R273, R296). -/
def updSteps (s : Hw) (u : Update) : List UpdWrite :=
  let m := u.message
  let d := umDomain m
  let slot := umSlot m
  if umKind m != kRetire && u.staged.persist then
    recordSteps s slot (sealedRecord s slot u.staged (umCounter m) u.salt u.isReset) u.staged.tack
  else if umKind m != kRetire && (s.slot slot).persist then
    recordSteps s slot (emptyRecord s slot (umCounter m) u.isReset) false
  else
    [⟨domRecAddr d, domainRecord (domainNext s m) (if u.isReset then umCounter m else domFloor s d), true⟩]

/-- Issue the next write of a commit once the one before it is acknowledged (R296). -/
def updNext (s : Hw) (u : Update) : Hw :=
  match u.steps with
  | [] => s
  | w :: r => kpWriteAll (setUpd s { u with steps := r }) 1 w.addr w.data (.update u.id w.commit)

/-- Commits in step 3 (R334). -/
def inStep3 (s : Hw) : Nat := (s.keys.updates.filter fun u => u.stage = .writing).length

/-- Step 3 begins. A port that writes nothing refuses the commit (R292, R304). -/
def updBegin (s : Hw) (u : Update) : Hw :=
  if !kpLive s then updRefuse s u stEngineFenced 2
  else
    let u := { u with stage := .writing, steps := updSteps s u }
    let s := match u.source with | .ctl p => s.setIntake p { s.intake p with state := 3 } | _ => s
    updNext s u

/-- The sealed record that an update leaves takes a SALT from the DRBG (R244, R251); a request that fails refuses it. -/
def updSalt (s : Hw) (u : Update) (go : Hw → Update → Hw) : Hw :=
  if umKind u.message = kRetire || !u.staged.persist then go s u
  else if !drbgServes s then updRefuse s u stEntropyFail 9
  else
    let (salt, s) := drbgBytes s 8
    go s { u with salt := salt }

/-- Checks 9 and 10; what passes is staged, and its keeper writes begin or, in mirrored mode, it waits for the partner
(R270, R273, R278). -/
def updForm (s : Hw) (u : Update) : Hw :=
  match stagedSlot s u with
  | .error (st, r) => updRefuse s u st r
  | .ok (v, c, s) =>
    updSalt s { u with staged := v, cipher := c, results := [] } fun s u =>
      if s.hns.mirror = .mirrored && (match u.source with | .ctl _ | .kint _ => true | _ => false) then
        let s := setUpd s { u with stage := .partner, since := s.clk.aon }
        secureSend s 7 (5 :: u.message ++ (if umKind u.message = kGenerate || umKind u.message = kEnrol then u.staged.key else []))
      else updBegin s u

/-- A commit of the same domain has begun and not flipped. The commits of a domain go one after the other, for each writes
the domain's counter and floor as the one before it leaves them: DESIGN CHOICE (R276, log 147). -/
def domainBusy (s : Hw) (u : Update) : Bool :=
  s.keys.updates.any fun v => v.id != u.id && umDomain v.message = umDomain u.message && (v.stage = .writing || v.stage = .durable)

/-- UPDATE_STAGED: checks 9 and 10 once the work of the staging has ended (R270 to R273, R334). A third commit waits for its
turn; a fenced unsealer refuses a DELIVER. One that the partner has acknowledged begins its own step 3 (R278). -/
def updStaged (s : Hw) (id : Nat) : Hw :=
  match updOf s id with
  | none => s
  | some u =>
    if u.stage != .staging || u.partsLeft != 0 || 2 ≤ inStep3 s || domainBusy s u then s
    else if u.acked then updBegin s u
    else if u.source = .shared then updSalt s u updBegin
    else if umKind u.message = kDeliver && s.fenced 0x87 then updRefuse s u stEngineFenced 2
    else updForm s u

/-! ### The receipt (R267) -/

/-- The 1,248 B of a receipt that its signatures cover. -/
def receiptHead (s : Hw) (u : Update) : Bytes :=
  let m := u.message
  leBytes 8 (put 0 8 1 ||| put 8 8 2 ||| put 16 16 0x04E0 ||| put 32 32 0x122D).toNat ++ leBytes 8 kver.toNat ++
    leBytes 8 (put 0 3 s.hns.block.toNat ||| put 8 3 s.keys.root.num ||| put 16 6 s.keys.tgen.toNat |||
      put 32 12 (umDomain m) ||| put 44 17 (umSlot m)).toNat ++
    leBytes 8 (umCounter m).toNat ++ umHash m ++ u.cipher ++ identityDigest s

/-- A receipt has ended: the message is done (R267, log 30). -/
def receiptEnd (s : Hw) (u : Update) (st : BitVec 8 := stWindowFault) : Hw :=
  let s := dropUpd s u.id
  if u.refused then updTell s u.source st 0 0 else updTell s u.source stOk 0 u.receipt.length

/-- Write a receipt for a control port's message: each piece is checked against domain 0's windows (R268). A receipt that
finds no room at its port waits. -/
def receiptWrite (s : Hw) (u : Update) (addr : Nat) (r : Bytes) : Hw :=
  let all := piecesOf addr r.length
  let go := all.takeWhile fun p => (winCheck s.active 0 p.1 true).isSome
  let u := { u with receipt := r, refused := go.length != all.length, out := go.foldl (fun n p => n + (cutsOf p.1 p.2).length) 0 }
  match mmBind s with
  | some p =>
    if u.out = 0 then receiptEnd s u
    else if mmRoom s p true u.out then
      let s := go.foldl (fun s q =>
        mmPiece s p true q.1 q.2 ((r.drop (q.1 - addr)).take q.2) 0 ((winCheck s.active 0 q.1 true).getD 0) fun _ => .receipt u.id) s
      setUpd (mmChose s p) u
    else s
  | none => receiptEnd s { u with refused := true } stEngineFenced

/-- The receipt's two signatures join the queue of the bench (R267, R268); without a unit there is no receipt. -/
def receiptBegin (s : Hw) (u : Update) : Hw :=
  if !pkBenchServes s (updBench u) then receiptEnd (setUpd s u) { u with refused := true } stEngineFenced
  else updParts s { u with receipt := receiptHead s u } [5, 6]

/-- A signed receipt goes to its place (R268). -/
def receiptOut (s : Hw) (u : Update) (r : Bytes) : Hw :=
  match u.source with
  | .ctl p => receiptWrite s u ((s.intake p).rcptAddr.toNat / 64 * 64) r
  | .kint key =>
    match s.job key with
    | some j => match j.op with
      | .kint range =>
        if r.length ≤ rgLen range && !rgPoisoned s (key / 16) range then
          receiptEnd (rgWrite s (key / 16) range r) { u with receipt := r }
        else receiptEnd s { u with refused := true }
      | _ => s
    | none => receiptEnd s { u with refused := true }
  | _ => s

/-- ENROL_RECEIPT: the signatures have ended, and the receipt is written (R267, R268). -/
def enrolReceipt (s : Hw) (id : Nat) : Hw :=
  match updOf s id with
  | none => s
  | some u =>
    if u.stage != .receipt || u.partsLeft != 0 || u.results = [] then s
    else if u.worked != stOk then receiptEnd s { u with refused := true } u.worked
    else receiptOut s { u with results := [] } (u.receipt ++ (u.part 5 0).2 ++ (u.part 6 0).2)

/-- A write of a receipt ends (R268). -/
def receiptAcked (s : Hw) (id : Nat) (err : Bool) : Hw :=
  match updOf s id with
  | none => s
  | some u =>
    let u := { u with out := u.out - 1, refused := u.refused || err }
    if u.out = 0 then receiptEnd s u else setUpd s u

/-! ### A fenced public-key unit (R277) -/

/-- A part of a message runs on a unit. -/
def partOn (s : Hw) (u : Update) (unit : Nat) : Bool :=
  match (s.pkUnit unit).work with | some (.inner id _ mark) => id = u.id && mark = u.seq | _ => false

/-- A public-key unit is fenced: a message with a part there is refused at once, as is every one with parts left when
neither unit of the bench serves (R277); a receipt is not written, and the commit stands (R267). -/
def updFenced (s : Hw) (unit : Nat) : Hw :=
  let b := unit / 2
  (s.keys.updates.filter fun u => updBench u = b && (u.partsLeft != 0 || u.results != []) &&
    (partOn s u unit || u.worked = stEngineFenced || (u.partsLeft != 0 && !pkBenchServes s b))).foldl (fun s u =>
      if u.stage = .receipt then receiptEnd s { u with refused := true } stEngineFenced
      else updRefuse s u stEngineFenced 2) s

/-! ### The flip (R238, R274, R416) -/

/-- The record that a slot takes at the flip (R238). -/
def flipped (old new : Slot) (counter : Word) : Slot :=
  let keep := old.st = .full && old.key = new.key
  let v := { new with updCounter := counter }
  if keep then
    let v := { v with req := old.req, reqEnd := old.reqEnd, ahead := old.ahead, counter := old.counter, spent := old.spent
                      reserved := old.reserved, owned := old.owned, endLease := old.endLease }
    if slotCounted v && usageLimit v ≤ v.counter then { v with spent := true } else v
  else v

/-- Slots of a domain other than one read EMPTY (R274). -/
def clearDomain (s : Hw) (d : Nat) (keep : Option Nat) : Hw :=
  { s with keys := { s.keys with slots := s.keys.slots.filter fun e =>
    e.2.st = .empty || e.2.domain.toNat != d || some e.1 = keep } }

/-- The lease writes in progress no longer serve slots whose key has changed (R273). -/
def forgetLeases (s : Hw) (gone : Nat → Bool) : Hw :=
  let f := fun (w : KpWrite) => match w.why with | .lease l => { w with why := .lease (l.filter fun n => !gone n) } | _ => w
  { s with kp := { s.kp with waiting := s.kp.waiting.map f, out := s.kp.out.map f } }

/-- Charges that wait for a slot that holds no key any more fail KEY_EMPTY (R28). -/
def failCharges (s : Hw) (p : Nat → Bool) (st : BitVec 8) : Hw :=
  (s.keys.charges.filter fun w => p w.slot.toNat).foldl (fun s w => chargeFail s w.key st) s

/-- Blocks with a plain pairing (R410, R416). -/
def plainPairs (s : Hw) : List Nat := (List.range 8).filter fun b => pairValid s.active b && !pairMirror s.active b

/-- The mesh link to another block (R405). -/
def meshLink (s : Hw) (b : Nat) : Nat := (b + 7 - s.hns.block.toNat) % 8

/-- A slot as a message of key material: its number, its update counter, ATTR, LIMIT and the key (R416, R426, log 41). -/
def slotMessage (slot : Nat) (v : Slot) (counter : Word) : Bytes :=
  8 :: leBytes 8 slot ++ leBytes 8 counter.toNat ++ leBytes 8 (attrWord v v.st false).toNat ++ leBytes 8 (limitWord v).toNat ++ v.key

/-- Send a SHARE = 1 slot to every plain-paired block (R416). -/
def shareSlot (s : Hw) (slot : Nat) (v : Slot) (counter : Word) : Hw :=
  if v.st = .full && v.share then
    (plainPairs s).foldl (fun s b => secureSend s (meshLink s b) (slotMessage slot v counter)) s
  else s

/-- Step 4: the slot takes the staged key and record, and the domain's counter becomes COUNTER (R273, R274); a copied slot
never lowers it (R271, R416). -/
def updApply (s : Hw) (u : Update) : Hw :=
  let m := u.message
  let d := umDomain m
  let slot := umSlot m
  let retire := umKind m = kRetire
  let old := s.slot slot
  let new := flipped old u.staged (umCounter m)
  let s := if retire then s
    else s.setSlot slot (if umKind m = kDestroy then { updCounter := umCounter m } else new)
  let s := if u.isReset then clearDomain s d (if retire then none else some slot) else s
  let s := { s with keys := { s.keys with
    counters := tset 0 s.keys.counters d (domainNext s m)
    floors := if u.isReset then tset 0 s.keys.floors d (umCounter m) else s.keys.floors
    committed := satInc s.keys.committed } }
  let gone := fun n => (n = slot && !retire && old.key != (s.slot slot).key) || (u.isReset && (s.slot n).st != .full)
  let s := forgetLeases s gone
  let s := failCharges s (fun n => (s.slot n).st != .full) stKeyEmpty
  serveSlot s slot

/-- UPDATE_FLIP: the flip, the follow-up write of step 5, the copies of R416, and the end of the message or its receipt. -/
def updFlip (s : Hw) (id : Nat) : Hw :=
  match updOf s id with
  | none => s
  | some u =>
    if u.stage != .durable then s
    else
      let m := u.message
      let d := umDomain m
      let wrote := umKind m != kRetire && (u.staged.persist || (s.slot (umSlot m)).persist)
      let s := updApply s u
      let s := if wrote && s.mc.mode != .seal then
        kpWrite s 1 (domRecAddr d) (domainRecord (domCounter s d) (domFloor s d)) .counter else s
      let s := if umKind m = kRetire then s else shareSlot s (umSlot m) (s.slot (umSlot m)) (umCounter m)
      if umKind m = kEnrol && (match u.source with | .ctl _ | .kint _ => true | _ => false) then
        receiptBegin s { u with stage := .receipt, half := false }
      else updTell (dropUpd s id) u.source stOk 0 0

/-- A write of a commit is acknowledged: the commit point makes the update durable, and the next write goes out (R296). -/
def updAcked (s : Hw) (id : Nat) (commit : Bool) : Hw :=
  match updOf s id with
  | none => s
  | some u =>
    let u := if commit then { u with stage := .durable } else u
    let s := setUpd s u
    let s := if commit && u.source = .partner then mirrorSend s [6] else s
    let more := (s.kp.waiting ++ s.kp.out).any fun w => match w.why with | .update i _ => i = id | _ => false
    if more then s else updNext s u

end Sys2Proof.Machine
end

