-- ==== Sys2Proof/Machine/Ctl.lean ====
section
/-! DEFINITION. The control ports' side of the block: which writes count (R306, R307, R459), the cinch and its break (R308 to
R311), what a port reset releases (R93, R451), and the register holds that follow the cinch. -/

namespace Sys2Proof.Machine

/-- The outputs of vdd_core logic are clamped: from retention-ready to the release of the logic's reset, and in Off (R453). -/
def clamped (s : Hw) : Bool :=
  match s.sec.power with
  | .retReady | .retention | .off => true
  | .resuming => s.clk.core < s.sec.resumeAt + min (4 * clkPerUs s) (Config.logicReset s.sec.resumeAt)
  | _ => false

/-- The port's reset is low (R451). -/
def ctlInReset (s : Hw) : CtlPort → Bool
  | .ctla => s.sec.ctlaReset
  | .ctlb => s.sec.ctlbReset

/-- The port takes accesses: it is not fenced (R349), its reset is not low (R451), and its ready is not clamped. -/
def ctlServes (s : Hw) (p : CtlPort) : Bool := !s.fenced (ctlUnit p) && !ctlInReset s p && !clamped s

/-- The port holds the cinch. -/
def holdsCinch (s : Hw) (p : CtlPort) : Bool := s.cinch.owner = some p

/-- A write is ignored for want of the cinch (R307). -/
def denyWrite (s : Hw) (p : CtlPort) : Hw :=
  let c := s.cinch
  note { s with cinch := match p with
    | .ctla => { c with deniedA := satInc c.deniedA }
    | .ctlb => { c with deniedB := satInc c.deniedB } } 0x8A 2

/-- A control-port access wakes the block from Idle (R390): Run, event 0x11 (R403). -/
def wake (s : Hw) : Hw :=
  if s.sec.power = .idle then note { s with sec := { s.sec with power := .run } } 0xC8 0x11 0 else s

/-- A write of a register that needs no cinch. -/
def openWrite (s : Hw) (p : CtlPort) (f : Hw → Hw) : Hw := if ctlServes s p then f (wake s) else s

/-- A write of a register that needs the cinch (R307). -/
def cinchWrite (s : Hw) (p : CtlPort) (f : Hw → Hw) : Hw :=
  openWrite s p fun s => if holdsCinch s p then f s else denyWrite s p

/-- The effect of a control-port write that needs the cinch. -/
def State.cinched (s : State) (p : CtlPort) (f : Hw → Hw) : Host.Outcome State Fault Refusal :=
  s.work fun h => cinchWrite h p f

/-- The effect of a control-port write that needs no cinch. -/
def State.opened (s : State) (p : CtlPort) (f : Hw → Hw) : Host.Outcome State Fault Refusal :=
  s.work fun h => openWrite h p f

/-! ### What ends with a hold of the cinch -/

/-- A port's message in RECEIVING is abandoned (R269, R279). -/
def abandonIntake (s : Hw) (p : CtlPort) : Hw :=
  if (s.intake p).state = 1 then intakeDone s p stAborted 0xD else s

/-- A port's approval registers. -/
def Hw.appr (s : Hw) (p : CtlPort) : Approval := match p with | .ctla => s.hns.apprA | .ctlb => s.hns.apprB
/-- Write a port's approval registers. -/
def Hw.setAppr (s : Hw) (p : CtlPort) (v : Approval) : Hw :=
  { s with hns := match p with | .ctla => { s.hns with apprA := v } | .ctlb => { s.hns with apprB := v } }

/-- A port's approval still being received is abandoned (R411, log 31). -/
def abandonAppr (s : Hw) (p : CtlPort) : Hw :=
  if (s.appr p).stage = .receiving then
    s.setAppr p { stage := .done, bytes := [], result := stAborted, reason := 0xD }
  else s

/-! ### Pairing approvals (R410, R411) -/

/-- The block below and the block above in an approval. -/
def apLo (a : Bytes) : Nat := fld (wordAt a 1) 0 3
/-- The higher-numbered block. -/
def apHi (a : Bytes) : Nat := fld (wordAt a 1) 4 3
/-- MIRROR. -/
def apMirror (a : Bytes) : Bool := bit (wordAt a 1) 8
/-- The other block, as this one sees it. -/
def apOther (s : Hw) (a : Bytes) : Nat := if apLo a = s.hns.block.toNat then apHi a else apLo a
/-- The link between the two blocks: PL7 for a mirror pairing, else their mesh link (R405). -/
def apLink (s : Hw) (a : Bytes) : Nat := if apMirror a then 7 else meshLink s (apOther s a)

/-- A ceremony ends with a result at the port that brought the approval, if it came through one (R411). -/
def ceremonyEnd (s : Hw) (st : BitVec 8) (reason : BitVec 4) : Hw :=
  match s.hns.ceremony with
  | none => s
  | some (_, _, p) =>
    let s := { s with hns := { s.hns with ceremony := none, localPass := false, peerPass := false, localMade := false, peerMade := false } }
    match p with
    | some p => s.setAppr p { stage := .done, bytes := [], result := st, reason := reason }
    | none => s

/-- AWL_LOAD clears and the port's messages in RECEIVING are abandoned (R97, R269, R310, R311). -/
def dropHolder (s : Hw) (p : CtlPort) : Hw := abandonAppr (abandonIntake { s with awlLoad := false } p) p

/-- The cinch is released (R310). -/
def releaseCinch (s : Hw) (p : CtlPort) : Hw := dropHolder { s with cinch := { s.cinch with owner := none } } p

/-- The shadow set is reloaded from the active set: COPYING (R318). -/
def startCopy (s : Hw) : Hw := { s with seam := { s.seam with st := .copying, copyAt := s.clk.core } }

/-- The cinch breaks for a cause, when a port holds it (R311). -/
def breakCinch (s : Hw) (cause : BitVec 3) : Hw :=
  match s.cinch.owner with
  | none => s
  | some p =>
    let discards := s.seam.st = .ready && s.seam.dirty
    let s := dropHolder { s with cinch :=
      { s.cinch with owner := none, broken := true, cause := cause, discarded := discards } } p
    let s := note s 0x8A 1
    if discards then startCopy s else s

/-! ### The trap window (R90, R93) -/

/-- A port's claim. -/
def Hw.claim (s : Hw) (p : CtlPort) : Option TrapRecord := match p with | .ctla => s.trapq.claimA | .ctlb => s.trapq.claimB
/-- Write a port's claim. -/
def Hw.setClaim (s : Hw) (p : CtlPort) (v : Option TrapRecord) : Hw :=
  { s with trapq := match p with | .ctla => { s.trapq with claimA := v } | .ctlb => { s.trapq with claimB := v } }

/-- A port's claim is released: its record returns to the front of the queue, its deadline running (R93). -/
def releaseClaim (s : Hw) (p : CtlPort) : Hw :=
  match s.claim p with
  | none => s
  | some c =>
    let s := s.setClaim p none
    { s with trapq := { s.trapq with queue := c :: s.trapq.queue } }

/-- What a reset, or a fence, of a control port does besides its banked registers (R93, R269, R311, R349). -/
def ctlReleases (s : Hw) (p : CtlPort) : Hw :=
  let s := releaseClaim s p
  let s := abandonAppr (abandonIntake s p) p
  if holdsCinch s p then breakCinch s (match p with | .ctla => 2 | .ctlb => 3) else s

end Sys2Proof.Machine
end

