-- ==== Sys2Proof/Machine/Engines.lean ====
section
/-! DEFINITION. The engine instructions' shared path: what is decided at issue (R80, R81, R96, R112, R113), the bench router
(R113, R114), how a job is passed to its engine, and the jobs that end in the router and the key store (R118, R122 to R124,
R247). -/

namespace Sys2Proof.Machine

/-! ### Handles that a job names (R114, R123) -/

/-- The handle of a range. -/
def rgHandle (r : Word) : List Nat := if rgScr r || rgLen r = 0 then [] else [rgHnd r]

/-- The handles that a job names. -/
def JobOp.handles (op : JobOp) : List Nat :=
  match op with
  | .ciph b =>
    rgHandle (pbSrc b) ++ rgHandle (pbDst b) ++ rgHandle (cbAad b) ++ (if pbLast b then rgHandle (cbTag b) else []) ++
      (if ivRanged b then rgHandle (cbIvw b) else [])
  | .dgst b =>
    rgHandle (pbSrc b) ++ (if pbFirst b then rgHandle (dbCust b) ++ rgHandle (dbName b) else []) ++
      (if pbLast b then (if dbCheck b then rgHandle (dbExpect b) else rgHandle (dbOut b)) else [])
  | .kint r | .katt _ r | .xgath r | .xscat r | .xload _ r | .xstore _ r | .xlib _ r => rgHandle r
  | .cmpct a b n => (ctxRange a n ++ ctxRange b n).map rgHnd
  | .free h => [h]
  | _ => []

/-- The ticket of a handle's ALLOC that is still PENDING. -/
def allocTicket (s : Hw) (c h : Nat) : Option Nat :=
  ((s.jobsOf c).find? fun e => match e.2.op with | .alloc k _ => k = h | _ => false).map fun e => e.1 % 16

/-- The predecessors of a job: the tickets of its AFTER set, then the PENDING allocations of handles it names
(R113, R114). -/
def predsOf (s : Hw) (c : Nat) (set : BitVec 16) (op : JobOp) : List Pred :=
  let x := s.ctx c
  let named := (List.range 16).filter fun t => bit set t
  let allocs := (op.handles.filterMap (allocTicket s c)).eraseDups.filter fun t => !bit set t
  (named ++ allocs).map fun t =>
    ⟨BitVec.ofNat 4 t, if (x.tk t).st = .done then some (x.tk t).status else none⟩

/-- Every predecessor is DONE. -/
def predsMet (l : List Pred) : Bool := l.all fun p => p.status.isSome
/-- The status of the lowest-numbered predecessor that is not OK (R113). -/
def predsFail (l : List Pred) : Option (BitVec 8) :=
  (l.find? fun p => p.status.isSome && p.status != some stOk).bind (·.status)

/-! ### Queues (R460) -/

/-- Jobs of a bench's router queues that have been passed and not ended. -/
def routerJobs (s : Hw) (bench : Nat) (p : JobOp → Bool) : Nat :=
  (s.jobs.filter fun e => benchOf (e.1 / 16) = bench && e.2.phase != .after && p e.2.op).length

/-- The queue that a job enters is full (R81, R460). -/
def queueFull (s : Hw) (c : Nat) (stream : Nat) (op : JobOp) : Bool :=
  let b := benchOf c
  match op with
  | .ciph k => 64 ≤ pairQueue s (pairOf b (cbMode k))
  | .dgst k =>
    match dgstEngine s c ((s.ctx c).ds stream) k with
    | some e => 32 ≤ (digJobs s e).length
    | none => false
  | .pk _ => 32 ≤ pkQueued s b
  | .kchk _ | .kint _ | .katt _ _ | .ndraw _ _ =>
    32 ≤ routerJobs s b fun o => match o with | .kchk _ | .kint _ | .katt _ _ | .ndraw _ _ => true | _ => false
  | .xgath _ | .xscat _ | .xload _ _ | .xstore _ _ | .xlib _ _ | .signal _ _ =>
    128 ≤ routerJobs s b fun o => match o with
      | .xgath _ | .xscat _ | .xload _ _ | .xstore _ _ | .xlib _ _ | .signal _ _ => true
      | _ => false
  | .cmpct _ _ _ | .alloc _ _ | .free _ | .join | .post =>
    64 ≤ (routerJobs s b fun o => match o with | .cmpct _ _ _ | .alloc _ _ | .free _ | .join => true | _ => false) +
      (s.ctxs.filter fun e => benchOf e.1 = b && e.2.posted.isSome && !e.2.committed && e.2.withdrawn.isNone && !e.2.noRecord).length

/-! ### Jobs of the key store (R118, R122, R247) -/

/-- The engine's part of an attestation that a slot needs: its public value, then the two signatures (R247). -/
def kattPrivate (v : Slot) : Bool := !v.isPublic && 0x41 ≤ v.alg.toNat && v.alg.toNat < 0x70

/-- The digest of a slot's public value where no computation is needed: zero for a symmetric code (R247). -/
def kattPublic (v : Slot) : Bytes :=
  if v.alg.toNat < 0x40 || 0x70 ≤ v.alg.toNat then zeros 48
  else if v.alg = 0x40 then sha384 (v.key.take (8 * v.pkWords.toNat + 8))
  else sha384 v.key


/-- Bytes 0x000 to 0x07F of a slot statement (R247). -/
def kattBody (s : Hw) (c slot : Nat) (challenge : Bytes) : Bytes :=
  let v := s.slot slot
  let x := s.ctx c
  let debug := match s.sec.debug with | .closed => 0 | .diagnostic => 1 | .full => 2
  leBytes 8 (put 0 8 1 ||| put 8 8 1 ||| put 16 16 0x00E0 ||| put 32 32 0x0E2D).toNat ++ leBytes 8 kver.toNat ++ challenge ++
    leBytes 8 (put 0 3 s.hns.block.toNat ||| put 8 3 s.keys.root.num ||| put 12 2 debug ||| put 16 6 s.keys.tgen.toNat |||
      put 32 16 x.epoch.toNat ||| put 48 12 x.domain).toNat ++
    leBytes 8 (put 0 17 slot).toNat ++ wordsBytes (slotView s slot) ++
    leBytes 8 (domCounter s v.domain.toNat).toNat ++ keyCommit slot v.alg v.key

/-- The statement once its public value is known: the signatures' places hold zeros (R247). -/
def kattHead (s : Hw) (body pub : Bytes) : Bytes := body.take 0x80 ++ pub ++ identityDigest s ++ zeros 3405

/-- KATT is passed to the key store (R247, R250): the checks, then the snapshot. -/
def kattPass (s : Hw) (key : Nat) (j : Job) (slot : BitVec 17) (range : Word) : Hw :=
  let c := key / 16
  if domPkMax (s.cfgOf c) (s.ctx c).domain < 24 then finishFree s key stInputRange
  else match keyCheck14 s (s.cfgOf c) (s.ctx c).domain slot.toNat with
    | some st => finishFree (keyRefused s) key st
    | none =>
      if s.keys.root = .none then finishFree s key stKeyDenied
      else if !s.keys.idReady || !pkBenchServes s (benchOf c) then finishFree s key stEngineFenced
      else if !rgInside (s.ctx c) range then finishFree s key stWindowFault
      else if rgPoisoned s c range then finishFree s key stDataUncorrected
      else
        let v := s.slot slot.toNat
        let body := kattBody s c slot.toNat ((rgRead s c range).take 32)
        let j := { j with phase := .running, seq := s.jobSeq, since := s.clk.core }
        if kattPrivate v then
          s.setJob key { j with data := body ++ v.key, parts := [0], partsLeft := 1, partsNext := [1, 2] }
        else s.setJob key { j with data := kattHead s body (kattPublic v), parts := [1, 2], partsLeft := 2 }

/-- KCHK is passed to the key store (R122): the checks of R28 for USE and ALG. -/
def kchkPass (s : Hw) (key : Nat) (w0 : Word) : Hw :=
  let c := key / 16
  let use := fld w0 20 4
  match keyCheck s (s.cfgOf c) (s.ctx c).domain (fld w0 0 17)
      { uses := [use], algs := [fld w0 24 8], words := none, secret := false, enc := use = 1 || use = 6 } with
  | some st => finishFree (keyRefused s) key st
  | none => finishFree s key stOk

/-- NDRAW is passed to the key store (R118): the checks of R28 for an encrypt use, then the charge. -/
def ndrawPass (s : Hw) (key : Nat) (j : Job) (slot : BitVec 17) (holder : Nat) : Hw :=
  let c := key / 16
  match keyCheck s (s.cfgOf c) (s.ctx c).domain slot.toNat
      { uses := [1], algs := [1, 0x10], words := none, secret := true, enc := true } with
  | some st => finishFree (keyRefused s) key st
  | none =>
    match chargeNow s slot.toNat 1 false (chargeQueued s slot.toNat) with
    | (.first n, s) => ndrawDone s key slot holder n
    | (.spent, s) => finishFree s key stKeySpent
    | (.waits, s) => (chargeWait s slot key 1).setJob key { j with phase := .charging, seq := s.jobSeq, since := s.clk.core }

/-- KINT is passed to the key intake (R268): the message stands at the start of its range. -/
def kintPass (s : Hw) (key : Nat) (j : Job) (range : Word) : Hw :=
  let c := key / 16
  if !rgInside (s.ctx c) range then finish s key stWindowFault 0
  else if rgPoisoned s c range then finish s key stDataUncorrected 0
  else
    let b := rgRead s c range
    updAccept (s.setJob key { j with phase := .running, seq := s.jobSeq }) (.kint key) (b.take (umTotal b))

/-! ### Jobs of the router (R123, R124) -/

/-- A compared range lies in scratch, or inside one handle (R124). -/
def cmpctOk (x : Ctx) (a : Word) (n : Nat) : Bool :=
  match place x a.toNat n with
  | some (.scratch _) | some (.handle _ _) => true
  | _ => false

/-- CMPCT starts (R124). -/
def cmpctPass (s : Hw) (key : Nat) (j : Job) (a b : Word) (n : Nat) : Hw :=
  let c := key / 16
  let x := s.ctx c
  if !cmpctOk x a n || !cmpctOk x b n then finishFree s key stWindowFault
  else if (ctxRange a n ++ ctxRange b n).any (rgPoisoned s c) then finishFree s key stDataUncorrected
  else s.setJob key { j with phase := .running, since := s.clk.core }

/-- Whether an ALLOC needs buffers of the unreserved pool (R30). -/
def allocNeedsPool (s : Hw) (key : Nat) : Bool :=
  match s.job key with
  | some j => match j.op with
    | .alloc _ n =>
      let d := (s.ctx (key / 16)).domain
      let r := domReserve (s.cfgOf (key / 16)) d
      0 < max (poolNeed s d n) ((bufCount s d + n - r) - (bufCount s d - r))
    | _ => false
  | none => false

/-- No allocation that waits for the pool began to wait before this one (R30). -/
def allocFirst (s : Hw) (key : Nat) : Bool := (s.cs.waiters.takeWhile fun k => k != key).all fun k => !allocNeedsPool s k

/-- An ALLOC fails, and its handle closes (R30, R73). -/
def allocFail (s : Hw) (key h : Nat) (st : BitVec 8) : Hw :=
  finishFree (s.modCtx (key / 16) fun x => x.setHnd h {}) key st

/-- An allocation would take its domain's count past the CS_BUF of its request's epoch (R30). -/
def allocOver (s : Hw) (key n : Nat) : Bool :=
  let d := (s.ctx (key / 16)).domain
  domQuota (s.cfgOf (key / 16)) d < bufCount s d + n

/-- Allocations that wait while another one takes their domain's count to where theirs would pass CS_BUF fail (R30). -/
def allocTrim (s : Hw) : Hw :=
  s.cs.waiters.foldl (fun s key =>
    match s.job key with
    | some j => match j.op with
      | .alloc h n => if allocOver s key n then allocFail s key h stQuota else s
      | _ => s
    | none => s) s

/-- An ALLOC that can be served takes its buffers: the lowest-numbered free ones (R30, R73). -/
def allocServe (s : Hw) (key h n : Nat) : Hw :=
  let c := key / 16
  let d := (s.ctx c).domain
  if canAllocate s (s.cfgOf c) d n (allocFirst s key) then
    let (l, s) := takeBuffers s d n
    let s := s.modCtx c fun x => x.setHnd h
      { st := if (x.hnd h).st = .freeing then .freeing else .live, count := n, bufs := l }
    allocTrim (finishFree s key stOk)
  else s

/-- ALLOC is passed to the store (R30): refused, served, or made to wait. -/
def allocPass (s : Hw) (key : Nat) (j : Job) (h n : Nat) : Hw :=
  if allocOver s key n then allocFail s key h stQuota
  else
    let s := s.setJob key { j with phase := .allocating, since := s.clk.core }
    allocServe { s with cs := { s.cs with waiters := s.cs.waiters ++ [key] } } key h n

/-- Another PENDING job of the context names a handle (R123). -/
def handleNamed (s : Hw) (c key h : Nat) : Bool := (s.jobsOf c).any fun e => e.1 != key && e.2.op.handles.contains h

/-- JOIN's result: the named tickets that were not OK (R123). -/
def joinMask (l : List Pred) : Word :=
  l.foldl (fun m p => if p.status = some stOk then m else m ||| (1#64 <<< p.ticket.toNat)) 0

/-! ### The router (R113) -/

/-- A job is passed to its engine. -/
def jobPass (s : Hw) (key : Nat) (j : Job) : Hw :=
  match j.op with
  | .ciph b => ciphPass s key j b
  | .dgst b => dgstPass s key j b
  | .pk b => pkPass s key j b
  | .kchk w => kchkPass s key w
  | .kint r => kintPass s key j r
  | .katt slot r => kattPass s key j slot r
  | .ndraw slot h => ndrawPass s key j slot h
  | .xgath _ | .xscat _ | .xload _ _ | .xstore _ _ | .xlib _ _ => xferPass s key j
  | .cmpct a b n => cmpctPass s key j a b n
  | .alloc h n => allocPass s key j h n
  | .free h => finishFree (closeHandle s (key / 16) h) key stOk
  | .join => finish s key stOk (joinMask j.preds)
  | .post => s
  | .signal a v => signalIssue s key j a v

/-- A job whose predecessor failed does no work and completes with that status, result 0 (R113). A stream's job fails its
stream (R117); a handle that was to open or close stands as it was. -/
def jobSkip (s : Hw) (key : Nat) (j : Job) (st : BitVec 8) : Hw :=
  let c := key / 16
  match j.op with
  | .ciph _ => ciphFail s key j st
  | .dgst _ => dgstFail s key j st
  | .join => finish s key st (joinMask j.preds)
  | .alloc h _ => finish (s.modCtx c fun x => x.setHnd h {}) key st 0
  | .free h =>
    finish (s.modCtx c fun x => if (x.hnd h).count = 0 then x.setHnd h {} else x.setHnd h { x.hnd h with st := .live })
      key st 0
  | _ => finish s key st 0

/-- A job waits in the router for something besides its predecessors: FREE for its handle's other jobs (R123), a job that
reads at once for its held ranges (R75, R124). -/
def jobHeldBack (s : Hw) (key : Nat) (j : Job) : Bool :=
  match j.op with
  | .free h => handleNamed s (key / 16) key h
  | _ => j.atPass && j.source.any (rgHeld (s.ctx (key / 16)))

/-- Two jobs name one stream of their context by its number. -/
def sameNumber (a b : JobOp) : Bool :=
  match a, b with
  | .ciph x, .ciph y => pbStream x = pbStream y
  | .dgst x, .dgst y => pbStream x = pbStream y
  | _, _ => false

/-- A stream's jobs are passed in issue order (R117): an older job of the stream still waits in the router, or one of the
stream that had the number before is not done, so that a context holds no more than four states of a kind (R143, R170). -/
def jobBehind (s : Hw) (key : Nat) (j : Job) : Bool :=
  (s.jobsOf (key / 16)).any fun e => e.2.issued < j.issued && sameNumber e.2.op j.op &&
    (e.2.stream != j.stream || e.2.phase = .after)

/-- Pass a job on if it may go, or end it with its predecessors' status (R113). -/
def routerGo (s : Hw) (key : Nat) : Hw :=
  match s.job key with
  | none => s
  | some j =>
    if j.phase != .after || !predsMet j.preds || jobBehind s key j then s
    else match predsFail j.preds with
      | some st => jobSkip s key j st
      | none =>
        if jobHeldBack s key j || queueFull s (key / 16) j.stream j.op then s
        else jobPass { s with jobSeq := s.jobSeq + 1 } key j

/-! ### Issue (R80, R81, R96, R112) -/

/-- The AFTER set of an instruction. -/
def afterSet (x : Ctx) (rb : BitVec 5) : BitVec 16 := (x.rget rb).setWidth 16

/-- A job enters the router under its ticket, and goes on at once when nothing holds it (R113). -/
def enterJob (s : Hw) (key : Nat) (j : Job) : Hw :=
  let s := s.setJob key j
  routerGo { s with jobSeq := s.jobSeq + 1 } key

/-- A job refused within the issue completes with a status and what it would answer having done nothing (R112). -/
def refuseJob (s : Hw) (key : Nat) (op : JobOp) (st : BitVec 8) : Hw := endJob (s.setJob key { op := op, issued := s.jobSeq }) key st

/-- Take ticket t: PENDING, its number to RD (R80). -/
def takeTicket (s : Hw) (c t : Nat) (rd : BitVec 5) (verdict : Bool) : Hw :=
  s.modCtx c fun x => (x.setTk t { st := .pending, verdict := verdict }).rset rd (BitVec.ofNat 64 t)

/-- One engine instruction as issued: the traps raised before and after the tickets are looked at, and the job, with its
refusal at issue if any; a gather or scatter has its span, as start and length. -/
structure Engine where
  first : Option TrapClass := none
  last : Option TrapClass := none
  op : JobOp
  stream : Nat := 0
  span : Nat × Nat := (0, 0)
  verdict : Bool := false
  refuse : Option (BitVec 8) := none

/-- The job of an engine instruction that issues now. -/
def Engine.job (e : Engine) (s : Hw) (preds : List Pred) : Job :=
  { op := e.op, preds := preds, issued := s.jobSeq, stream := e.stream, start := e.span.1, span := e.span.2 }

/-- A job would be passed to its engine as it issues. -/
def goesNow (s : Hw) (key : Nat) (j : Job) : Bool :=
  predsMet j.preds && (predsFail j.preds).isNone && !jobBehind s key j && !jobHeldBack s key j

/-- An engine instruction: its traps, the wait for a full queue, or its ticket (R80, R81, R96, R112, R113). `start` is what
the job does beside entering the router, given its ticket. -/
def engineAct (i : Instr) (c : Nat) (rd rb : BitVec 5) (e : Engine) (start : Hw → Nat → Hw) (s : Hw) : Act :=
  let x := s.ctx c
  let set := afterSet x rb
  match e.first with
  | some t => .trap t
  | none =>
    if ticketMask x set (· = .free) != 0 then .trap 7
    else match x.freeTicket with
      | none => .trap 7
      | some t =>
        match e.last with
        | some k => .trap k
        | none =>
          let j := e.job s (predsOf s c set e.op)
          if e.refuse.isNone && goesNow s (jobKey c t) j && queueFull s c e.stream e.op then
            .wait (s.modCtx c fun x => { x with st := .waiting, hold := .queue i })
          else
            let s := start (takeTicket s c t rd e.verdict) (jobKey c t)
            match e.refuse with
            | some st => .done (settleAll (refuseJob s (jobKey c t) e.op st)) false
            | none => .done (settleAll (enterJob s (jobKey c t) j)) false

/-- The trap of a parameter block of n bytes at an address (R112). A block that is misaligned and outside scratch too raises the
access trap (log 137). -/
def blockTrap (a : Word) (n : Nat) : Option TrapClass :=
  if 0x1000 < a.toNat + n then some 5 else if a.toNat % n != 0 then some 6 else none

/-- The parameter block of n bytes in scratch. -/
def blockAt (x : Ctx) (a : Word) (n : Nat) : Block := blockOf (mread x.scratch a.toNat n)

/-- The access trap of an engine kind absent from ENGINE_MASK (R96). -/
def kindTrap (s : Hw) (c kind : Nat) : Option TrapClass :=
  if bit (libMask (s.cfgOf c) (s.ctx c).entry.toNat) kind then none else some 5

end Sys2Proof.Machine
end

