-- ==== Sys2Proof/Machine/Programs.lean ====
section
/-! DEFINITION. The engine instructions (R112 to R126), the acceptance of a held one (R81), and the events of the router and
of the buffers (R30, R37, R113, R124). -/

namespace Sys2Proof.Machine

/-! ### CIPH (R116, R117) -/

/-- A refusal at issue for want of a serving engine or a quota: a job one of whose predecessors has failed does no work and
ends with its status instead (R113). -/
def issueRefusal (s : Hw) (c : Nat) (set : BitVec 16) (op : JobOp) (st : Option (BitVec 8)) : Option (BitVec 8) :=
  if (predsFail (predsOf s c set op)).isSome then none else st

/-- What a pair or its hold quota refuses at issue (R138, R142, R157), a fenced pair first. -/
def ciphEarly (s : Hw) (c : Nat) (b : Block) : Option (BitVec 8) :=
  match pairRefuses s (pairOf (benchOf c) (cbMode b)) with
  | some st => some st
  | none => if holdOver s c b then some stQuota else none

/-- The stream of a CIPH job, by the issue order of its FIRST job (log 21), and the refusal at issue if any: what is wrong with
the block before what its pair cannot serve. A later job of a failed stream completes with that failure's status, whatever its
block holds, until a new FIRST job opens the number or a LAST job leaves it (log 142). -/
def ciphIssue (s : Hw) (c : Nat) (set : BitVec 16) (b : Block) : Nat × Option (BitVec 8) :=
  let x := s.ctx c
  let bad := ciphBad b (x.flag 0)
  let early := issueRefusal s c set (.ciph b) (ciphEarly s c b)
  match openCs x (pbStream b) with
  | some (id, v) =>
    let gone := (v.failed.or v.ending)
    if pbFirst b then (s.jobSeq, if gone.isNone || bad then some stDescriptorInvalid else early)
    else match gone with
      | some st => (id, some st)
      | none => (id, if bad || !ciphMatches v b then some stDescriptorInvalid else early)
  | none => (s.jobSeq, if bad || !pbFirst b then some stDescriptorInvalid else early)

/-- The stream that a CIPH with FIRST opens; the last one under its number is open no more. -/
def openStream (x : Ctx) (b : Block) (id : Nat) (v : CipherStream) : Ctx :=
  let x : Ctx :=
    { x with cstreams := x.cstreams.map fun e => if e.2.num = pbStream b then (e.1, { e.2 with isOpen := false }) else e }
  x.setCs id { v with num := pbStream b, mode := BitVec.ofNat 8 (cbMode b), dir := cbDir b, slot := pbSlot b
                      rel := cbRel b, isOpen := !pbLast b }

/-- What a CIPH does to its streams as it issues: FIRST opens and reserves its hold (R157), LAST closes for issue, a refused
job of an open stream fails the stream behind its older jobs (R117). -/
def ciphStreams (b : Block) (id : Nat) (refuse : Option (BitVec 8)) (s : Hw) (key : Nat) : Hw :=
  let c := key / 16
  let x := s.ctx c
  match refuse with
  | some st =>
    if pbFirst b then
      if st = stDescriptorInvalid then s
      else s.modCtx c fun x => openStream x b id { failed := some st }
    else if (openCs x (pbStream b)).isSome then
      let s :=
        if (x.cs id).failed.isSome then s
        else if csOlder s c id s.jobSeq then endingCs s c id st
        else failCs s c id st none
      if pbLast b then s.modCtx c fun x => x.setCs id { x.cs id with isOpen := false } else s
    else s
  | none =>
    if !pbFirst b then s.modCtx c fun x => x.setCs id { x.cs id with isOpen := !pbLast b }
    else
      let hold := if cbDir b && taggedMode (cbMode b) && !cbRel b then holdNeed x else 0
      let s : Hw := { s with cs := { s.cs with holds := tmod 0 s.cs.holds x.domain (· + hold) } }
      s.modCtx c fun x => openStream x b id { holdBufs := hold }

/-- CIPH. -/
def ciphAct (c : BitVec 9) (rd ra rb : BitVec 5) (s : Hw) : Act :=
  let x := s.ctx c.toNat
  let b := blockAt x (x.rget ra) 64
  let (id, refuse) := ciphIssue s c.toNat (afterSet x rb) b
  engineAct (.ciph c rd ra rb) c.toNat rd rb
    { first := blockTrap (x.rget ra) 64, last := kindTrap s c.toNat (if cbMode b = 0x10 then 1 else 0), op := .ciph b
      stream := id, verdict := ciphVerdict b, refuse := refuse } (ciphStreams b id refuse) s

/-! ### DGST (R117, R119) -/

/-- The ParallelHash block size of a job's stream (R176). -/
def dgstUnit (b : Block) (v : DigestStream) : Nat := 2 ^ (if pbFirst b then dbBlockLog2 b else v.blockLog2)

/-- The stream of a DGST job, and the refusal at issue if any. -/
def dgstIssue (s : Hw) (c : Nat) (set : BitVec 16) (b : Block) : Nat × Option (BitVec 8) :=
  let x := s.ctx c
  let early := fun (v : DigestStream) =>
    issueRefusal s c set (.dgst b) (if (dgstEngine s c v b).isNone then some stEngineFenced else none)
  match openDs x (pbStream b) with
  | some (id, v) =>
    let bad := dgstBad b (dgstUnit b v)
    let gone := (v.failed.or v.ending)
    if pbFirst b then (s.jobSeq, if gone.isNone || bad then some stDescriptorInvalid else early {})
    else match gone with
      | some st => (id, some st)
      | none => (id, if bad || !dgstMatches v b then some stDescriptorInvalid else early v)
  | none => (s.jobSeq, if dgstBad b (dgstUnit b {}) || !pbFirst b then some stDescriptorInvalid else early {})

/-- The stream that a DGST with FIRST opens; the last one under its number is open no more. -/
def openDigest (x : Ctx) (b : Block) (id : Nat) (v : DigestStream) : Ctx :=
  let x : Ctx :=
    { x with dstreams := x.dstreams.map fun e => if e.2.num = pbStream b then (e.1, { e.2 with isOpen := false }) else e }
  x.setDs id { v with num := pbStream b, alg := BitVec.ofNat 8 (dbAlg b), slot := pbSlot b, blockLog2 := dbBlockLog2 b
                      isOpen := !pbLast b }

/-- What a DGST does to its streams as it issues (R117). -/
def dgstStreams (b : Block) (id : Nat) (refuse : Option (BitVec 8)) (s : Hw) (key : Nat) : Hw :=
  let c := key / 16
  let x := s.ctx c
  match refuse with
  | some st =>
    if pbFirst b then
      if st = stDescriptorInvalid then s
      else s.modCtx c fun x => openDigest x b id { failed := some st }
    else if (openDs x (pbStream b)).isSome then
      let s :=
        if (x.ds id).failed.isSome then s
        else if dsOlder s c id s.jobSeq then endingDs s c id st
        else failDs s c id st
      if pbLast b then s.modCtx c fun x => x.setDs id { x.ds id with isOpen := false } else s
    else s
  | none =>
    s.modCtx c fun x => if pbFirst b then openDigest x b id {} else x.setDs id { x.ds id with isOpen := !pbLast b }

/-- DGST. -/
def dgstAct (c : BitVec 9) (rd ra rb : BitVec 5) (s : Hw) : Act :=
  let x := s.ctx c.toNat
  let b := blockAt x (x.rget ra) 64
  let (id, refuse) := dgstIssue s c.toNat (afterSet x rb) b
  engineAct (.dgst c rd ra rb) c.toNat rd rb
    { first := blockTrap (x.rget ra) 64, last := kindTrap s c.toNat (if digKeyed (dbAlg b) then 3 else 2), op := .dgst b
      stream := id, verdict := dbCheck b, refuse := refuse } (dgstStreams b id refuse) s

/-! ### PK (R120, R193) -/

/-- PK's refusal at issue: R24 before the structure when both are known at issue, then a bench none of whose units serves
(R217). -/
def pkIssue (s : Hw) (c : Nat) (set : BitVec 16) (b : Block) : Option (BitVec 8) :=
  let flags := if predsMet (predsOf s c set (.pk b)) then pkFlags (s.cfgOf c) (s.ctx c).domain b else none
  match issueRefusal s c set (.pk b) flags with
  | some st => some st
  | none =>
    if pkBad b then some stDescriptorInvalid
    else issueRefusal s c set (.pk b) (if pkBenchServes s (benchOf c) then none else some stEngineFenced)

/-- PK. -/
def pkAct (c : BitVec 9) (rd ra rb : BitVec 5) (s : Hw) : Act :=
  let x := s.ctx c.toNat
  let b := blockAt x (x.rget ra) 64
  engineAct (.pk c rd ra rb) c.toNat rd rb
    { first := blockTrap (x.rget ra) 64, last := kindTrap s c.toNat 4, op := .pk b
      verdict := pkVerify (kbOp b), refuse := pkIssue s c.toNat (afterSet x rb) b } (fun s _ => s) s

/-! ### KEY and NDRAW (R118, R122, R247) -/

/-- Reserved bits of word 0 of a KEY block. -/
def keyReserved (w : Word) : Bool := fld w 17 3 != 0 || fld w 32 32 != 0

/-- KEY with a 16 B block: `op` and its refusal from the block's two words. -/
def keyAct (i : Instr) (c : BitVec 9) (rd ra rb : BitVec 5) (first : Option TrapClass) (op : Word → Word → JobOp)
    (bad : Word → Word → Bool) (s : Hw) : Act :=
  let x := s.ctx c.toNat
  let b := blockAt x (x.rget ra) 16
  engineAct i c.toNat rd rb
    { first := match first with | some t => some t | none => blockTrap (x.rget ra) 16
      op := op (wordOf b 0) (wordOf b 1)
      refuse := if bad (wordOf b 0) (wordOf b 1) then some stDescriptorInvalid else none } (fun s _ => s) s

/-- KCHK. A USE or an ALG that R122 and R233 reserve is refused at issue. -/
def kchkAct (c : BitVec 9) (rd ra rb : BitVec 5) : Hw → Act :=
  keyAct (.kchk c rd ra rb) c rd ra rb none (fun w _ => .kchk w) fun w r =>
    keyReserved w || rgBad r || fld w 20 4 = 0 || 6 < fld w 20 4 || !(algKnown (fld w 24 8) || fld w 24 8 = 0x70)

/-- The privilege trap of a form that tenants may not use (R121, R122). -/
def tenantTrap (s : Hw) (c : Nat) : Option TrapClass := if (s.ctx c).domain = 0 then none else some 9

/-- KINT. The range must lie in a handle (R268). -/
def kintAct (c : BitVec 9) (rd ra rb : BitVec 5) (s : Hw) : Act :=
  keyAct (.kint c rd ra rb) c rd ra rb (tenantTrap s c.toNat) (fun _ r => .kint r)
    (fun w r => keyReserved w || rgPayloadBad r) s

/-- KATT (R247). -/
def kattAct (c : BitVec 9) (rd ra rb : BitVec 5) : Hw → Act :=
  keyAct (.katt c rd ra rb) c rd ra rb none (fun w r => .katt (w.extractLsb' 0 17) r) fun w r =>
    keyReserved w || rgBad r || fld w 20 12 != 0 || rgLen r < 3629

/-- NDRAW (R118). -/
def ndrawAct (c : BitVec 9) (rd rc ra rb : BitVec 5) (s : Hw) : Act :=
  let x := s.ctx c.toNat
  engineAct (.ndraw c rd rc ra rb) c.toNat rd rb
    { op := .ndraw ((x.rget ra).extractLsb' 0 17) rc.toNat } (fun s _ => s) s

/-! ### XFER (R121) -/

/-- The span that a gather or scatter takes at issue, as start and length: a gather's is clipped at LENGTH (R121). -/
def spanOf (x : Ctx) (op : JobOp) : Nat × Nat :=
  match op with
  | .xgath r => (x.inCursor, min (rgLen r) (x.length - x.inCursor))
  | .xscat r => (x.outCursor, rgLen r)
  | _ => (0, 0)

/-- The cursors move by the span at once (R121). A transfer refused at issue takes no span (log 138). -/
def takeSpan (op : JobOp) (n : Nat) (refused : Bool) (s : Hw) (key : Nat) : Hw :=
  if refused then s
  else match op with
    | .xgath _ => s.modCtx (key / 16) fun x => { x with inCursor := x.inCursor + n }
    | .xscat _ => s.modCtx (key / 16) fun x => { x with outCursor := x.outCursor + n }
    | _ => s

/-- XFER: `op` from ADDR and the range, and whether its ADDR is refused. -/
def xferAct (i : Instr) (c : BitVec 9) (rd ra rb : BitVec 5) (first : Option TrapClass) (op : Word → Word → JobOp)
    (bad : Word → Bool) (s : Hw) : Act :=
  let x := s.ctx c.toNat
  let b := blockAt x (x.rget ra) 16
  let o := op (wordOf b 0) (wordOf b 1)
  let refuse := if rgPayloadBad (wordOf b 1) || bad (wordOf b 0) then some stDescriptorInvalid else none
  engineAct i c.toNat rd rb
    { first := match first with | some t => some t | none => blockTrap (x.rget ra) 16
      op := o, span := spanOf x o, refuse := refuse } (takeSpan o (spanOf x o).2 refuse.isSome) s

/-- XGATH. -/
def xgathAct (c : BitVec 9) (rd ra rb : BitVec 5) : Hw → Act :=
  xferAct (.xgath c rd ra rb) c rd ra rb none (fun _ r => .xgath r) fun _ => false

/-- XSCAT. -/
def xscatAct (c : BitVec 9) (rd ra rb : BitVec 5) : Hw → Act :=
  xferAct (.xscat c rd ra rb) c rd ra rb none (fun _ r => .xscat r) fun _ => false

/-- XLOAD. -/
def xloadAct (c : BitVec 9) (rd ra rb : BitVec 5) : Hw → Act :=
  xferAct (.xload c rd ra rb) c rd ra rb none (fun a r => .xload a r) fun _ => false

/-- XSTORE. -/
def xstoreAct (c : BitVec 9) (rd ra rb : BitVec 5) : Hw → Act :=
  xferAct (.xstore c rd ra rb) c rd ra rb none (fun a r => .xstore a r) fun _ => false

/-- XLIB: a tenant's raises the privilege trap; ADDR is 8 B-aligned. -/
def xlibAct (c : BitVec 9) (rd ra rb : BitVec 5) (s : Hw) : Act :=
  xferAct (.xlib c rd ra rb) c rd ra rb (tenantTrap s c.toNat) (fun a r => .xlib a r) (fun a => fld a 0 3 != 0) s

/-! ### CMPCT, HND, POST, SIGNAL (R123 to R126) -/

/-- CMPCT: `len` is FN, one less than the number of bytes. -/
def cmpctAct (c : BitVec 9) (rd rc ra rb : BitVec 5) (len : BitVec 6) (s : Hw) : Act :=
  let x := s.ctx c.toNat
  engineAct (.cmpct c rd rc ra rb len) c.toNat rd rb
    { op := .cmpct (x.rget ra) (x.rget rc) (len.toNat + 1), verdict := true } (fun s _ => s) s

/-- ALLOC: a live handle raises the access trap; the handle is being allocated from its issue. -/
def allocAct (c : BitVec 9) (rd rc ra rb : BitVec 5) (s : Hw) : Act :=
  let x := s.ctx c.toNat
  let n := fld (x.rget ra) 0 32
  let bad := n = 0 || 1024 < n
  engineAct (.alloc c rd rc ra rb) c.toNat rd rb
    { last := if (x.hnd rc.toNat).st = .closed then none else some 5, op := .alloc rc.toNat n
      refuse := if bad then some stDescriptorInvalid else none }
    (fun s _ => if bad then s else s.modCtx c.toNat fun x => x.setHnd rc.toNat { st := .allocating }) s

/-- FREE: a handle that is not live raises the access trap; one that is being allocated is freed after that (R114). -/
def freeAct (c : BitVec 9) (rd rc rb : BitVec 5) (s : Hw) : Act :=
  let x := s.ctx c.toNat
  let ok := (x.hnd rc.toNat).st = .live || (x.hnd rc.toNat).st = .allocating
  engineAct (.free c rd rc rb) c.toNat rd rb
    { last := if ok then none else some 5, op := .free rc.toNat }
    (fun s _ => s.modCtx c.toNat fun x => x.setHnd rc.toNat { x.hnd rc.toNat with st := .freeing }) s

/-- JOIN. -/
def joinAct (c : BitVec 9) (rd rb : BitVec 5) (s : Hw) : Act :=
  engineAct (.join c rd rb) c.toNat rd rb { op := .join } (fun s _ => s) s

/-- SIGNAL: a misaligned address is refused at issue. -/
def signalAct (c : BitVec 9) (rd rc ra rb : BitVec 5) (s : Hw) : Act :=
  let x := s.ctx c.toNat
  engineAct (.signal c rd rc ra rb) c.toNat rd rb
    { op := .signal (x.rget ra) (x.rget rc)
      refuse := if fld (x.rget ra) 0 3 != 0 then some stDescriptorInvalid else none } (fun s _ => s) s

/-- The status with which a posted one commits (R126). -/
def postStatus (st : BitVec 8) : BitVec 8 := if 0x1A ≤ st.toNat && st.toNat ≤ 0x7F then stIllegalProgram else st

/-- POST (R83, R126): a ticket is taken, and the completion goes to the ring manager. -/
def postAct (c : BitVec 9) (reg : Bool) (ra : BitVec 5) (status : BitVec 8) (s : Hw) : Act :=
  let x := s.ctx c.toNat
  match x.freeTicket with
  | none => .trap 7
  | some t =>
    if queueFull s c.toNat 0 .post then
      .wait (s.modCtx c.toNat fun x => { x with st := .waiting, hold := .queue (.post c reg ra status) })
    else
      let st := if reg then (x.rget ra).extractLsb' 0 8 else status
      .done (settleAll (s.modCtx c.toNat fun x =>
        { x.setTk t { st := .pending } with posted := some (postStatus st) })) false

/-! ### Meanings -/

/-- What REP makes of an engine instruction: a reserved register field traps at the first iteration (R86, R99). -/
def engineKind (reserved : Bool) : RepKind := if reserved then .reserved 1 else .notRepeatable

/-- CIPH (R116). -/
def execCiph (c : BitVec 9) (rd ra rb : BitVec 5) (s : State) : Host.Outcome State Fault Refusal :=
  s.insn c (encR 0x18 rd ra rb 0 0x00) .notRepeatable (ciphAct c rd ra rb)
/-- DGST (R119). -/
def execDgst (c : BitVec 9) (rd ra rb : BitVec 5) (s : State) : Host.Outcome State Fault Refusal :=
  s.insn c (encR 0x19 rd ra rb 0 0x00) .notRepeatable (dgstAct c rd ra rb)
/-- PK (R120). -/
def execPk (c : BitVec 9) (rd ra rb : BitVec 5) (s : State) : Host.Outcome State Fault Refusal :=
  s.insn c (encR 0x1A rd ra rb 0 0x00) .notRepeatable (pkAct c rd ra rb)
/-- KCHK (R122). -/
def execKchk (c : BitVec 9) (rd ra rb : BitVec 5) (s : State) : Host.Outcome State Fault Refusal :=
  s.insn c (encR 0x1B rd ra rb 0 0x00) .notRepeatable (kchkAct c rd ra rb)
/-- KINT (R122, R268). -/
def execKint (c : BitVec 9) (rd ra rb : BitVec 5) (s : State) : Host.Outcome State Fault Refusal :=
  s.insn c (encR 0x1B rd ra rb 0 0x01) .notRepeatable (kintAct c rd ra rb)
/-- KATT (R122, R247). -/
def execKatt (c : BitVec 9) (rd ra rb : BitVec 5) (s : State) : Host.Outcome State Fault Refusal :=
  s.insn c (encR 0x1B rd ra rb 0 0x02) .notRepeatable (kattAct c rd ra rb)
/-- NDRAW (R118): holders 4 to 31 are reserved. -/
def execNdraw (c : BitVec 9) (rd rc ra rb : BitVec 5) (s : State) : Host.Outcome State Fault Refusal :=
  s.insn c (encR 0x1C rd ra rb rc 0x00) (engineKind (4 ≤ rc.toNat)) (ndrawAct c rd rc ra rb)
/-- XGATH (R121). -/
def execXgath (c : BitVec 9) (rd ra rb : BitVec 5) (s : State) : Host.Outcome State Fault Refusal :=
  s.insn c (encR 0x1D rd ra rb 0 0x00) .notRepeatable (xgathAct c rd ra rb)
/-- XSCAT (R121). -/
def execXscat (c : BitVec 9) (rd ra rb : BitVec 5) (s : State) : Host.Outcome State Fault Refusal :=
  s.insn c (encR 0x1D rd ra rb 0 0x01) .notRepeatable (xscatAct c rd ra rb)
/-- XLOAD (R121). -/
def execXload (c : BitVec 9) (rd ra rb : BitVec 5) (s : State) : Host.Outcome State Fault Refusal :=
  s.insn c (encR 0x1D rd ra rb 0 0x02) .notRepeatable (xloadAct c rd ra rb)
/-- XSTORE (R121). -/
def execXstore (c : BitVec 9) (rd ra rb : BitVec 5) (s : State) : Host.Outcome State Fault Refusal :=
  s.insn c (encR 0x1D rd ra rb 0 0x03) .notRepeatable (xstoreAct c rd ra rb)
/-- XLIB (R97, R121). -/
def execXlib (c : BitVec 9) (rd ra rb : BitVec 5) (s : State) : Host.Outcome State Fault Refusal :=
  s.insn c (encR 0x1D rd ra rb 0 0x04) .notRepeatable (xlibAct c rd ra rb)
/-- CMPCT (R124). -/
def execCmpct (c : BitVec 9) (rd rc ra rb : BitVec 5) (len : BitVec 6) (s : State) : Host.Outcome State Fault Refusal :=
  s.insn c (encR 0x1E rd ra rb rc len.toNat) .notRepeatable (cmpctAct c rd rc ra rb len)
/-- ALLOC (R123): handles 16 to 31 are reserved. -/
def execAlloc (c : BitVec 9) (rd rc ra rb : BitVec 5) (s : State) : Host.Outcome State Fault Refusal :=
  s.insn c (encR 0x1F rd ra rb rc 0x00) (engineKind (16 ≤ rc.toNat)) (allocAct c rd rc ra rb)
/-- FREE (R123). -/
def execFree (c : BitVec 9) (rd rc rb : BitVec 5) (s : State) : Host.Outcome State Fault Refusal :=
  s.insn c (encR 0x1F rd 0 rb rc 0x01) (engineKind (16 ≤ rc.toNat)) (freeAct c rd rc rb)
/-- JOIN (R123). -/
def execJoin (c : BitVec 9) (rd rb : BitVec 5) (s : State) : Host.Outcome State Fault Refusal :=
  s.insn c (encR 0x1F rd 0 rb 0 0x02) .notRepeatable (joinAct c rd rb)
/-- POST (R83, R126). -/
def execPost (c : BitVec 9) (reg : Bool) (ra : BitVec 5) (status : BitVec 8) (s : State) :
    Host.Outcome State Fault Refusal :=
  s.insn c (encP 0x20 reg ra status) .notRepeatable (postAct c reg ra status)
/-- SIGNAL (R125). -/
def execSignal (c : BitVec 9) (rd rc ra rb : BitVec 5) (s : State) : Host.Outcome State Fault Refusal :=
  s.insn c (encR 0x21 rd ra rb rc 0x00) .notRepeatable (signalAct c rd rc ra rb)

/-! ### The router's and the buffers' events -/

/-- CMPCT_DONE (R124): 20 core clocks after its start the comparison completes; what it reads may be lost (R286). -/
def cmpctDone (key : Nat) (read : List WordErrors) (s : Hw) : Hw :=
  match s.job key with
  | some j => match j.op with
    | .cmpct a b n =>
      if j.phase != .running then s
      else
        let s := advanceTo s (j.since + 20)
        let x := s.ctx (key / 16)
        let l := (ctxRange a n ++ ctxRange b n).flatMap fun r => rgWords x r read
        let lost := readLost s l
        let s := readAll s l
        let bytes : Word → Bytes := fun a => match place x a.toNat n with | some p => placeRead s x p n | none => []
        if (s.job key).isNone then s
        else finishFree s key (if lost then stDataUncorrected else if bytes a = bytes b then stOk else stVerifyFail)
    | _ => s
  | none => s

/-- CMPCT_DONE (R124). -/
def execCmpctDone (c : BitVec 9) (t : BitVec 4) (s : State) (read : List WordErrors := []) :
    Host.Outcome State Fault Refusal :=
  s.work (cmpctDone (jobKey c.toNat t.toNat) read)

/-- JOB_PASSED_TO_ENGINE (R113). -/
def execJobPassedToEngine (c : BitVec 9) (t : BitVec 4) (s : State) : Host.Outcome State Fault Refusal :=
  s.work fun h => routerGo h (jobKey c.toNat t.toNat)

/-- The instruction that holds a context for a full queue, issued again (R81). -/
def heldInsn (i : Instr) : Option (BitVec 32 × RepKind × (Hw → Act)) :=
  match i with
  | .ciph c rd ra rb => some (encR 0x18 rd ra rb 0 0x00, .notRepeatable, ciphAct c rd ra rb)
  | .dgst c rd ra rb => some (encR 0x19 rd ra rb 0 0x00, .notRepeatable, dgstAct c rd ra rb)
  | .pk c rd ra rb => some (encR 0x1A rd ra rb 0 0x00, .notRepeatable, pkAct c rd ra rb)
  | .kchk c rd ra rb => some (encR 0x1B rd ra rb 0 0x00, .notRepeatable, kchkAct c rd ra rb)
  | .kint c rd ra rb => some (encR 0x1B rd ra rb 0 0x01, .notRepeatable, kintAct c rd ra rb)
  | .katt c rd ra rb => some (encR 0x1B rd ra rb 0 0x02, .notRepeatable, kattAct c rd ra rb)
  | .ndraw c rd rc ra rb => some (encR 0x1C rd ra rb rc 0x00, .notRepeatable, ndrawAct c rd rc ra rb)
  | .xgath c rd ra rb => some (encR 0x1D rd ra rb 0 0x00, .notRepeatable, xgathAct c rd ra rb)
  | .xscat c rd ra rb => some (encR 0x1D rd ra rb 0 0x01, .notRepeatable, xscatAct c rd ra rb)
  | .xload c rd ra rb => some (encR 0x1D rd ra rb 0 0x02, .notRepeatable, xloadAct c rd ra rb)
  | .xstore c rd ra rb => some (encR 0x1D rd ra rb 0 0x03, .notRepeatable, xstoreAct c rd ra rb)
  | .xlib c rd ra rb => some (encR 0x1D rd ra rb 0 0x04, .notRepeatable, xlibAct c rd ra rb)
  | .cmpct c rd rc ra rb len => some (encR 0x1E rd ra rb rc len.toNat, .notRepeatable, cmpctAct c rd rc ra rb len)
  | .alloc c rd rc ra rb => some (encR 0x1F rd ra rb rc 0x00, .notRepeatable, allocAct c rd rc ra rb)
  | .free c rd rc rb => some (encR 0x1F rd 0 rb rc 0x01, .notRepeatable, freeAct c rd rc rb)
  | .join c rd rb => some (encR 0x1F rd 0 rb 0 0x02, .notRepeatable, joinAct c rd rb)
  | .post c reg ra status => some (encP 0x20 reg ra status, .notRepeatable, postAct c reg ra status)
  | .signal c rd rc ra rb => some (encR 0x21 rd ra rb rc 0x00, .notRepeatable, signalAct c rd rc ra rb)
  | _ => none

/-- A held instruction issues again: the queue takes its job, or it goes on waiting (R81). -/
def queueAccept (c : Nat) (s : Hw) : Hw :=
  match (s.ctx c).hold with
  | .queue i =>
    if (s.ctx c).st != .waiting then s
    else match heldInsn i with
      | some (w, k, a) => issue (s.modCtx c fun x => { x with st := .ready, hold := .none }) c w k a
      | none => s
  | _ => s

/-- ENGINE_QUEUE_ACCEPT (R81). -/
def execEngineQueueAccept (c : BitVec 9) (s : State) : Host.Outcome State Fault Refusal := s.work (queueAccept c.toNat)

/-- A waiting ALLOC is looked at again: served, or refused when its domain's count has come too near CS_BUF (R30). -/
def bufferAllocated (key : Nat) (s : Hw) : Hw :=
  match s.job key with
  | some j => match j.op with
    | .alloc h n =>
      if j.phase != .allocating then s
      else if allocOver s key n then allocFail s key h stQuota
      else allocServe s key h n
    | _ => s
  | none => s

/-- BUFFER_ALLOCATED (R30, R73). -/
def execBufferAllocated (c : BitVec 9) (t : BitVec 4) (s : State) : Host.Outcome State Fault Refusal :=
  s.work (bufferAllocated (jobKey c.toNat t.toNat))

/-- The core clock at which a wait of a context's job that began at `since` ends: the request's deadline, or 1 ms (R30,
R151). -/
def waitLimit (s : Hw) (c since : Nat) : Nat := (((s.ctx c).req.bind (·.deadline)).getD (since + 1000 * clkPerUs s))

/-- A waiting ALLOC has reached its limit (R30, R63). -/
def allocExpiry (key : Nat) (s : Hw) : Hw :=
  match s.job key with
  | some j => match j.op with
    | .alloc h _ =>
      if j.phase = .allocating then allocFail (advanceTo s (waitLimit s (key / 16) j.since)) key h stQuota else s
    | _ => s
  | none => s

/-- ALLOC_WAIT_EXPIRY (R30). -/
def execAllocWaitExpiry (c : BitVec 9) (t : BitVec 4) (s : State) : Host.Outcome State Fault Refusal :=
  s.work (allocExpiry (jobKey c.toNat t.toNat))

/-- The zeroer ends with a buffer: it is free, or retired when its read-back failed (R37, R286, R287). Only the first 8 of
the queue are worked on. -/
def bufferZeroed (b : Nat) (readBack : Bool) (s : Hw) : Hw :=
  if !(s.cs.zeroQ.take 8).contains b then s
  else
    let bad := s.cs.recheck.contains b && !readBack
    let s := { s with cs := { s.cs with
      bytes := s.cs.bytes.filter fun e => e.1 / 4096 != b
      zeroQ := s.cs.zeroQ.filter fun x => x != b
      recheck := s.cs.recheck.filter fun x => x != b
      bufs := if bad then tput b .retired s.cs.bufs else tdel b s.cs.bufs } }
    if bad then note s 0x80 4 else s

/-- BUFFER_ZEROED (R37). -/
def execBufferZeroed (buf : BitVec 13) (readBack : Bool) (s : State) : Host.Outcome State Fault Refusal :=
  s.live (bufferZeroed buf.toNat readBack)

end Sys2Proof.Machine
end

