-- ==== Sys2Proof/Machine/AwlWord.lean ====
section
/-! DEFINITION. The instruction words of an awl (R99, R100, and the encoding tables of R101 to R127): which instruction a word
is, and the trap of a word that is none. -/

namespace Sys2Proof.Machine

/-- RD of a word. -/
def wRd (w : BitVec 32) : BitVec 5 := w.extractLsb' 21 5
/-- RA of a word; RB of format M lies there too. -/
def wRa (w : BitVec 32) : BitVec 5 := w.extractLsb' 16 5
/-- RB of a word. -/
def wRb (w : BitVec 32) : BitVec 5 := w.extractLsb' 11 5
/-- RC of a word. -/
def wRc (w : BitVec 32) : BitVec 5 := w.extractLsb' 6 5
/-- IMM16 of a word. -/
def wImm (w : BitVec 32) : BitVec 16 := w.extractLsb' 0 16

/-- ALU words (R101): RC is zero. -/
def aluWord (c : BitVec 9) (w : BitVec 32) : Option Instr :=
  let d := wRd w
  let a := wRa w
  let b := wRb w
  if wRc w != 0 then none
  else match fld w 0 6 with
    | 0x00 => some (.add c d a b)
    | 0x01 => some (.sub c d a b)
    | 0x02 => some (.and c d a b)
    | 0x03 => some (.or c d a b)
    | 0x04 => some (.xor c d a b)
    | 0x05 => some (.andn c d a b)
    | 0x08 => some (.shl c d a b)
    | 0x09 => some (.shr c d a b)
    | 0x0A => some (.sar c d a b)
    | 0x0B => some (.ror c d a b)
    | 0x0C => some (.rol c d a b)
    | 0x10 => if b = 0 then some (.neg c d a) else none
    | 0x11 => if d = 0 then some (.cmp c a b) else none
    | 0x12 => if b = 0 then some (.bswap c d a) else none
    | 0x13 => if b = 0 then some (.clz c d a) else none
    | 0x14 => if b = 0 then some (.popc c d a) else none
    | 0x3F => if d = 0 && a = 0 && b = 0 then some (.nop c) else none
    | _ => none

/-- MULDIV words (R103): RC is zero but for the divisions. -/
def mulWord (c : BitVec 9) (w : BitVec 32) : Option Instr :=
  match fld w 0 6 with
  | 0x00 => if wRc w = 0 then some (.mul c (wRd w) (wRa w) (wRb w)) else none
  | 0x01 => if wRc w = 0 then some (.mulhu c (wRd w) (wRa w) (wRb w)) else none
  | 0x02 => if wRc w = 0 then some (.mulhs c (wRd w) (wRa w) (wRb w)) else none
  | 0x04 => some (.div c (wRd w) (wRc w) (wRa w) (wRb w))
  | 0x05 => some (.divu c (wRd w) (wRc w) (wRa w) (wRb w))
  | _ => none

/-- SPEC words (R104). -/
def specWord (c : BitVec 9) (w : BitVec 32) : Option Instr :=
  if wRc w != 0 then none
  else match fld w 0 6 with
    | 0x00 => if wRa w = 0 then some (.mfs c (wRd w) (wRb w)) else none
    | 0x01 => if wRd w = 0 then some (.movs c (wRb w) (wRa w)) else none
    | _ => none

/-- Words of format M (R105), with the reads that a load makes. -/
def memWord (c : BitVec 9) (w : BitVec 32) (read : List WordErrors) : Option Instr :=
  let mode := w.extractLsb' 13 3
  let sz := w.extractLsb' 11 2
  let sx := bit w 10
  let adr := w.extractLsb' 0 10
  match fld w 26 6 with
  | 0x0C => if modeReserved mode adr then none else some (.ld c (wRd w) (wRa w) mode sz sx adr read)
  | 0x0D => if modeReserved mode adr || sx then none else some (.st c (wRd w) (wRa w) mode sz sx adr)
  | 0x0E => if wideReserved (wRd w) mode sz sx adr then none else some (.ldw c (wRd w) (wRa w) mode sz sx adr read)
  | _ => if wideReserved (wRd w) mode sz sx adr then none else some (.stw c (wRd w) (wRa w) mode sz sx adr)

/-- Words of the engine instructions in format R (R112 to R125). -/
def engineWord (c : BitVec 9) (w : BitVec 32) : Option Instr :=
  let d := wRd w
  let a := wRa w
  let b := wRb w
  let k := wRc w
  let only (i : Instr) : Option Instr := if k = 0 then some i else none
  match fld w 26 6, fld w 0 6 with
  | 0x18, 0 => only (.ciph c d a b)
  | 0x19, 0 => only (.dgst c d a b)
  | 0x1A, 0 => only (.pk c d a b)
  | 0x1B, 0 => only (.kchk c d a b)
  | 0x1B, 1 => only (.kint c d a b)
  | 0x1B, 2 => only (.katt c d a b)
  | 0x1C, 0 => if k.toNat < 4 then some (.ndraw c d k a b) else none
  | 0x1D, 0 => only (.xgath c d a b)
  | 0x1D, 1 => only (.xscat c d a b)
  | 0x1D, 2 => only (.xload c d a b)
  | 0x1D, 3 => only (.xstore c d a b)
  | 0x1D, 4 => only (.xlib c d a b)
  | 0x1E, _ => some (.cmpct c d k a b (w.extractLsb' 0 6))
  | 0x1F, 0 => if k.toNat < 16 then some (.alloc c d k a b) else none
  | 0x1F, 1 => if k.toNat < 16 then some (.free c d k b) else none
  | 0x1F, 2 => if k = 0 && a = 0 then some (.join c d b) else none
  | 0x21, 0 => some (.signal c d k a b)
  | _, _ => none

/-- The instruction of context c that a word is, with the reads of the store that a load makes; none where R99 makes the word
reserved. The numbers of OP are those of R100. -/
def awlDecode (c : BitVec 9) (w : BitVec 32) (read : List WordErrors) : Option Instr :=
  let d := wRd w
  let a := wRa w
  match fld w 26 6 with
  | 0x01 => aluWord c w
  | 0x02 => some (.addi c d a (wImm w))
  | 0x03 => some (.andi c d a (wImm w))
  | 0x04 => some (.ori c d a (wImm w))
  | 0x05 => some (.xori c d a (wImm w))
  | 0x06 => if fld w 8 8 = 0 then some (.shi c d a (w.extractLsb' 6 2) (w.extractLsb' 0 6)) else none
  | 0x07 => if fld w 18 3 = 0 then some (.movi c d (w.extractLsb' 16 2) (wImm w)) else none
  | 0x08 => if fld w 18 3 = 0 then some (.movk c d (w.extractLsb' 16 2) (wImm w)) else none
  | 0x09 => mulWord c w
  | 0x0A => if d = 0 then some (.cmpi c a (wImm w)) else none
  | 0x0B => specWord c w
  | 0x0C | 0x0D | 0x0E | 0x0F => memWord c w read
  | 0x10 => some (.bcc c (w.extractLsb' 22 4) (w.extractLsb' 0 22))
  | 0x11 => some (.jal c d (w.extractLsb' 0 21))
  | 0x12 => if wRb w = 0 && wRc w = 0 && fld w 0 6 = 0 then some (.jr c d a) else none
  | 0x13 =>
    if fld w 21 3 != 0 || repReserved (w.extractLsb' 24 2) a (wImm w) then none
    else some (.rep c (w.extractLsb' 24 2) a (wImm w))
  | 0x14 => if wRc w = 0 && fld w 1 5 = 0 then some (.wait c d a (wRb w) (bit w 0)) else none
  | 0x15 => if wRb w = 0 && fld w 0 6 = 0 then some (.tstat c d (wRc w) a) else none
  | 0x20 => if d = 0 && fld w 1 7 = 0 then some (.post c (bit w 0) a (w.extractLsb' 8 8)) else none
  | _ => engineWord c w

/-- A word that R99 makes reserved. -/
def wordReserved (w : BitVec 32) : Bool := (awlDecode 0 w []).isNone

/-- RESERVED_OPCODE (R99): a word whose encoding is reserved raises the reserved-opcode trap. Any other word is the command of
the instruction that it is, and this one has no effect with it. -/
def execReservedOpcode (c : BitVec 9) (word : BitVec 32) (s : State) : Host.Outcome State Fault Refusal :=
  if wordReserved word then s.insn c word (.reserved 1) fun _ => .trap 1 else s.live id

end Sys2Proof.Machine
end

