-- ==== Sys2Proof/Machine/Forward.lean ====
section
/-! DEFINITION. The lists of forwarded requests (R418): the originating block walks them and moves their bytes through its
own windows; the receiving block takes the answers. -/

namespace Sys2Proof.Machine

/-! ### On the originating block -/

/-- A request forwarded from this block. -/
def fwdOf (s : Hw) (link id : Nat) : Option Forward := s.hns.forwards.find? fun f => f.link = link && f.id = id

/-- Write a forwarded request. -/
def setFwd (s : Hw) (f : Forward) : Hw :=
  { s with hns := { s.hns with forwards := s.hns.forwards.map fun g => if g.link = f.link && g.id = f.id then f else g } }

/-- The list that a piece of work walks. -/
def FwdWork.out' (w : FwdWork) : Bool := w.kind != .gather

/-- One of the two walks of a forwarded request. -/
def Forward.walk (f : Forward) (out : Bool) : ListWalk := if out then f.outWalk else f.inWalk

/-- Write one of the walks. -/
def Forward.setWalk (f : Forward) (out : Bool) (w : ListWalk) : Forward :=
  if out then { f with outWalk := w } else { f with inWalk := w }

/-- The answer to a piece of work: its bytes, how many were written, or the status that refuses it with what came before the
refused transactions (R27). -/
def fwdAnswer (f : Forward) (w : FwdWork) (ends : Bool) : Bytes :=
  let id := BitVec.ofNat 8 f.id
  match w.bad with
  | some st => dataMessage 6 id false w.off
      ([st, match w.kind with | .gather => 0 | .scrub => 1 | .scatter => 2] ++ leBytes 4 w.good ++ (if w.kind = .gather then w.data.take w.good else []))
  | none => match w.kind with
    | .gather => dataMessage 3 id ends w.off (w.data.take w.done)
    | .scatter => dataMessage 4 id ends w.off (leBytes 4 w.done)
    | .scrub => dataMessage 5 id ends w.off (leBytes 4 w.done)

/-- Read the next segment of a list (R50). -/
def fwdSegment (s : Hw) (f : Forward) (out : Bool) : Hw :=
  let w := f.walk out
  let addr := if w.started then w.nextSeg.toNat else reqList s f.req out
  let w := { w with started := true, nextSeg := BitVec.ofNat 64 addr }
  let fail := fun st => setFwd s (f.setWalk out { w with fail := some st })
  match winCheck (s.setOf f.req.epoch) f.req.domain.toNat addr false, mmBind s with
  | none, _ => fail stWindowFault
  | _, none => fail stEngineFenced
  | some attr, some p =>
    match mmIssue s p false addr 64 [] f.req.domain.toNat attr (.fwdSegment f.link f.id out) with
    | some s' => setFwd (mmChose s' p) (f.setWalk out { w with reading := true })
    | none => s

/-- Issue the next transactions of a piece of work, at most to the end of a fragment or a page (R26, R50). -/
def fwdIssue (s : Hw) (f : Forward) (w : FwdWork) (rest : List FwdWork) (addr left : Nat) : Hw :=
  let n := min (min left (w.len - w.done)) (4096 - addr % 4096)
  let put := fun (s : Hw) (w : FwdWork) => setFwd s { f with work := w :: rest }
  match winCheck (s.setOf f.req.epoch) f.req.domain.toNat addr w.out', mmBind s with
  | none, _ => put s { w with bad := some stWindowFault }
  | _, none => put s { w with bad := some stEngineFenced }
  | some attr, some p =>
    if mmRoom s p w.out' (cutsOf addr n).length then
      let data := if w.kind = .scatter then (w.data.drop w.done).take n else zeros n
      let s := mmPiece s p w.out' addr n data f.req.domain.toNat attr fun off => .forward f.link f.id (w.done + off)
      put (mmChose s p) { w with out := (cutsOf addr n).length, done := w.done + n }
    else s

/-- The work of a forwarded request goes on as far as it can: answers, walks and transactions. Once a piece of a transfer has
been refused, no later one is issued (R27). -/
def fwdStep : Nat → Hw → Nat → Nat → Hw
  | 0, s, _, _ => s
  | n + 1, s, link, id =>
    match fwdOf s link id with
    | none => s
    | some f =>
      match f.work with
      | [] => s
      | w :: rest =>
        let walk := f.walk w.out'
        let ends := walk.ended && walkBytes walk ≤ w.off + w.done
        if w.out != 0 || walk.reading then s
        else if w.bad.isSome || w.len ≤ w.done || ends then
          let refused := if w.bad.isSome then f.refused ++ [(w.kind, w.start)] else f.refused
          fwdStep n (linkSend (setFwd s { f with work := rest, refused := refused }) link 5 (fwdAnswer f w ends)) link id
        else if w.kind != .scrub && f.refused.contains (w.kind, w.start) then
          fwdStep n (setFwd s { f with work := { w with bad := some stWindowFault } :: rest }) link id
        else match fragAt walk.frags (w.off + w.done), walk.fail with
          | some (addr, left), _ => fwdStep n (fwdIssue s f w rest addr left) link id
          | none, some st => fwdStep n (setFwd s { f with work := { w with bad := some st } :: rest }) link id
          | none, none => fwdStep n (fwdSegment s f w.out') link id

/-- Let the work of a forwarded request go on. -/
def fwdGo (s : Hw) (link id : Nat) : Hw :=
  fwdStep (match fwdOf s link id with | some f => 3 * f.work.length + 3 | none => 0) s link id

/-- Put bytes into a buffer at an offset. -/
def bufPut (b : Bytes) (off : Nat) (d : Bytes) : Bytes := b.take off ++ d ++ b.drop (off + d.length)

/-- A transaction of a piece of work ends. -/
def fwdDone (s : Hw) (link id off : Nat) (data : Bytes) (err : Option (BitVec 8)) : Hw :=
  match fwdOf s link id with
  | none => s
  | some f =>
    match f.work with
    | [] => s
    | w :: rest =>
      let bad := if w.bad.isSome then w.bad else err
      let w := { w with
        out := w.out - 1, bad := bad, good := if w.out = 1 && bad.isNone then w.done else w.good
        data := if w.kind = .gather && err.isNone then bufPut w.data off data else w.data }
      fwdGo (setFwd s { f with work := w :: rest }) link id

/-- A segment of a list has come, or its walk ends (R50). -/
def fwdSegmentDone (s : Hw) (link id : Nat) (out : Bool) (data : Bytes) (err : Option (BitVec 8)) : Hw :=
  match fwdOf s link id with
  | none => s
  | some f =>
    let w := f.walk out
    fwdGo (setFwd s (f.setWalk out (match err with
      | some st => { w with reading := false, fail := some st }
      | none => walkSegment w data))) link id

/-- The receiving block asks something of the lists of a forwarded request. -/
def fwdAsk (s : Hw) (f : Forward) (k : FwdKind) (off : Nat) (payload : Bytes) : Hw :=
  let start := leNat (payload.take 8)
  let payload := payload.drop 8
  let n := if k = .scatter then payload.length else leNat (payload.take 4)
  let data := match k with | .gather => zeros n | .scatter => payload | .scrub => []
  fwdGo (setFwd s { f with work := f.work ++ [{ kind := k, off := off, len := n, data := data, start := start }] }) f.link f.id

/-! ### On the receiving block -/

/-- The piece of a job that starts at byte `off` of it and is outstanding. -/
def pieceAt (j : Job) (off : Nat) : Option Nat :=
  (List.range j.pieces.length).find? fun k =>
    ((j.pieces.take k).foldl (fun a p => a + p.len) 0) = off && (match j.pieces[k]? with | some p => p.out != 0 | none => false)

/-- The job of a context whose outstanding piece starts at a byte of a list, and that piece. -/
def peerJob (s : Hw) (c : Nat) (out : Bool) (off : Nat) : Option (Nat × Job × Nat) :=
  (s.jobsOf c).findSome? fun e =>
    if xferList e.2 = some out && e.2.start ≤ off then (pieceAt e.2 (off - e.2.start)).map fun k => (e.1, e.2, k) else none

/-- What is known of a list grows: it holds at least n bytes, and ends there when the end marker says so. -/
def peerKnown (s : Hw) (c : Nat) (out : Bool) (n : Nat) (ends : Bool) : Hw :=
  let w := walkOf (s.ctx c) out
  s.modCtx c fun x => setWalk x out { w with
    reading := false, ended := w.ended || ends, frags := [⟨0, if ends then n else max n (walkBytes w)⟩] }

/-- A piece of a list is answered: `n` bytes of it are there, and with the end marker no more follow. -/
def peerAnswer (s : Hw) (c : Nat) (out : Bool) (off n : Nat) (data : Bytes) (ends : Bool) : Hw :=
  let s := peerKnown s c out (off + n) ends
  let s := match peerJob s c out off with
    | some (key, j, k) =>
      let j := { j with pieces := j.pieces.mapIdx fun i p => if i = k then { p with len := min n p.len } else p }
      pieceDone (s.setJob key j) key k (off - j.start) data none
    | none => s
  let s := if !out && ends && off + n < (s.ctx c).length then lengthMismatch s c else s
  ((s.jobsOf c).map (·.1)).foldl xferSettle s

/-- A piece of a list is refused with a status: its first `n` bytes count, as a piece of their own, and the rest fails (R27). -/
def peerRefuse (s : Hw) (c : Nat) (out : Bool) (off n : Nat) (data : Bytes) (st : BitVec 8) : Hw :=
  let s := match peerJob s c out off with
    | some (key, j, k) =>
      match j.pieces[k]? with
      | some p =>
        if 0 < n && n < p.len then
          let j := { j with pieces := j.pieces.take k ++ [⟨n, 1, false⟩, ⟨p.len - n, 1, false⟩] ++ j.pieces.drop (k + 1) }
          pieceDone (s.setJob key j) key k (off - j.start) data none
        else s
      | none => s
    | none => s
  let s := match peerJob s c out (off + n) with
    | some (key, j, k) => pieceDone s key k (off + n - j.start) [] (some st)
    | none => s
  ((s.jobsOf c).map (·.1)).foldl xferSettle s

/-- The context that runs a request of a peer. -/
def peerCtx (s : Hw) (link : BitVec 3) (id : BitVec 8) : Option Nat :=
  (s.ctxs.find? fun e => e.2.peer = some (link, id)).map (·.1)

/-- DATA flits of a forwarded request (R418, log 41): on the originating block work on its lists, on the receiving one the
answers. -/
def forwardData (s : Hw) (link : BitVec 3) (id : BitVec 8) (m : Bytes) (ends : Bool) : Hw :=
  let off := leNat ((m.drop 1).take 8)
  let p := m.drop 9
  let own := fwdOf s link.toNat id.toNat
  let at_ := peerCtx s link id
  match (m.getD 0 255).toNat, own, at_ with
  | 0, some f, _ => fwdAsk s f .gather off p
  | 1, some f, _ => fwdAsk s f .scatter off p
  | 2, some f, _ => fwdAsk s f .scrub off p
  | 3, _, some c => peerAnswer s c false off p.length p ends
  | 4, _, some c => peerAnswer s c true off (leNat (p.take 4)) [] ends
  | 5, _, some c => scrubWritten s c false
  | 6, _, some c =>
    if p.getD 1 0 = 1 then scrubWritten s c true
    else
      let st := p.getD 0 stWindowFault
      let n := leNat ((p.drop 2).take 4)
      peerRefuse s c (p.getD 1 0 = 2) off n (p.drop 6) st
  | _, _, _ => s

end Sys2Proof.Machine
end

