-- ==== Sys2Proof/Machine/RegRead.lean ====
section
/-! DEFINITION. What every register reads as: the register map of chapters 01 to 20 as one function of the state, the port
and the offset. A read here has no effect; the one read that has one, of CINCH_TICKET, is a command of its own (R308). -/

namespace Sys2Proof.Machine

/-- KEY_RESTORE.PENDING: the slots that the restore has not passed (R252, R258). -/
def pendingCount (s : Hw) : Nat :=
  if s.keys.allPending then 66560 - s.keys.passedTo - (s.keys.passed.filter fun n => s.keys.passedTo ≤ n).length else 0

/-- A number of 0 and 1 from a Bool at bit i. -/
abbrev rb (i : Nat) (b : Bool) : Word := putb i b

/-- Two halves of 32 bits. -/
def halves (hi lo : Nat) : Word := put 32 32 hi ||| put 0 32 lo

/-- The number of a control port as OWNER fields give it. -/
def portNum : Option CtlPort → Nat
  | none => 0
  | some .ctla => 1
  | some .ctlb => 2

/-! ### Unit IDs (R8, R9) -/

/-- An ID that R8 or R9 assigns. -/
def unitExists (u : Nat) : Bool :=
  (u < 0x80 && u % 16 ≤ 13) || (0x80 ≤ u && u ≤ 0x8B) || (0x90 ≤ u && u ≤ 0xB7) || (0xC0 ≤ u && u ≤ 0xC2) || u = 0xC8 || u = 0xC9

/-! ### Rings -/

/-- A ring's live state. -/
def Hw.ring (s : Hw) (n : Nat) : Ring := tget {} s.rings n

/-- RING_SQ_STATE.STATE. -/
def ringState (s : Hw) (n : Nat) : Nat := if (s.ring n).stopped then 2 else if ringUsable s.active n then 1 else 0

/-- The registers of a ring that are not shadowed. -/
def ringReg (s : Hw) (n o : Nat) : Word :=
  let r := s.ring n
  match o with
  | 0x20 => put 48 2 (ringState s n) ||| put 24 24 r.head.toNat ||| put 0 24 r.tail.toNat
  | 0x28 => put 24 24 r.consumed.toNat ||| put 0 24 r.commit.toNat
  | 0x30 => put 32 16 r.lostCpl.toNat ||| put 16 16 r.dropBad.toNat ||| put 0 16 r.dropPort.toNat
  | _ => 0

/-! ### Fault blocks (R343) -/

/-- A history entry as a word. -/
def FltEntry.word (e : FltEntry) : Word :=
  put 32 32 e.time.toNat ||| put 16 16 e.data.toNat ||| put 8 2 e.cls.toNat ||| put 0 8 e.event.toNat

/-- One word of a fault block as a port reads it. -/
def fltReg (b : FltBlock) (p : CtlPort) (o : Nat) : Word :=
  match o with
  | 0x00 =>
    put 56 8 b.merge.toNat ||| put 48 8 b.worst.toNat ||| put 40 8 (match b.first with | some e => e.event.toNat | none => 0) |||
      put 24 16 b.histLost.toNat ||| put 16 4 b.hist.length ||| rb 6 b.rstBusy ||| rb 5 b.fenced ||| rb 4 b.irq |||
      rb 3 b.info ||| rb 2 b.pend ||| put 0 2 b.cls.toNat
  | 0x08 => match b.first with | some e => e.word | none => 0
  | 0x10 =>
    match b.hist[(match p with | .ctla => b.hselA | .ctlb => b.hselB).toNat]? with
    | some e => e.word
    | none => 0
  | 0x18 => put 0 3 (match p with | .ctla => b.hselA | .ctlb => b.hselB).toNat
  | 0x20 => rb 8 b.irqCorr
  | 0x28 => put 48 16 b.fences.toNat ||| put 32 16 b.uncorr.toNat ||| put 0 32 b.corr.toNat
  | 0x30 => b.inj
  | _ => 0

/-- FLT_PENDk. -/
def fltPend (s : Hw) (k : Nat) : Word :=
  (List.range 64).foldl (fun w i => w ||| rb i (s.blk (64 * k + i)).pend) 0

/-- The registers of block 0xFF. -/
def wardenReg (s : Hw) (o : Nat) : Word :=
  match o with
  | 0x00 => put 32 16 s.ward.pulses.toNat ||| rb 1 s.ward.errLatch ||| rb 0 s.ward.errLevel
  | 0x08 => put 32 32 s.ward.warmCount.toNat ||| rb 8 s.ward.lockstepOk
  | 0x10 | 0x18 | 0x20 | 0x28 => fltPend s ((o - 0x10) / 8)
  | _ => 0

/-! ### Engines -/

/-- A pair's open streams (CPH_STATUS.OPEN). -/
def pairOpen (s : Hw) (p : Nat) : Nat :=
  (s.ctxs.flatMap fun x => x.2.cstreams.filter fun v =>
    v.2.started && v.2.failed.isNone && pairOf (benchOf x.1) v.2.mode.toNat = p).length

/-- A pair works on a job. -/
def pairBusy (s : Hw) (p : Nat) : Bool :=
  s.jobs.any fun e => match e.2.op with
    | .ciph b => pairOf (benchOf (e.1 / 16)) (cbMode b) = p && (e.2.phase = .running || e.2.phase = .closing)
    | _ => false

/-- The mask outputs after which a generator asks for its reseed (R141). -/
abbrev reseedAsk : Nat := 262144
/-- The mask outputs at which a generator stops (R141). -/
abbrev reseedStop : Nat := 1048576

/-- A word of a pair's registers (R167). -/
def pairReg (s : Hw) (p o : Nat) : Word :=
  let v := s.pair p
  let cipher := p < 8
  match o with
  | 0x00 => v.cfg
  | 0x08 =>
    put 32 9 (pairOpen s p) ||| rb 3 (cipher && v.entStop) |||
      rb 2 (cipher && (v.workerOut = reseedStop || v.checkerOut = reseedStop)) |||
      rb 1 (cipher && (v.workerAsked || v.checkerAsked)) ||| rb 0 (pairBusy s p)
  | 0x10 => if cipher then put 32 21 v.checkerOut ||| put 0 21 v.workerOut else 0
  | 0x18 => v.stitches
  | 0x20 => (v.stallOver s.clk.core).stallClk
  | 0x28 => halves v.fail.toNat v.pass.toNat
  | 0x30 => halves v.unscrubbed.toNat v.scrubbed.toNat
  | _ => 0

/-- A digest engine works on a job. -/
def digBusy (s : Hw) (e : Nat) : Bool :=
  s.jobs.any fun k => match k.2.op with
    | .dgst _ => (k.2.phase = .running || k.2.phase = .closing) && (dsOf s k.1 k.2).engines.contains e
    | _ => false

/-- A word of a digest engine's registers (R188). -/
def digReg (s : Hw) (e o : Nat) : Word :=
  let v := s.dig e
  match o with
  | 0x00 => put 32 9 (digBound s e false) ||| rb 1 (e < 32 && digBound s e true != 0) ||| rb 0 (digBusy s e)
  | 0x08 => v.bytes
  | 0x10 => halves v.fail.toNat v.pass.toNat
  | 0x18 => halves v.refusedPosts.toNat v.posted.toNat
  | _ => 0

/-- A word of a public-key unit's registers (R210). -/
def pkuReg (s : Hw) (u o : Nat) : Word :=
  let v := s.pkUnit u
  let busy := v.held
  match o with
  | 0x00 =>
    put 32 6 (pkQueued s (u / 2)) ||| (if busy then put 16 16 v.op.toNat ||| put 4 12 v.domain.toNat else 0) |||
      rb 1 (v.phase = .burnish) ||| rb 0 busy
  | 0x08 => v.jobs
  | 0x10 => if busy then satInc v.busyClk (Config.pkCycles (s.clk.core - v.since)) else v.busyClk
  | 0x18 => halves v.fail.toNat v.pass.toNat
  | 0x20 => v.cntAttempts
  | 0x28 => v.rejects
  | _ => 0

/-- A word of a memory master port's registers (R434). -/
def mmReg (s : Hw) (p o : Nat) : Word :=
  let v := s.mmp p
  match o with
  | 0x00 => v.cfg
  | 0x08 => put 16 9 (mmOut s p true) ||| put 0 9 (mmOut s p false)
  | 0x10 => halves v.wrBeats.toNat v.rdBeats.toNat
  | _ => 0

/-- A doorbell port. -/
def Hw.dbPort (s : Hw) (n : Nat) : DbPort := tget {} s.dbs n

/-! ### Global units -/

/-- The identification registers (R17). -/
def idReg (o : Nat) : Word :=
  match o with
  | 0x00 => kver
  | 0x08 => put 28 8 0x10 ||| put 24 4 4 ||| put 20 4 2 ||| put 16 4 1 ||| put 12 4 4 ||| put 8 4 1 ||| put 4 4 1 ||| put 0 4 8
  | 0x10 => put 20 5 0x0C ||| put 15 5 0x14 ||| put 10 5 0x06 ||| put 5 5 0x0C ||| put 0 5 0x10
  | 0x18 => put 48 16 0x1000 ||| put 32 16 0x0800 ||| put 16 16 0x3800 ||| put 0 16 0x8000
  | 0x20 => put 44 4 2 ||| put 40 4 8 ||| put 32 8 0x60 ||| put 24 8 0x20 ||| put 8 11 0x400 ||| put 0 8 0x10
  | 0x28 => put 0 19 0x7FFFF
  | 0x30 => put 48 8 0x40 ||| put 32 16 0x0280 ||| put 16 16 0x0100 ||| put 0 16 0x4000
  | 0x38 => put 32 16 Config.mmMhz.toNat ||| put 16 16 Config.pkMhz.toNat ||| put 0 16 Config.coreMhz.toNat
  | 0x40 => put 24 8 1 ||| put 16 8 1 ||| put 8 8 1 ||| put 0 8 3
  | _ => 0

/-- What is left of the cinch lease, in ms rounded up. -/
def leaseRemain (s : Hw) : Nat :=
  if s.cinch.owner.isNone then 0 else ceilDiv ((s.cinch.leaseEnd - s.clk.aon) * 1000) 32768

/-- Requests of the old epoch that still drain (R317): contexts not FREE, and forwarded requests. -/
def oldInFlight (s : Hw) : Nat :=
  (s.ctxs.filter fun e => match e.2.req with | some r => r.epoch != s.seam.epoch | none => false).length +
    s.hns.forwards.countP fun f => f.req.epoch != s.seam.epoch

/-- SEAM_STATUS.STATE (R313). -/
def SeamState.code : SeamState → Nat
  | .ready => 0
  | .draining => 1
  | .copying => 2

/-- Cinch and seam (R307 to R320). -/
def cinchReg (s : Hw) (p : CtlPort) (o : Nat) : Word :=
  let c := s.cinch
  let m := s.seam
  match o with
  | 0x00 => put 32 16 c.gen.toNat ||| rb 16 (c.owner = some p) ||| put 0 2 (portNum c.owner)
  | 0x08 => put 48 16 c.note.toNat ||| put 32 16 c.gen.toNat ||| put 16 14 (leaseRemain s) ||| put 0 2 (portNum c.owner)
  | 0x18 => c.lease
  | 0x20 =>
    put 48 16 c.deniedB.toNat ||| put 32 16 c.deniedA.toNat ||| put 4 3 c.cause.toNat ||| rb 1 c.discarded ||| rb 0 c.broken
  | 0x38 =>
    put 48 16 m.epoch.toNat ||| put 32 16 m.oldEpoch.toNat ||| put 16 16 m.cmdGen.toNat ||| put 12 4 m.result.toNat |||
      rb 9 m.editLost ||| rb 8 m.dirty ||| put 0 2 m.st.code
  | 0x40 => rb 0 (match p with | .ctla => s.viewA | .ctlb => s.viewB)
  | 0x48 => put 32 32 m.lastDrain.toNat ||| put 0 13 (oldInFlight s)
  | _ => 0

/-- The mode code of R322. -/
def Mode.code : Mode → Nat
  | .cold => 0
  | .pilot => 1
  | .full => 2
  | .degraded => 3
  | .seal => 4
  | .held => 5
  | .maint => 6
  | .ftest => 7

/-- The mode controller (R338). -/
def modeReg (s : Hw) (o : Nat) : Word :=
  let m := s.mc
  match o with
  | 0x00 =>
    put 16 10 s.fencedCount ||| put 12 2 m.sealSrc.toNat ||| rb 11 m.pfw ||| rb 10 m.warm ||| rb 9 m.noKeeper |||
      rb 8 m.budgetMiss ||| rb 7 s.ucode.active ||| rb 5 m.draining ||| rb 4 m.sealed ||| put 0 3 m.mode.code
  | 0x10 => m.cfg
  | 0x18 => halves m.fullUs.toNat m.pilotUs.toNat
  | 0x20 => put 32 16 m.sealWrites.toNat ||| put 0 32 m.lastClk.toNat
  | _ => 0

/-- Bits lo to lo + len - 1 of a word, signed. -/
def sfld (w : Word) (lo len : Nat) : Int := (w.extractLsb' lo len).toInt

/-- A signed number placed in a field. -/
def putInt (lo len : Nat) (v : Int) : Word := put lo len (v % (2 ^ len : Nat)).toNat

/-- An effective threshold (R401): the factory value with the user offset, never looser than the factory value and never
beyond the tight limit; `up`: it tightens when raised. -/
def tighten (factory offset tight : Int) (up : Bool) : Int :=
  if up then (if tight ≤ factory then factory else max factory (min tight (factory + offset)))
  else if factory ≤ tight then factory
  else min factory (max tight (factory + offset))

/-- The user temperature offset, clamped to -8 to +8 °C (R402). -/
def tempOffset (s : Hw) : Int := max (-8) (min 8 (sfld (cfgWord s.active 0x3040) 24 8))

/-- CAL_EFF0 (R401). -/
def calEff0 (s : Hw) : Word :=
  let f := s.sec.calFuse0
  let u := cfgWord s.active 0x3040
  putInt 40 8 (tighten (sfld f 40 8) (sfld u 40 8) 60 false) ||| putInt 32 8 (tighten (sfld f 32 8) (sfld u 32 8) 0 true) |||
    putInt 24 8 (tempOffset s) ||| putInt 12 12 (tighten (fld f 12 12) (sfld u 12 12) 600 false) |||
    putInt 0 8 (tighten (fld f 0 8) (sfld u 0 8) 16 false)

/-- CAL_EFF1 (R401). -/
def calEff1 (s : Hw) : Word :=
  let f := s.sec.calFuse1
  let u := cfgWord s.active 0x3048
  put 48 5 (fld f 48 5 ||| fld u 48 5) ||| putInt 40 8 (tighten (fld f 40 8) (sfld u 40 8) 101 false) |||
    putInt 32 4 (tighten (fld f 32 4) (sfld u 32 4) 1 false) ||| putInt 16 12 (tighten (fld f 16 12) (sfld u 16 12) 770 false) |||
    putInt 0 12 (tighten (fld f 0 12) (sfld u 0 12) 730 true)

/-- The armed target and its port, within 33 aon_clk periods of its ARM (R384). -/
def lcArmedNow (s : Hw) : Option (BitVec 3 × CtlPort) :=
  match s.sec.lcArmed with
  | some (t, p, at_) => if s.clk.aon ≤ at_ + 33 then some (t, p) else none
  | none => none

/-- The registers of chapter 17 that are not shadowed. -/
def secReg (s : Hw) (o : Nat) : Word :=
  let c := s.sec
  match o with
  | 0x00 => put 20 4 c.lcResult.toNat ||| rb 16 (lcArmedNow s).isSome ||| put 8 5 c.lcBits.toNat ||| put 0 3 (lcState s)
  | 0x10 => put 4 4 c.dbgResult.toNat ||| put 0 2 (match c.debug with | .closed => 0 | .diagnostic => 1 | .full => 2)
  | 0x20 =>
    halves c.lastResume.toNat (c.retentions.toNat * 65536 + c.pwrResult.toNat * 16 + (if c.power = .idle then 1 else 0))
  | 0x30 => c.pwrCfg
  | 0x50 => c.calFuse0
  | 0x58 => c.calFuse1
  | 0x60 => calEff0 s
  | 0x68 => calEff1 s
  | 0x80 =>
    halves c.entOutputs.toNat
      (c.entSources.toNat * 16 + c.entStartup.toNat * 2 + (c.entHealthy && !s.fenced 0x84).toNat)
  | 0x90 => put 16 6 c.trips.toNat ||| put 0 16 c.temp.toNat
  | 0x98 => (List.range 6).foldl (fun w k => w ||| put (8 * k) 8 (tget 0 c.tripCnt k).toNat) 0
  | _ => 0

/-- The code of a message intake's KEY registers (R255, R279) at offset `o` from 0x00_C000. -/
def keyReg (s : Hw) (p : CtlPort) (o : Nat) : Word :=
  let k := s.keys
  let v := s.intake p
  let sel := (match p with | .ctla => k.selA | .ctlb => k.selB).toNat
  match o with
  | 0x010 => v.rcptAddr
  | 0x018 =>
    put 32 16 v.words ||| rb 24 (d0Auth s) ||| put 20 4 v.reason.toNat ||| put 12 8 v.result.toNat ||| put 0 3 v.state.toNat
  | 0x020 => put 0 12 v.dsel.toNat
  | 0x028 => domCounter s v.dsel.toNat
  | 0x030 => domFloor s v.dsel.toNat
  | 0x038 => halves k.refusedCnt.toNat k.committed.toNat
  | 0x400 =>
    put 48 16 k.failTag.toNat ||| put 32 16 k.skipOld.toNat ||| rb 6 k.zeroized ||| rb 5 k.restoring ||| rb 4 k.idReady |||
      put 0 2 k.root.num
  | 0x408 => put 32 17 k.restored.toNat ||| put 0 17 (pendingCount s)
  | 0x410 => put 0 17 sel
  | 0x418 => (slotView s sel).getD 0 0
  | 0x420 => (slotView s sel).getD 1 0
  | 0x428 => (slotView s sel).getD 2 0
  | 0x430 => put 16 16 k.kills.toNat ||| rb 9 k.kill ||| rb 8 k.stepBusy ||| put 0 6 k.tgen.toNat
  | _ =>
    if 0x800 ≤ o && o < 0x860 then wordAt (idecBytes s) ((o - 0x800) / 8)
    else if 0x860 ≤ o && o < 0x1000 then wordAt (idmlBytes s) ((o - 0x860) / 8)
    else 0

/-- The central store (R280 to R288) at offset `o` from 0x05_0000. -/
def csReg (s : Hw) (p : CtlPort) (o : Nat) : Word :=
  let c := s.cs
  let d := (match p with | .ctla => s.dselA | .ctlb => s.dselB).toNat
  match o with
  | 0x00 => put 32 14 (retiredCount s) ||| put 16 14 c.poisoned.length ||| put 0 14 (freeCount s)
  | 0x08 => c.cntCorr
  | 0x10 => halves c.cntInUse.toNat c.cntFree.toNat
  | 0x18 => halves c.passes.toNat c.patrolRow.toNat
  | 0x20 => put 0 12 d
  | 0x28 => put 32 14 (holdCount s d) ||| put 0 14 (bufCount s d)
  | _ =>
    if 0x100 ≤ o && o < 0x500 then
      let m := tget [] c.marks ((o - 0x100) / 8)
      rb 15 (1 < m.length) ||| put 8 6 ((m.getD 1 0).toNat) ||| rb 7 (0 < m.length) ||| put 0 6 ((m.getD 0 0).toNat)
    else 0

/-- The keeper port (R305). -/
def kpReg (s : Hw) (o : Nat) : Word :=
  let k := s.kp
  match o with
  | 0x00 => k.cfg
  | 0x10 =>
    put 48 16 k.sizeMib.toNat ||| put 32 16 k.durableEpoch.toNat ||| rb 8 k.bank ||| rb 4 k.cfgLost ||| rb 3 k.cfgFallback |||
      rb 2 k.cfgDurable ||| rb 1 (s.fenced 0x82) ||| rb 0 k.formatted
  | 0x18 => halves k.fullBytes.toNat k.pilotBytes.toNat
  | 0x20 => halves k.worstAck.toNat k.writes.toNat
  | _ => 0

/-- Recorder pages in the region (R291). -/
def recPages (s : Hw) : Nat := (s.kp.sizeMib.toNat * 2 ^ 20 - 0x2E20000) / 4096

/-- The recorder (R372) at offset `o` from 0x00_9000. -/
def recReg (s : Hw) (p : CtlPort) (o : Nat) : Word :=
  let r := s.recd
  match o with
  | 0x00 =>
    put 48 16 r.overflow.toNat ||| put 32 16 r.codes.length ||| put 16 16 r.page.toNat ||| rb 5 r.lost ||| rb 4 r.stopped |||
      rb 3 r.autoThaw ||| put 1 2 (portNum r.owner) ||| rb 0 r.frozen
  | 0x18 => put 48 16 (recPages s) ||| put 32 16 r.page.toNat ||| put 0 32 r.pageSeq.toNat
  | 0x20 => match p with | .ctla => r.rdA | .ctlb => r.rdB
  | 0x80 => r.tomb
  | _ =>
    if 0x40 ≤ o && o < 0x80 then wordOf (match p with | .ctla => r.winA | .ctlb => r.winB) ((o - 0x40) / 8) else 0

/-- The registers at bench and unit bases, and those of ports, for the offsets of chapter 20. -/
def engineReg (s : Hw) (off : Nat) : Option Word :=
  if 0x20000 ≤ off && off < 0x28000 then some (pairReg s ((off - 0x20000) / 0x1000) (off % 0x1000))
  else if 0x28000 ≤ off && off < 0x30000 then some (pairReg s (8 + (off - 0x28000) / 0x1000) (off % 0x1000))
  else if 0x30000 ≤ off && off < 0x38000 then some (digReg s ((off - 0x30000) / 0x400) (off % 0x400))
  else if 0x38000 ≤ off && off < 0x40000 then some (digReg s (32 + (off - 0x38000) / 0x1000) (off % 0x1000))
  else if 0x40000 ≤ off && off < 0x50000 then some (pkuReg s ((off - 0x40000) / 0x1000) (off % 0x1000))
  else if 0x60000 ≤ off && off < 0x62000 then some (mmReg s ((off - 0x60000) / 0x100) (off % 0x100))
  else if 0x70000 ≤ off && off < 0x70300 then
    some (halves (s.dbPort ((off - 0x70000) / 8)).cntOut.toNat (s.dbPort ((off - 0x70000) / 8)).cntIn.toNat)
  else none

/-! ### The board (R184) and the trap window (R90, R91) -/

/-- A board entry. -/
def Hw.boardEntry (s : Hw) (n : Nat) : BoardEntry := tget {} s.board.entries n

/-- The board's registers. -/
def boardReg (s : Hw) (off : Nat) : Word :=
  if off = 0xE000 then halves s.board.posts.toNat (s.board.traceLost.toNat * 65536 + s.board.trace.length)
  else if off = 0xE008 then s.board.ctl
  else if 0xE800 ≤ off && off < 0xF000 then
    let e := s.boardEntry ((off - 0xE800) / 8)
    put 32 32 e.seq.toNat ||| put 24 8 e.alg.toNat ||| put 16 7 e.len.toNat ||| put 0 12 e.domain.toNat
  else if 0xF000 ≤ off && off < 0xF800 then (s.boardEntry ((off - 0xF000) / 8)).own
  else if 0xD0000 ≤ off && off < 0xD4000 then wordOf (s.boardEntry ((off - 0xD0000) / 0x40)).data (off % 0x40 / 8)
  else 0

/-- The trap registers at offset `o` from 0x01_0000. -/
def trapReg (s : Hw) (p : CtlPort) (o : Nat) : Word :=
  let q := s.trapq
  match o with
  | 0x00 => q.cfg
  | 0x08 =>
    put 48 16 q.expired.toNat ||| rb 43 q.wdrawnB ||| rb 42 q.wdrawnA ||| rb 41 q.claimB.isSome ||| rb 40 q.claimA.isSome |||
      put 0 10 q.queue.length
  | _ =>
    match s.claim p with
    | none => 0
    | some k =>
      let x := s.ctx k.ctx
      match o with
      | 0x20 =>
        rb 63 true ||| put 32 16 x.epoch.toNat ||| put 16 12 x.domain ||| put 12 4 k.cls.toNat ||| put 0 9 k.ctx
      | 0x28 => halves k.pc.toNat k.word.toNat
      | 0x30 => put 32 32 k.repRemain.toNat ||| rb 12 k.repActive ||| put 0 12 x.entry.toNat
      | 0x38 => put 0 32 (match x.req with | some r => fld (wordOf r.desc 1) 0 32 | none => 0)
      | 0x248 => match k.nextPc with | some v => v | none => k.pc.setWidth 64
      | _ =>
        if 0x100 ≤ o && o < 0x200 then x.rget (BitVec.ofNat 5 ((o - 0x100) / 8))
        else if 0x200 ≤ o && o < 0x248 then (specRead k.ctx x ((o - 0x200) / 8)).getD 0
        else if 0x1000 ≤ o && o < 0x2000 then BitVec.ofNat 64 (leNat (mread x.scratch (o - 0x1000) 8))
        else 0

/-! ### Harness and census -/

/-- HNS_LINK.STATE. -/
def LinkState.code : LinkState → Nat
  | .down => 0
  | .training => 1
  | .up => 2
  | .failed => 3

/-- The harness's registers that are not shadowed, at offset `o` from 0x00_B000 (R404, R407, R411, R415, R420). -/
def hnsReg (s : Hw) (p : CtlPort) (o : Nat) : Word :=
  let h := s.hns
  let mask := fun (f : Nat → Bool) => (List.range 8).foldl (fun n i => n + (if f i then 2 ^ i else 0)) 0
  match o with
  | 0x00 =>
    put 40 8 (mask fun b => pairValid s.active b) ||| put 32 8 (mask fun k => (s.link k).st = .failed) |||
      put 24 8 (mask fun k => (s.link k).st = .up) ||| put 9 15 h.forwards.length ||| put 0 3 h.block.toNat
  | 0x10 =>
    put 48 16 h.losses.toNat ||| put 32 16 h.peerEpoch.toNat ||| rb 8 ((mirrorPartner s).isSome && mirrorRank s = 0) |||
      put 4 3 ((mirrorPartner s).getD 0) |||
      put 0 2 (match h.mirror with | .none => 0 | .joining => 1 | .mirrored => 2 | .alone => 3)
  | 0x28 =>
    let a := s.appr p
    put 20 4 a.reason.toNat ||| put 12 8 a.result.toNat |||
      put 0 3 (match a.stage with | .idle => 0 | .receiving => 1 | .checking => 2 | .exchanging => 3 | .done => 4)
  | _ =>
    if 0x40 ≤ o && o < 0x80 then
      let l := s.link ((o - 0x40) / 8)
      put 32 32 l.replays.toNat ||| rb 11 l.keyed ||| put 8 3 l.peer.toNat ||| put 0 2 l.st.code
    else if 0x80 ≤ o && o < 0xB0 then wordAt ((pairIdentity s).getD (zeros 48)) ((o - 0x80) / 8)
    else 0

/-- A register offset that holds counters (R377, R458): each instance of a register that the index marks C. -/
def isCounter (off : Nat) : Bool :=
  off % 8 = 0 &&
    ((0x20000 ≤ off && off < 0x30000 && 0x18 ≤ off % 0x1000 && off % 0x1000 ≤ 0x30) ||
      (0x30000 ≤ off && off < 0x38000 && 0x08 ≤ off % 0x400 && off % 0x400 ≤ 0x18) ||
      (0x38000 ≤ off && off < 0x40000 && 0x08 ≤ off % 0x1000 && off % 0x1000 ≤ 0x18) ||
      (0x40000 ≤ off && off < 0x50000 && 0x08 ≤ off % 0x1000 && off % 0x1000 ≤ 0x28) ||
      (0x60000 ≤ off && off < 0x62000 && off % 0x100 = 0x10) || (0x70000 ≤ off && off < 0x70300) ||
      (0x200000 ≤ off && off < 0x600000 && (off % 0x40 = 0x20 || off % 0x40 = 0x28 || off % 0x40 = 0x30)) ||
      (0x4000 ≤ off && off < 0x7FC0 && off % 0x40 = 0x28 && unitExists ((off - 0x4000) / 0x40)) ||
      (0xB040 ≤ off && off < 0xB080) || off = 0x50008 || off = 0x50010 || off = 0xA020 || off = 0xC038 ||
      off = 0xC400 || off = 0xE000 || off = 0x1020 || off = 0x3098)

/-- The census's registers (R377) at offset `o` from 0x00_8000. -/
def cenReg (s : Hw) (p : CtlPort) (o : Nat) : Word :=
  let c := s.cen
  let sel := (match p with | .ctla => c.vselA | .ctlb => c.vselB).toNat
  match o with
  | 0x08 => c.cfg
  | 0x10 =>
    halves c.seq.toNat (c.peersDone.toNat * 2 ^ 24 + c.initiator.toNat * 2 ^ 21 + c.remote.toNat * 2 ^ 20 +
      c.drops.toNat * 16 + c.part.toNat * 4 + c.complete.toNat * 2 + c.busy.toNat)
  | 0x18 => halves c.aonAt.toNat c.lastClk.toNat
  | 0x20 => rb 63 (isCounter sel) ||| put 0 24 sel
  | 0x28 => if isCounter sel then tget 0 c.shadows sel else 0
  | _ => 0

/-! ### The whole map -/

/-- The shadowed offsets: domains, ring configuration, the library bank, the policy block (R313). -/
def isShadowed (off : Nat) : Bool :=
  (0x100000 ≤ off && off < 0x200000) || (0x200000 ≤ off && off < 0x600000 && off % 0x40 < 0x20) ||
    (0x600000 ≤ off && off < 0x800000) || off = 0x9010 || off = 0x3040 || off = 0x3048 || (0xB100 ≤ off && off < 0xB180) ||
    (0xB200 ≤ off && off < 0xB400)

/-- What a port reads of a shadowed word: the shadow set, or the active set under SEAM_VIEW, whose library reads zero
(R95, R313). -/
def viewedWord (s : Hw) (p : CtlPort) (off : Nat) : Word :=
  if (match p with | .ctla => s.viewA | .ctlb => s.viewB) then (if 0x600000 ≤ off then 0 else cfgWord s.active off)
  else cfgWord s.shadow off

/-- What the register at an offset reads as through a port. -/
def readReg (s : Hw) (p : CtlPort) (off : Nat) : Word :=
  if isShadowed off then viewedWord s p off
  else if 0x200000 ≤ off && off < 0x600000 then ringReg s ((off - 0x200000) / 0x40) (off % 0x40)
  else match engineReg s off with
    | some w => w
    | none =>
      if off < 0x1000 then idReg off
      else if off < 0x2000 then cinchReg s p (off - 0x1000)
      else if off < 0x3000 then modeReg s (off - 0x2000)
      else if off < 0x4000 then secReg s (off - 0x3000)
      else if off < 0x7FC0 then
        (if unitExists ((off - 0x4000) / 0x40) then fltReg (s.blk ((off - 0x4000) / 0x40)) p (off % 0x40) else 0)
      else if off < 0x8000 then wardenReg s (off - 0x7FC0)
      else if off < 0x9000 then cenReg s p (off - 0x8000)
      else if off < 0xA000 then recReg s p (off - 0x9000)
      else if off < 0xB000 then kpReg s (off - 0xA000)
      else if off < 0xC000 then hnsReg s p (off - 0xB000)
      else if off < 0xD000 then keyReg s p (off - 0xC000)
      else if off < 0xE000 then
        (match off with
          | 0xD000 => s.ucode.addr
          | 0xD010 =>
            put 40 5 s.ucode.floor.toNat ||| put 32 5 s.ucode.svn.toNat ||| put 16 16 s.ucode.version.toNat |||
              put 8 4 s.ucode.refuse.toNat ||| put 0 2 ((if s.ucode.active then 2 else 0) + (if s.ucode.verifying then 1 else 0))
          | _ => 0)
      else if off < 0x10000 then boardReg s off
      else if off < 0x20000 then trapReg s p (off - 0x10000)
      else if 0x50000 ≤ off && off < 0x60000 then csReg s p (off - 0x50000)
      else if 0xD0000 ≤ off && off < 0xE0000 then boardReg s off
      else if off = 0xE0000 then rb 0 s.awlLoad
      else if off = 0xF0000 then s.rm.cfg
      else 0

/-- What stays readable in Held (R356): fault blocks, FLT_PENDk, FLT_WARDEN, MODE_STATUS and KVER. -/
def readableHeld (off : Nat) : Bool := (0x4000 ≤ off && off < 0x8000) || off = 0x2000 || off = 0

/-- What a read at an offset returns through a port: a refused one zero (R306), and so any but those of R356 in Held (log 28). -/
def portRead (s : Hw) (p : CtlPort) (off : Nat) (be : BitVec 8) : Word :=
  if be != 0xff#8 || off % 8 != 0 || (s.mc.mode = .held && !readableHeld off) then 0 else readReg s p off

end Sys2Proof.Machine
end

