-- ==== Sys2Proof/Machine/Recorder.lean ====
section
/-! DEFINITION. The recorder (R360 to R371): what it accumulates, its checkpoints, and how its pages are written. -/

namespace Sys2Proof.Machine

/-! ### Accumulators (R360 to R362) -/

/-- The bucket of a value in a log2 histogram (R361). -/
def logBucket (v : Nat) : Nat := if v ≤ 1 then 0 else min 31 (Nat.log2 v)

/-- Count one value in a bucket of a histogram; a stopped recorder counts nothing (R371). -/
def histBump (s : Hw) (id b : Nat) : Hw :=
  if s.recd.stopped then s
  else { s with recd := { s.recd with
    hist := tmod [] s.recd.hist id fun h => tmod 0 h b fun n => min (2 ^ 32 - 1) (n + 1) } }

/-- The bucket of a temperature (R361). -/
def tempBucket (t : BitVec 16) : Nat := (max 0 (min 165 (t.toInt + 40))).toNat

/-- A temperature sample in the extremes (R362): the earlier of two equal values stands. -/
def tempExtremes (x : Extremes) (t : BitVec 16) (sec : Nat) : Extremes :=
  { x with
    tmax := match x.tmax with | some (m, o) => if m.toInt < t.toInt then some (t, sec) else some (m, o) | none => some (t, sec)
    tmin := match x.tmin with | some (m, o) => if t.toInt < m.toInt then some (t, sec) else some (m, o) | none => some (t, sec) }

/-- A ring backlog in the extremes (R362). -/
def backlogExtreme (x : Extremes) (n : Nat) (ring : BitVec 16) (sec : Nat) : Extremes :=
  { x with backlog := match x.backlog with
    | some (m, r, o) => if m < n then some (n, ring, sec) else some (m, r, o)
    | none => some (n, ring, sec) }

/-- Change the extremes, unless the recorder has stopped. -/
def modExtremes (s : Hw) (f : Extremes → Extremes) : Hw :=
  if s.recd.stopped then s else { s with recd := { s.recd with ext := f s.recd.ext } }

/-! ### Checkpoints (R367) -/

/-- The data of a histogram record of n buckets (R366). -/
def histBytes (h : Table Nat) (n : Nat) : Bytes := (List.range n).flatMap fun b => leBytes 4 (tget 0 h b)

/-- The data of the extremes record (R366). -/
def extremesBytes (x : Extremes) : Bytes :=
  let sec := fun (o : Option Nat) => leBytes 4 (o.getD 0)
  leBytes 2 ((x.tmax.map (·.1.toNat)).getD 0) ++ leBytes 2 ((x.tmin.map (·.1.toNat)).getD 0) ++
    leBytes 4 ((x.backlog.map (·.1)).getD 0) ++ leBytes 2 ((x.backlog.map (·.2.1.toNat)).getD 0) ++
    leBytes 4 ((x.ack.map (·.1)).getD 0) ++ leBytes 4 ((x.sealClk.map (·.1)).getD 0) ++
    sec (x.tmax.map (·.2)) ++ sec (x.tmin.map (·.2)) ++ sec (x.backlog.map (·.2.2)) ++ sec (x.ack.map (·.2)) ++
    sec (x.sealClk.map (·.2))

/-- The KIND that marks the end of a checkpoint in the queue; it writes no unit. -/
abbrev checkpointEnd : BitVec 8 := 0xFF

/-- The records of a checkpoint, in the order of R367. -/
def checkpointRecords (r : Recorder) : List RecRecord :=
  let hists := fun (p : Nat → Bool) (n : Nat) =>
    (r.hist.filter fun e => p e.1).map fun e => (⟨2, BitVec.ofNat 16 e.1, histBytes e.2 n⟩ : RecRecord)
  let codes := risingNats ((r.codes.filter fun c => c.count != c.written && !c.queued).map fun c => c.code.toNat)
  [⟨3, 0, extremesBytes r.ext⟩] ++ hists (· = 0x30) 166 ++ hists (· < 0x20) 32 ++
    hists (fun i => 0x20 ≤ i && i < 0x28) 32 ++ codes.map (fun c => ⟨1, BitVec.ofNat 16 c, []⟩) ++ [⟨checkpointEnd, 0, []⟩]

/-- A checkpoint falls due: it starts, or waits for the thaw or for the one being written (R367, R369). -/
def recCheckpoint (s : Hw) : Hw :=
  let r := s.recd
  if r.stopped then s
  else if r.frozen || r.checkpointing then { s with recd := { r with dueCheckpoint := true } }
  else
    { s with recd := { r with
      queue := r.queue ++ checkpointRecords r
      codes := r.codes.map fun c => if c.count != c.written then { c with queued := true } else c
      hist := [], ext := {}, overflowLogged := false, dueCheckpoint := false, checkpointing := true
      lastCheckpoint := opSeconds s } }

/-! ### Pages (R365, R366, R368) -/

/-- Units of a record with n data bytes (R366). -/
def recUnits (n : Nat) : Nat := if n ≤ 40 then 1 else 1 + ceilDiv (n - 40) 56

/-- Unit i of a record of n units (R365, R366). -/
def recUnit (s : Hw) (k : RecRecord) (i n : Nat) : Bytes :=
  let stamp := leBytes 8 (put 0 48 (opSeconds s) ||| put 48 16 k.source.toNat).toNat ++ leBytes 8 s.clk.cycles.toNat
  let body := ((stamp ++ k.data).drop (56 * i)).take 56
  let mark := if i + 1 = n then 0xA5 else 0
  body ++ zeros (56 - body.length) ++
    leBytes 8 (put 56 8 mark ||| put 48 8 k.kind.toNat ||| put 40 8 n ||| put 32 8 i ||| put 0 32 s.recd.rseq.toNat).toNat

/-- The keeper address of a unit of a page. -/
def recAddr (page unit : Nat) : Nat := 0x2E20000 + 4096 * page + 64 * unit

/-- The recorder may write: Seal and what follows write no record, and neither does a block whose keeper port is gated or whose
Retention entry has ended (R333, R337, R369, R371, R389, R391). -/
def recWrites (s : Hw) : Bool :=
  !s.recd.stopped && !s.recd.frozen && kpLive s && recPages s != 0 && s.sec.power != .idle && s.sec.power != .retReady &&
    (match s.mc.mode with | .pilot | .full | .degraded | .maint | .ftest => true | _ => false)

/-- A recorder write is on its way. -/
def recBusy (s : Hw) : Bool := (s.kp.waiting ++ s.kp.out).any fun w => w.why = .recorder

/-- Write one unit of the recorder, class 4. -/
def recPut (s : Hw) (addr : Nat) (b : Bytes) : Hw := kpWrite s 4 addr b .recorder

/-- Open the next page: its head first (R368). -/
def recOpen (s : Hw) : Hw :=
  let r := s.recd
  let page := BitVec.ofNat 16 ((r.page.toNat + 1) % recPages s)
  let s := { s with recd := { r with page := page, pageSeq := r.pageSeq + 1, opening := 1, opened := false } }
  recPut s 0x180 (leBytes 8 (put 0 32 s.recd.pageSeq.toNat ||| put 32 16 page.toNat).toNat)

/-- The data of a code record as it is written (R363). -/
def codeBytes' (r : Recorder) (code : BitVec 16) : Bytes :=
  match r.codes.find? (·.code = code) with
  | some c => leBytes 8 c.count.toNat ++ leBytes 8 c.suppressed.toNat
  | none => zeros 16

/-- A code record takes its counts, and the code has none queued any more (R364). -/
def fillCode (r : Recorder) (k : RecRecord) : Recorder × RecRecord :=
  if k.kind = 1 then
    ({ r with codes := r.codes.map fun c => if c.code = k.source then { c with queued := false, written := c.count } else c },
      { k with data := codeBytes' r k.source })
  else (r, k)

/-- Write unit i of the current record. -/
def recWriteUnit (s : Hw) (k : RecRecord) (i : Nat) : Hw :=
  recPut { s with recd := { s.recd with current := some (k, i) } } (recAddr s.recd.page.toNat (s.recd.unit + i))
    (recUnit s k i (recUnits k.data.length))

/-- The end of a checkpoint is reached: event 0x01, and one that fell due meanwhile starts (R367, R373). -/
def checkpointDone (s : Hw) : Hw :=
  let s := note { s with recd := { s.recd with checkpointing := false, queue := s.recd.queue.drop 1 } } 0x88 1
  if s.recd.dueCheckpoint then recCheckpoint s else s

/-- Write the header of the page being opened (R366, R368). -/
def recHeader (s : Hw) : Hw :=
  let r := s.recd
  recPut s (recAddr r.page.toNat 0) (recUnit s ⟨0, 0, leBytes 4 r.pageSeq.toNat ++ leBytes 4 r.page.toNat⟩ 0 1)

/-- The recorder goes on with what it has to write, when nothing of it is on its way (R365, R368). Each step issues at most
one unit. -/
def recPump (s : Hw) : Hw :=
  if !recWrites s || recBusy s then s
  else if !s.recd.opened then (if s.recd.opening = 2 then recHeader s else recOpen s)
  else match s.recd.current, s.recd.queue with
    | some (k, i), _ => recWriteUnit s k i
    | none, [] => s
    | none, k :: rest =>
      if k.kind = checkpointEnd then checkpointDone s
      else
        let (r, k) := fillCode s.recd k
        if 64 < r.unit + recUnits k.data.length then recOpen s
        else recWriteUnit { s with recd := { r with queue := rest } } k 0

/-- A unit of the recorder is durable: the page opens step by step, the record goes on or ends (R365, R368). -/
def recDurable (s : Hw) : Hw :=
  let r := s.recd
  if r.stopped then s
  else if r.opening = 1 then recPump { s with recd := { r with opening := 2 } }
  else if r.opening = 2 then
    recPump { s with recd := { r with opening := 0, opened := true, unit := 1, rseq := r.rseq + 1 } }
  else match r.current with
    | some (k, i) =>
      let n := recUnits k.data.length
      if i + 1 < n then recPump { s with recd := { r with current := some (k, i + 1) } }
      else recPump { s with recd := { r with current := none, unit := r.unit + n, rseq := r.rseq + 1 } }
    | none => recPump s

/-- The recorder thaws (R369): the queued code records are written, and then a checkpoint that fell due. -/
def recThaw (s : Hw) : Hw :=
  let s := { s with recd := { s.recd with frozen := false, owner := none } }
  recPump (if s.recd.dueCheckpoint then recCheckpoint s else s)

/-! ### Stopping (R370, R371) -/

/-- The tombstone was not written: LOST, event 0x04 (R370). -/
def tombLost (s : Hw) : Hw := note { s with recd := { s.recd with lost := true, pendingTomb := false } } 0x88 4

/-- The recorder stops for a cause (R370) and issues its tombstone. -/
def recStop (s : Hw) (cause : Nat) : Hw :=
  let r := s.recd
  if r.stopped then s
  else
    let lostRecords := min (2 ^ 32 - 1) ((r.queue.filter fun k => k.kind != checkpointEnd).length + (if r.current.isSome then 1 else 0))
    let word0 := put 0 8 cause ||| put 32 32 r.pageSeq.toNat
    let tomb := leBytes 8 word0.toNat ++ leBytes 8 (opSeconds s) ++ leBytes 4 s.clk.cycles.toNat ++ leBytes 4 lostRecords ++
      zeros 39 ++ [0xA5]
    let r := { r with stopped := true, queue := [], current := none, checkpointing := false, dueCheckpoint := false
                      opening := 0, opened := false, pendingTomb := true }
    let r := if cause = 1 then { r with hist := [], ext := {}, codes := [], overflow := 0 } else r
    let s := { s with
      recd := r
      kp := { s.kp with waiting := s.kp.waiting.filter fun w => w.why != .recorder } }
    if kpLive s then kpWrite s 2 0x140 tomb .tombstone else tombLost s

/-- The recorder leaves STOPPED: it opens the page after the head, as at bring-up (R371). -/
def recRestart (s : Hw) : Hw :=
  { s with recd := { s.recd with stopped := false, opened := false, opening := 0, current := none } }

end Sys2Proof.Machine
end

