-- ==== Sys2Proof/Machine/Rings.lean ====
section
/-! DEFINITION. The ring manager (R41 to R66, R417, R435, R436): doorbells, fetch, admission, completion records,
notifications and deadlines, and the commands that carry them. -/

namespace Sys2Proof.Machine

/-- Change a ring's live state. -/
def Hw.modRing (s : Hw) (n : Nat) (f : Ring → Ring) : Hw := { s with rings := tmod {} s.rings n f }
/-- Change a doorbell port. -/
def Hw.modDb (s : Hw) (p : Nat) (f : DbPort → DbPort) : Hw := { s with dbs := tmod {} s.dbs p f }
/-- Log an event of the ring manager. -/
def ringNote (s : Hw) (e : Nat) (n : Nat) : Hw := note s 0x85 e (BitVec.ofNat 16 n)

/-! ### Doorbells (R45, R435) -/

/-- The outcome of checks 2 to 5 of R45 on a message at ring n. -/
def doorbellOk (s : Hw) (n : Nat) (m : Word) : Bool :=
  let r := s.ring n
  let kind := fld m 16 2
  let count := m.extractLsb' 24 24
  (ringUsable s.active n || kind = 1) && (kind = 0 || kind = 1) && fld m 18 6 = 0 && fld m 48 16 = 0 &&
    (kind != 0 || ((count - r.head).toNat ≤ 2 ^ ringLog2 s.active n && (count - r.tail).toNat ≤ 2 ^ ringLog2 s.active n)) &&
    (kind != 1 || (count - r.consumed).toNat ≤ (r.commit - r.consumed).toNat)

/-- An accepted doorbell: KIND 0 sets TAIL and enters the backlog (R362), KIND 1 sets CONSUMED. -/
def doorbellTake (s : Hw) (n : Nat) (m : Word) : Hw :=
  let count := m.extractLsb' 24 24
  if fld m 16 2 = 0 then
    let s := s.modRing n fun r => { r with tail := count }
    modExtremes s fun x => backlogExtreme x (count - (s.ring n).commit).toNat (BitVec.ofNat 16 n) (opSeconds s)
  else s.modRing n fun r => { r with consumed := count }

/-- A doorbell port takes doorbells: not while Cold, in its reset, or clamped (R435, R451, R453). Its queue of 16 passes each on
in the step that takes it, and never fills (log 164). -/
def dbReady (s : Hw) (n : Nat) : Bool := s.mc.mode != .cold && !s.mc.por && !(tget ({} : DbPort) s.dbs n).inReset && !clamped s

/-- The ring manager examines an inbound doorbell (R45). Seal and Held take and discard it (R435). -/
def doorbellSeen (p : Nat) (m : Word) (s : Hw) : Hw :=
  if s.mc.mode = .seal || s.mc.mode = .held then s
  else
    let s := wake s
    let n := fld m 0 16
    let s := s.modDb p fun d => { d with cntIn := satInc d.cntIn }
    if ringPort s.active n != p then ringNote (s.modRing n fun r => { r with dropPort := satInc r.dropPort }) 1 n
    else if !doorbellOk s n m then ringNote (s.modRing n fun r => { r with dropBad := satInc r.dropBad }) 2 n
    else doorbellTake s n m

/-- A doorbell is offered at a port: while ready is low, or others are held back there, its sender holds it (R429, R435). -/
def doorbell (p : Nat) (m : Word) (s : Hw) : Hw :=
  if dbReady s p && (tget ({} : DbPort) s.dbs p).held.isEmpty then doorbellSeen p m s
  else s.modDb p fun d => { d with held := d.held ++ [m] }

/-- A port that is ready takes the first doorbell held back at it. -/
def heldTake (s : Hw) (p : Nat) : Hw :=
  match (tget ({} : DbPort) s.dbs p).held with
  | m :: rest => if dbReady s p then doorbellSeen p m (s.modDb p fun d => { d with held := rest }) else s
  | [] => s

/-- One core clock of the doorbell ports: each takes one doorbell held back, in ascending port number (R435). -/
def heldPass (s : Hw) : Hw := (s.dbs.map (·.1)).foldl heldTake s

/-- A command at a doorbell port that exists (R428). -/
def State.atPort (s : State) (p : Nat) (f : Hw → Hw) : Host.Outcome State Fault Refusal :=
  if p < 96 then s.work f else .fault .noSuchPort

/-- SUBMISSION_DOORBELL (R45). The message's own KIND decides. -/
def execSubmissionDoorbell (port : Nat) (message : Word) (s : State) : Host.Outcome State Fault Refusal :=
  if port < 96 then s.always (doorbell port message) else .fault .noSuchPort

/-- CONSUME_DOORBELL (R45). -/
def execConsumeDoorbell (port : Nat) (message : Word) (s : State) : Host.Outcome State Fault Refusal :=
  if port < 96 then s.always (doorbell port message) else .fault .noSuchPort

/-! ### Notifications (R61, R436) -/

/-- A notification of a ring enters its port's queue, or merges into the one that waits there; a full queue makes it wait
(R436). -/
def noteQueue (s : Hw) (n : Nat) : Hw :=
  let p := ringPort s.active n
  let r := s.ring n
  let id := BitVec.ofNat 16 n
  let out := (tget ({} : DbPort) s.dbs p).out
  let told := fun (s : Hw) => s.modRing n fun r => { r with unnotified := 0, notifyNow := false, due := false }
  if out.any (·.1 = id) then
    told (s.modDb p fun d => { d with out := d.out.map fun e => if e.1 = id then (id, r.commit) else e })
  else if out.length < 8 && p < 96 then told (s.modDb p fun d => { d with out := d.out ++ [(id, r.commit)] })
  else s.modRing n fun r => { r with due := true }

/-- Send the notifications that a ring's records have made due (R61). -/
def noteDue (s : Hw) (n : Nat) : Hw :=
  let r := s.ring n
  let count := max 1 (fld (ringWord s.active n 0x18) 0 8)
  if count ≤ r.unnotified || r.notifyNow || r.due then noteQueue s n else s

/-- The coalescing age of a ring reaches its limit (R61). -/
def noteTimer (n : Nat) (s : Hw) : Hw :=
  let r := s.ring n
  let time := fld (ringWord s.active n 0x18) 16 16
  if time = 0 || r.unnotified = 0 then s else noteQueue (advanceTo s (r.oldest + 1024 * time)) n

/-- NOTIFY_TIMER (R61). -/
def execNotifyTimer (ring : BitVec 16) (s : State) : Host.Outcome State Fault Refusal := s.live (noteTimer ring.toNat)

/-- The oldest message of a port leaves it, and notifications that waited for room enter its queue (R436). -/
def noteSend (p : Nat) (s : Hw) : Hw :=
  let d := tget ({} : DbPort) s.dbs p
  if d.inReset || d.out.isEmpty then s
  else
    let s := s.modDb p fun d => { d with out := d.out.drop 1, cntOut := satInc d.cntOut }
    ((s.rings.filter fun e => e.2.due && ringPort s.active e.1 = p).map (·.1)).foldl noteQueue s

/-- NOTIFICATION_SEND (R436). -/
def execNotificationSend (port : Nat) (s : State) : Host.Outcome State Fault Refusal := s.atPort port (noteSend port)

/-! ### Records (R57 to R60) -/

/-- The record of a request never granted a context (R57). -/
def neverRecord (status : BitVec 8) (epoch : BitVec 16) (tag : BitVec 32) (notifyNow : Bool) : CplRecord :=
  { status := status, flags := 0, epoch := epoch, tag := tag, bytes := 0, invocation := BitVec.allOnes 64, duration := 0
    attempts := 0, notifyNow := notifyNow }

/-- TAG of a descriptor. -/
def descTag (d : Block) : BitVec 32 := (wordOf d 1).extractLsb' 0 32
/-- FLAGS bit i of a descriptor. -/
def descFlag (d : Block) (i : Nat) : Bool := bit (wordOf d 0) (53 + i)
/-- SLOT of a descriptor. -/
def descSlot (d : Block) : Nat := fld (wordOf d 0) 12 17
/-- The deadline cycle of a descriptor that arrived at core clock t0 (R62). -/
def descDeadline (s : Hw) (d : Block) (t0 : Nat) : Option Nat :=
  let n := fld (wordOf d 0) 29 24
  if n = 0 then none else some (t0 + n * clkPerUs s)

/-- The bytes of record k on a ring of 2^log2 entries (R57, R58). -/
def recordBytes (r : CplRecord) (k : BitVec 24) (log2 : Nat) : Bytes :=
  wordsBytes
    [put 0 8 r.status.toNat ||| put 8 8 r.flags.toNat ||| put 16 16 r.epoch.toNat ||| put 32 32 r.tag.toNat, r.bytes,
      r.invocation, put 0 32 r.duration.toNat ||| put 32 8 r.attempts.toNat ||| putb 63 (!bit k log2)]

/-- COMMIT counts the records at the front whose writes have ended; u counts those written (R59, R61). -/
def commitGo : Nat → Nat → Ring → Ring
  | 0, _, r => r
  | f + 1, now, r =>
    match r.writes with
    | w :: rest =>
      if w.done then
        commitGo f now { r with
          writes := rest, commit := r.commit + 1
          unnotified := if w.issued then r.unnotified + 1 else r.unnotified
          oldest := if w.issued && r.unnotified = 0 then now else r.oldest
          notifyNow := r.notifyNow || (w.issued && w.record.notifyNow) }
      else r
    | [] => r

/-- Let COMMIT advance and notify. -/
def commitAdvance (s : Hw) (n : Nat) : Hw :=
  noteDue (s.modRing n fun r => commitGo r.writes.length s.clk.core r) n

/-- The lost descriptors at the front of a ring commit ABORTED, in ring order; those behind one whose data has not returned
wait for it (R54). -/
def flushLate (s : Hw) (n : Nat) : Hw :=
  let gone := (s.ring n).fetched.takeWhile fun f => f.st = .late
  let s := s.modRing n fun r => { r with fetched := r.fetched.drop gone.length }
  gone.foldl (fun s f => readyPut s (.never (BitVec.ofNat 16 n) f.k
    (neverRecord stAborted s.seam.epoch (descTag f.desc) (descFlag f.desc 1)) f.deadline none)) s

/-- A ring loses what it has fetched and not yet admitted (R54, R60). -/
def abortFetched (s : Hw) (n : Nat) : Hw :=
  flushLate (s.modRing n fun r => { r with fetched := r.fetched.map fun f =>
    { f with st := if f.st = .issued || f.st = .cut then .cut else .late } }) n

/-- A record is lost: counted, never written. -/
def lostRecord (r : Ring) (k : BitVec 24) : Ring :=
  { r with
    lostCpl := satInc r.lostCpl
    writes := r.writes.map fun w => if w.k = k then { w with issued := false, done := true } else w }

/-- A completion write fails (R60): the ring enters STOPPED, unissued records are lost, fetched descriptors end ABORTED. -/
def ringStop (s : Hw) (n : Nat) (k : BitVec 24) : Hw :=
  let stopped := (s.ring n).stopped
  let s := s.modRing n fun r => lostRecord { r with stopped := true } k
  if stopped then commitAdvance s n
  else
    let s := s.modRing n fun r => (r.writes.filter fun w => !w.issued && !w.done).foldl (fun r w => lostRecord r w.k) r
    let s := abortFetched (ringNote s 4 n) n
    let s := commitAdvance s n
    if (s.ring n).unnotified != 0 then noteQueue s n else s

/-- Issue the unissued record writes of a ring in commit order, each checked against the active set (R59, R60). -/
def cplIssue : Nat → Hw → Nat → Hw
  | 0, s, _ => s
  | f + 1, s, n =>
    match (s.ring n).writes.find? fun w => !w.issued && !w.done with
    | none => s
    | some w =>
      let addr := fld (ringWord s.active n 0x10) 12 52 * 4096 + 32 * (w.k.toNat % 2 ^ ringLog2 s.active n)
      let d := ringDomain s.active n
      match winCheck s.active d addr true with
      | none => ringStop s n w.k
      | some attr =>
        match mmBind s with
        | none => s
        | some p =>
          match mmIssue s p true addr 32 (recordBytes w.record w.k (ringLog2 s.active n)) d attr (.record (BitVec.ofNat 16 n) w.k) with
          | none => s
          | some s' =>
            cplIssue f ((mmChose s' p).modRing n fun r => { r with
              writes := r.writes.map fun v => if v.k = w.k then { v with issued := true } else v }) n

/-- Issue what a ring has to write. -/
def cplGo (s : Hw) (n : Nat) : Hw := cplIssue ((s.ring n).writes.length + 1) s n

/-- Issue the record writes that waited for a port. -/
def cplAll (s : Hw) : Hw :=
  ((s.rings.filter fun e => e.2.writes.any fun w => !w.issued && !w.done).map (·.1)).foldl cplGo s

/-- A record of entry k commits on ring n: it takes the next slot and is written, or is lost on a stopped ring (R58 to R60). -/
def commitRecord (s : Hw) (n : Nat) (k : BitVec 24) (rec' : CplRecord) : Hw :=
  let stopped := (s.ring n).stopped
  let slot := (s.ring n).next
  let s := s.modRing n fun r => { r with
    next := r.next + 1, open_ := r.open_.filter fun e => e != k
    writes := r.writes ++ [⟨slot, rec', false, false⟩] }
  if stopped then commitAdvance (s.modRing n fun r => lostRecord r slot) n else cplGo s n

/-- The deadline cycle of a context's request is over, and nothing defers it (R63, R65). -/
def ctxLate (s : Hw) (x : Ctx) : Bool :=
  match x.req with
  | some r => r.fromPeer.isNone && !x.deferred && (match r.deadline with | some d => d < s.clk.core | none => false)
  | none => false

/-- The status with which a context's record commits now: a withdrawal's, of which TRAP_UNHANDLED gives way to the deadline
(R92), else that of a deadline that has passed, of lost data, of a length that disagrees, or the posted one (R52, R63, R65,
R83, R286). -/
def cplStatus (s : Hw) (x : Ctx) : BitVec 8 :=
  match x.withdrawn with
  | some st => if st = stTrapUnhandled && ctxLate s x then stTimeout else st
  | none =>
    if ctxLate s x then stTimeout
    else if x.lostData then stDataUncorrected
    else if x.mismatch then stLengthMismatch
    else x.posted.getD stOk

/-- LATE (R57): a status other than TIMEOUT in or after the deadline cycle. -/
def cplLate (s : Hw) (st : BitVec 8) (deadline : Option Nat) : Bool :=
  st != stTimeout && (match deadline with | some d => d ≤ s.clk.core | none => false)

/-- DURATION (R57). -/
def cplDuration (s : Hw) (admittedAt : Nat) : BitVec 32 := BitVec.ofNat 32 (min (2 ^ 32 - 1) ((s.clk.core - admittedAt) / 64))

/-- FLAGS of a context's record (R57). -/
def cplFlags (s : Hw) (x : Ctx) (st : BitVec 8) : BitVec 8 :=
  let r := x.req
  BitVec.ofNat 8 ((cplLate s st (r.bind (·.deadline))).toNat + 2 * x.held.toNat + 4 * (x.scrubbed && !x.unscrubbed).toNat +
    8 * (match r with | some q => q.pilot | none => false).toNat + 16 * x.emulated.toNat)

/-- The completion record of a context that commits now (R57). -/
def cplRecord (s : Hw) (x : Ctx) (q : Request) : CplRecord :=
  let st := cplStatus s x
  { status := st, flags := cplFlags s x st, epoch := q.epoch, tag := descTag q.desc, bytes := x.bytes
    invocation := x.invocation.getD (BitVec.allOnes 64), duration := cplDuration s q.admittedAt, attempts := x.attempts
    notifyNow := descFlag q.desc 1 }

/-- The message that carries a forwarded request's completion home (R419). -/
def completionFlit (id : BitVec 8) (r : CplRecord) : Bytes :=
  [3, id, r.status, r.flags, r.attempts, 0, 0, 0] ++ leBytes 8 r.bytes.toNat ++ leBytes 8 r.invocation.toNat

/-- The mask whose latency a request counts to (R360). -/
def reqMask (s : Hw) (q : Request) : Nat := (libMask (s.setOf q.epoch) (fld (wordOf q.desc 0) 0 12)).toNat

/-- A context's record commits: its latency is counted (R360, R361), and the context enters QUIESCING (R83). A peer's
request goes home as a completion, unless the peer has withdrawn it (R419). -/
def commitCtx (s : Hw) (c : Nat) : Hw :=
  let x := s.ctx c
  match x.req with
  | none => s
  | some q =>
    let r := cplRecord s x q
    let s := s.modCtx c fun x => { x with committed := true, st := .quiescing, hold := .none }
    match q.fromPeer with
    | some (link, id) => if x.withdrawn = some stTimeout then s else linkSend s link.toNat 4 (completionFlit id r)
    | none =>
      let s := histBump s (libMask (s.setOf q.epoch) x.entry.toNat).toNat (logBucket r.duration.toNat)
      let s := s.modRing q.ring.toNat fun r => { r with inFlight := r.inFlight - 1 }
      commitRecord s q.ring.toNat q.k r

/-- The record of an entry never granted a context commits. One that was forwarded has its duration, and its deadline
stands and its latency is counted here (R360, R417, R419, log 85); an aborted one carries the epoch of the commit (R54). -/
def commitNever (s : Hw) (n : Nat) (k : BitVec 24) (r : CplRecord) (deadline : Option Nat) (forwarded : Option (Nat × Nat)) : Hw :=
  match forwarded with
  | none =>
    let r := if r.status = stAborted then { r with epoch := s.seam.epoch } else r
    commitRecord s n k { r with flags := r.flags ||| BitVec.ofNat 8 (cplLate s r.status deadline).toNat }
  | some (t, mask) =>
    let st := match deadline with | some d => if d < s.clk.core then stTimeout else r.status | none => r.status
    let s := histBump s mask (logBucket (cplDuration s t).toNat)
    commitRecord s n k { r with
      status := st, duration := cplDuration s t
      flags := if st = stTimeout then r.flags &&& 0xfe else r.flags ||| BitVec.ofNat 8 (cplLate s st deadline).toNat }

/-- The record that became ready first commits (R55). A core clock commits one record, so a second one comes in the next. -/
def recordCommit (s : Hw) : Hw :=
  match s.rm.ready with
  | [] => s
  | r :: rest =>
    let s := advanceTo s s.rm.commitAt
    let s := { s with rm := { s.rm with ready := rest, commitAt := s.clk.core + 1 } }
    match r with
    | .context c => commitCtx s c
    | .never n k rec' d a => commitNever s n.toNat k rec' d a

/-- RECORD_COMMIT (R55). -/
def execRecordCommit (s : State) : Host.Outcome State Fault Refusal := s.work recordCommit

/-- The write of a record ends: counted, or the ring stops (R59, R60). -/
def recordWritten (s : Hw) (n : Nat) (k : BitVec 24) (err : Bool) : Hw :=
  if err then ringStop s n k
  else commitAdvance (s.modRing n fun r => { r with writes := r.writes.map fun w => if w.k = k then { w with done := true } else w }) n

/-- The outstanding write of a record. -/
def recordTxn (s : Hw) (ring : BitVec 16) (k : BitVec 24) : Option Txn := s.mm.txns.find? fun t => t.owner = .record ring k

/-- The answer to an outstanding record write. -/
def recordAnswer (ring : BitVec 16) (k : BitVec 24) (err : Bool) (s : Hw) : Hw :=
  match recordTxn s ring k with
  | some t =>
    let s := (mmDrop s t).modMmp t.port fun p => { p with wrBeats := satInc p.wrBeats t.beats }
    cplAll (recordWritten (if err then note s (mmUnit t.port) 0x42 else s) ring.toNat k err)
  | none => s

/-- RECORD_WRITE_ACK (R59). -/
def execRecordWriteAck (ring : BitVec 16) (k : BitVec 24) (s : State) : Host.Outcome State Fault Refusal :=
  s.work (recordAnswer ring k false)

/-- RECORD_WRITE_FAIL (R60): the surroundings refuse the write. -/
def execRecordWriteFail (ring : BitVec 16) (k : BitVec 24) (s : State) : Host.Outcome State Fault Refusal :=
  s.work (recordAnswer ring k true)

/-! ### Fetch (R46, R47, R49) -/

/-- The block fetches and admits: in service, not draining, in Run or Idle (R325, R391, R389). -/
def admits (s : Hw) : Bool :=
  (s.mc.mode = .pilot || s.mc.mode = .full || s.mc.mode = .degraded || s.mc.mode = .ftest) && !s.mc.draining &&
    (s.sec.power = .run || s.sec.power = .idle)

/-- Descriptors of a ring that are fetched and not yet admitted or committed (R46). -/
def fetchedCount (s : Hw) (n : Nat) : Nat :=
  (s.ring n).fetched.length + s.rm.ready.countP fun r =>
    match r with | .never m _ _ _ none => m.toNat = n | _ => false

/-- The fetch conditions of R46. -/
def fetchReady (s : Hw) (n : Nat) : Bool :=
  let r := s.ring n
  admits s && ringState s n = 1 && r.head != r.tail && (r.head - r.consumed).toNat < 2 ^ ringLog2 s.active n &&
    fetchedCount s n < 4

/-- Issue the fetch of submission entry HEAD (R46, R47). -/
def fetchGo (n : Nat) (s : Hw) : Hw :=
  if !fetchReady s n then s
  else
    let k := (s.ring n).head
    let id := BitVec.ofNat 16 n
    let addr := fld (ringWord s.active n 8) 12 52 * 4096 + 64 * (k.toNat % 2 ^ ringLog2 s.active n)
    let d := ringDomain s.active n
    match winCheck s.active d addr false with
    | none =>
      let s := ringNote s 3 n
      let s := s.modRing n fun r => { r with head := r.head + 1, open_ := r.open_ ++ [k] }
      readyPut s (.never id k (neverRecord stWindowFault s.seam.epoch 0 false) none none)
    | some attr =>
      match mmBind s with
      | none => s
      | some p =>
        match mmIssue s p false addr 64 [] d attr (.fetch id k) with
        | none => s
        | some s' =>
          (mmChose s' p).modRing n fun r => { r with
            head := r.head + 1, open_ := r.open_ ++ [k], fetched := r.fetched ++ [{ k := k, st := .issued, desc := 0, t0 := 0, epoch := 0 }] }

/-- DESCRIPTOR_FETCH (R46). -/
def execDescriptorFetch (ring : BitVec 16) (s : State) : Host.Outcome State Fault Refusal := s.work (fetchGo ring.toNat)

/-- A descriptor that R49 refuses. -/
def descBad (d : Block) : Bool :=
  fld (wordOf d 0) 61 3 != 0 || fld (wordOf d 0) 58 3 != 0 || fld (wordOf d 1) 59 5 != 0 || !slotExists (descSlot d) ||
    (descFlag d 3 && fld (wordOf d 2) 27 37 != 0)

/-- A request of domain d waits for admission. -/
def admitWaits (s : Hw) (d : Nat) : Bool :=
  s.rings.any (fun e => ringDomain s.active e.1 = d && e.2.fetched.any fun f => f.st = .waiting) ||
    s.hns.arrivals.any fun a => a.domain.toNat = d

/-- A request of domain d comes to wait for admission (R34, R55). -/
def admitArrive (s : Hw) (d : Nat) : Hw := { s with rm := { s.rm with arb := s.rm.arb.arrive d (admitWaits s d) } }

/-- The oldest descriptor whose data has returned is checked: refused, or made to wait for admission (R49). Those that the
ring has lost commit ABORTED first, in ring order (R54). -/
def descArrival (n : Nat) (s : Hw) : Hw :=
  let s := flushLate s n
  match (s.ring n).fetched.find? fun f => f.st = .held with
  | none => s
  | some f =>
    let id := BitVec.ofNat 16 n
    if descBad f.desc then
      let s := ringNote (s.modRing n fun r => { r with fetched := r.fetched.filter fun g => g.k != f.k }) 6 n
      readyPut s (.never id f.k (neverRecord stDescriptorInvalid s.seam.epoch (descTag f.desc) (descFlag f.desc 1)) f.deadline none)
    else
      (admitArrive s (ringDomain s.active n)).modRing n fun r => { r with fetched := r.fetched.map fun g =>
        if g.k = f.k then { f with st := .waiting, epoch := s.seam.epoch } else g }

/-- DESCRIPTOR_ARRIVAL (R49). -/
def execDescriptorArrival (ring : BitVec 16) (s : State) : Host.Outcome State Fault Refusal := s.work (descArrival ring.toNat)

/-! ### Admission (R53 to R56, R417, R418) -/

/-- An engine kind of ENGINE_MASK is in service on a bench (R43, R56, R206, R217). -/
def kindServes (s : Hw) (b kind : Nat) : Bool :=
  match kind with
  | 0 => !s.out (pairUnit b)
  | 1 => !s.out (pairUnit (8 + b))
  | 2 => !(benchLanes s b).isEmpty
  | 3 => !s.out (digUnit (32 + b))
  | _ => pkBenchServes s b

/-- Every engine that a mask names is unfenced on a bench (R56). -/
def benchServes (s : Hw) (mask : BitVec 5) (b : Nat) : Bool :=
  (List.range 5).all fun k => !bit mask k || kindServes s b k

/-- Busy contexts of an awl. -/
def awlBusy (s : Hw) (a : Nat) : Nat := (s.ctxs.filter fun e => awlOf e.1 = a && e.2.st != .free).length
/-- Busy contexts of a bench. -/
def benchBusy (s : Hw) (b : Nat) : Nat := (s.ctxs.filter fun e => benchOf e.1 = b && e.2.st != .free).length

/-- The awls of a bench that may take a request: a fenced one takes none (R349). -/
def awlsOf (s : Hw) (b : Nat) : List Nat :=
  ((List.range 4).map (4 * b + ·)).filter fun a => !s.out (awlUnit a) && awlBusy s a < 16

/-- Where a request goes: its bench, the engine it lacks everywhere, or a wait. -/
inductive Placed where
  | at (c : Nat)
  | fenced
  | waits
deriving DecidableEq, Repr

/-- Place a request with an engine mask (R56). In Pilot the benches considered are bench 0 alone, so its fence is that of
every bench (log 76). -/
def placeRequest (s : Hw) (mask : BitVec 5) : Placed :=
  let all := if s.mc.mode = .pilot then [0] else (List.range 8).map fun i => (s.rm.lastBench + 1 + i) % 8
  let fit := all.filter fun b => benchServes s mask b && !(awlsOf s b).isEmpty
  match leastBy (benchBusy s) fit with
  | some b =>
    match leastBy (awlBusy s) (awlsOf s b) with
    | some a =>
      match (List.range 16).find? fun i => (s.ctx (16 * a + i)).st = .free with
      | some i => .at (16 * a + i)
      | none => .waits
    | none => .waits
  | none => if all.all fun b => !benchServes s mask b then .fenced else .waits

/-- A request that waits for admission: of a ring, or from a peer. -/
inductive Waiting where
  | ring (n : Nat) (f : Fetched)
  | peer (a : Arrival)
deriving DecidableEq, Repr

/-- The descriptor that waits. -/
def Waiting.desc : Waiting → Block
  | .ring _ f => f.desc
  | .peer a => a.desc

/-- The domain that waits. -/
def Waiting.domain (s : Hw) : Waiting → Nat
  | .ring n _ => ringDomain s.active n
  | .peer a => a.domain.toNat

/-- The place of its source in the round of a domain's rings: a link counts as a ring after the last one (log 32). -/
def Waiting.source : Waiting → Nat
  | .ring n _ => n
  | .peer a => 65536 + a.link.toNat

/-- What admission would do with a waiting request. -/
inductive Admit where
  | grant (c : Nat)
  | forward (link : Nat)
  | fenced
  | waits
deriving DecidableEq, Repr

/-- Forwarded requests in flight on a link. -/
def forwardsOn (s : Hw) (link : Nat) : Nat := (s.hns.forwards.filter fun f => f.link = link).length

/-- The outcome of R417 and R56 for a waiting request now. -/
def admitKind (s : Hw) (w : Waiting) : Admit :=
  let here :=
    match placeRequest s (libMask s.active (fld (wordOf w.desc 0) 0 12)) with
    | .at c => Admit.grant c
    | .fenced => .fenced
    | .waits => .waits
  match w with
  | .peer _ => here
  | .ring _ f =>
    match (if domFlag s.active (w.domain s) 5 then forwardTo s (descSlot f.desc) else none) with
    | none => here
    | some b =>
      let k := meshLink s b
      if (s.link k).st != .up then .fenced else if 256 ≤ forwardsOn s k then .waits else .forward k

/-- The head of a ring's fetched descriptors, when it may be admitted in its turn (R54) in core clock `now`: in its deadline
cycle it still waits, and is never admitted (R63). -/
def ringHead (now : Nat) (r : Ring) : Option Fetched :=
  match r.fetched with
  | f :: _ =>
    if f.st = .waiting && (!descFlag f.desc 2 || r.open_.head? = some f.k) && f.deadline.all (now < ·) then some f else none
  | [] => none

/-- Every request that could be admitted now, with its outcome. A peer's request waits while its domain is not valid here
(R22, log 130). -/
def waitings (s : Hw) : List (Waiting × Admit) :=
  let rings := s.rings.filterMap fun e => (ringHead s.clk.core e.2).map (Waiting.ring e.1)
  let peers := (List.range 8).filterMap fun k =>
    (s.hns.arrivals.find? fun a => a.link.toNat = k && domValid s.active a.domain.toNat).map Waiting.peer
  ((rings ++ peers).map fun w => (w, admitKind s w)).filter fun e => e.2 != .waits

/-- A source leaves what it had waiting. -/
def waitingGone (s : Hw) (w : Waiting) : Hw :=
  match w with
  | .ring n f => s.modRing n fun r => { r with fetched := r.fetched.filter fun g => g.k != f.k }
  | .peer a => { s with hns := { s.hns with arrivals := s.hns.arrivals.filter fun b => b != a } }

/-- The request that a waiting descriptor becomes in this core clock (R53, R62). -/
def requestOf (s : Hw) (w : Waiting) : Request :=
  match w with
  | .ring n f =>
    { ring := BitVec.ofNat 16 n, k := f.k, desc := f.desc, domain := BitVec.ofNat 12 (ringDomain s.active n)
      epoch := s.seam.epoch, admittedAt := s.clk.core, deadline := f.deadline
      pilot := s.mc.mode = .pilot, fromPeer := none }
  | .peer a =>
    { ring := 0, k := 0, desc := a.desc, domain := a.domain, epoch := s.seam.epoch, admittedAt := s.clk.core
      deadline := a.deadline, pilot := s.mc.mode = .pilot, fromPeer := some (a.link, a.id) }

/-- A context is granted: it starts as READY with a clear state, or its entry is refused (R29, R53, R72, R96). -/
def grantCtx (s : Hw) (w : Waiting) (c : Nat) : Hw :=
  let q := requestOf s w
  let s := waitingGone s w
  let e := fld (wordOf q.desc 0) 0 12
  let s := { s with rm := { s.rm with lastBench := benchOf c, admitted := s.rm.admitted + 1 } }
  let s := match w with | .ring n _ => s.modRing n fun r => { r with inFlight := r.inFlight + 1 } | .peer _ => s
  let s := s.setCtx c { st := .ready, req := some q, entry := BitVec.ofNat 12 e, dztrap := bit (libEntry s.active e).2 34 }
  if domEntryOk s.active q.domain.toNat e && libValid s.active e then s else withdraw s c stIllegalProgram

/-- The message that forwards a request: its id, domain, remaining deadline in core clocks and descriptor (R417, R419). -/
def forwardFlit (s : Hw) (id : Nat) (q : Request) : Bytes :=
  [1, BitVec.ofNat 8 id] ++ leBytes 2 q.domain.toNat ++
    leBytes 4 (match q.deadline with | some d => min (2 ^ 32 - 1) (max 1 (d - s.clk.core)) | none => 0) ++
    leBytes 64 q.desc.toNat

/-- A request goes to another block of the harness (R417). -/
def forwardRequest (s : Hw) (w : Waiting) (k : Nat) : Hw :=
  match w with
  | .peer _ => s
  | .ring n _ =>
    let q := requestOf s w
    let id := ((List.range 256).find? fun i => !s.hns.forwards.any fun f => f.link = k && f.id = i).getD 0
    let s := waitingGone s w
    let s := s.modRing n fun r => { r with inFlight := r.inFlight + 1 }
    let s : Hw := { s with
      rm := { s.rm with admitted := s.rm.admitted + 1 }
      hns := { s.hns with forwards := s.hns.forwards ++ [{ link := k, id := id, req := q, ring := q.ring }] } }
    linkSend s k 4 (forwardFlit s id q)

/-- A request is refused at the admission stage (R55, R56, R417): ENGINE_FENCED. -/
def admitFenced (s : Hw) (w : Waiting) : Hw :=
  let q := requestOf s w
  let r := neverRecord stEngineFenced s.seam.epoch (descTag w.desc) (descFlag w.desc 1)
  match w with
  | .ring n f => readyPut (waitingGone s w) (.never (BitVec.ofNat 16 n) f.k r q.deadline none)
  | .peer a => linkSend (waitingGone s w) a.link.toNat 4 (completionFlit a.id r)

/-- The source of a domain whose turn it is: the next after the one served last (R55). -/
def nextSource (last : Nat) (l : List (Waiting × Admit)) : Option (Waiting × Admit) :=
  let l' := l.filter fun e => last < e.1.source
  leastBy (fun e => e.1.source) (if l'.isEmpty then l else l')

/-- One admission: the domain that the arbitration grants, the ring whose turn it is, and the outcome (R55). A core clock
admits one request, so a second one comes in the next. -/
def admission (s : Hw) : Hw :=
  let s' := s
  let s := advanceTo s s.rm.admitAt
  if !admits s then s'
  else
    let all := waitings s
    let ds := risingNats (all.map fun e => e.1.domain s)
    match arbPick (domWeight s.active) (ds.map fun d => (d, 1)) s.rm.arb with
    | none => s'
    | some (d, arb) =>
      match nextSource (tget 65543 s.rm.ringTurn d) (all.filter fun e => e.1.domain s = d) with
      | none => s'
      | some (w, a) =>
        let s := { s with rm := { s.rm with
          arb := arb, ringTurn := tset 65543 s.rm.ringTurn d w.source, admitAt := s.clk.core + 1 } }
        match a with
        | .grant c => grantCtx s w c
        | .forward k => forwardRequest s w k
        | .fenced => admitFenced s w
        | .waits => s

/-- ADMISSION (R53). -/
def execAdmission (s : State) : Host.Outcome State Fault Refusal := s.work admission

/-! ### Deadlines (R63 to R65) -/

/-- The waits of a context that its deadline ends on their own tickets: a draw fails NONCE_WAIT, an allocation QUOTA
(R30, R63, R151). -/
def endWaits (s : Hw) (c : Nat) : Hw :=
  let charges := s.keys.charges.filter fun w => w.key / 16 = c
  let s := charges.foldl (fun s w => chargeFail s w.key stNonceWait) s
  ((s.jobsOf c).filter fun e => e.2.phase = .allocating).foldl (fun s e =>
    match e.2.op with | .alloc h _ => allocFail s e.1 h stQuota | _ => s) s

/-- No commit by the end of the deadline cycle: the timeout fires, or a key-intake commit defers it (R63, R65). A request
from a peer is timed by the block it came from (R419). A TRAP_UNHANDLED that has not committed gives way (R92). -/
def ctxTimeout (s : Hw) (c : Nat) : Hw :=
  let x := s.ctx c
  if x.committed || x.noRecord then s
  else if x.withdrawn = some stTrapUnhandled then
    if x.req.any (·.fromPeer.isNone) then s.modCtx c fun x => { x with withdrawn := some stTimeout } else s
  else if x.withdrawn.isSome then s
  else if s.keys.updates.any fun u => u.ofCtx c && u.begun then s.modCtx c fun x => { x with deferred := true }
  else
    let s := endWaits s c
    match x.req with
    | some q => if q.fromPeer.isSome then s else withdraw s c stTimeout
    | none => s

/-- The commit slot of the present core clock passes: the record that is ready takes it, and none is left in this clock
(R55, R63). -/
def commitSlot (s : Hw) : Hw :=
  let s := if s.rm.commitAt ≤ s.clk.core then recordCommit s else s
  { s with rm := { s.rm with commitAt := max s.rm.commitAt (s.clk.core + 1) } }

/-- A deadline cycle ends: first the record that is ready commits, then the deadline is evaluated (R63). -/
def deadline (t : DeadlineTarget) (s : Hw) : Hw :=
  match t with
  | .context c =>
    match (s.ctx c.toNat).req.bind (·.deadline) with
    | some d => if (s.ctx c.toNat).committed then s else ctxTimeout (commitSlot (advanceTo s d)) c.toNat
    | none => s
  | .waiting n k =>
    match (s.ring n.toNat).fetched.find? fun f => f.k = k && f.st = .waiting with
    | none => s
    | some f =>
      match f.deadline with
      | none => s
      | some d =>
        let s := advanceTo s d
        let s := waitingGone s (.ring n.toNat f)
        readyPut s (.never n k (neverRecord stTimeout f.epoch (descTag f.desc) (descFlag f.desc 1)) (some d) none)
  | .forwarded link id =>
    match s.hns.forwards.find? fun f => f.link = link.toNat && f.id = id.toNat with
    | none => s
    | some f =>
      match f.req.deadline with
      | none => s
      | some d =>
        let s := advanceTo s d
        let s := { s with hns := { s.hns with forwards := s.hns.forwards.filter fun g => g != f } }
        let s := s.modRing f.ring.toNat fun r => { r with inFlight := r.inFlight - 1 }
        let s := linkSend s link.toNat 4 [2, id]
        readyPut s (.never f.ring f.req.k { neverRecord stTimeout f.req.epoch (descTag f.req.desc) (descFlag f.req.desc 1) with
          flags := 0x20 } (some d) (some (f.req.admittedAt, reqMask s f.req)))

/-- DEADLINE_TIMEOUT (R63). -/
def execDeadlineTimeout (target : DeadlineTarget) (s : State) : Host.Outcome State Fault Refusal := s.work (deadline target)

/-! ### The end of a context, and ring commands -/

/-- A context whose request has ended and whose work has quiesced is cleared and FREE: its handles close, and their buffers
are freed (R38, R64, R67, R73). -/
def ctxQuiesced (c : Nat) (s : Hw) : Hw :=
  let x := s.ctx c
  if x.req.isSome && (x.committed || x.noRecord) && !ctxBusy s c then
    let s := (x.handles.map (·.1)).foldl (fun s h => closeHandle s c h) s
    s.setCtx c {}
  else s

/-- CONTEXT_QUIESCED (R64). -/
def execContextQuiesced (c : BitVec 9) (s : State) : Host.Outcome State Fault Refusal := s.work (ctxQuiesced c.toNat)

/-- A RING_CMD write that is not accepted is logged (R41). -/
def ringCmdRefused (s : Hw) (n : Nat) : Hw := ringNote s 5 n

/-- RING_CMD.RESET: accepted only for a ring not enabled in the active set with no request in flight (R41). -/
def ringReset (n : Nat) (withRestart : Bool) (s : Hw) : Hw :=
  let r := s.ring n
  if withRestart || ringEn s.active n || r.inFlight != 0 || !r.open_.isEmpty || !r.writes.isEmpty then ringCmdRefused s n
  else s.modRing n fun _ => {}

/-- RING_RESET (R41). -/
def execRingReset (port : CtlPort) (ring : BitVec 16) (withRestart : Bool) (s : State) : Host.Outcome State Fault Refusal :=
  s.cinched port (ringReset ring.toNat withRestart)

/-- RING_CMD.RESTART: accepted only while the ring is STOPPED (R41, R60). -/
def ringRestart (n : Nat) (s : Hw) : Hw :=
  if (s.ring n).stopped then
    s.modRing n fun r => { r with stopped := false, lostCpl := 0, dropBad := 0, dropPort := 0 }
  else ringCmdRefused s n

/-- RING_RESTART (R41). -/
def execRingRestart (port : CtlPort) (ring : BitVec 16) (s : State) : Host.Outcome State Fault Refusal :=
  s.cinched port (ringRestart ring.toNat)

end Sys2Proof.Machine
end

