-- ==== Sys2Proof/Machine/PkUnits.lean ====
section
/-! DEFINITION. What a public-key unit does with its work (R206, R221 to R225, R247, R250) and with loaded curves (R228,
R229), and how the microcode image is fetched (R212 to R215). The commands stand in Machine/PublicKey.lean. -/

namespace Sys2Proof.Machine

/-! ### The end of a unit's work -/

/-- Correct a domain's credit at a bench (R208). -/
def pkCredit (s : Hw) (b d : Nat) (n : Int) : Hw :=
  s.modPkb b fun p => { p with arb := { p.arb with credit := tmod 0 p.arb.credit d (· + n) } }

/-- The unit burnishes: zeros in all of operand memory, and the key copy and the draw go with it (R225). -/
def pkWipe (s : Hw) (u : Nat) : Hw :=
  s.modPku u fun v => { v with
    phase := .burnish, mem := [], keyLen := 0, layout := [], plan := [], outputs := [], rand := [] }

/-- The operation that a unit computes in one of its halves (R223). -/
def PkUnit.pkIn (v : PkUnit) (half : Bool) : PkIn :=
  { op := v.op, words := v.words, key := v.key half, args := v.operands half, rand := v.rand }

/-- The unit computes: decoded polynomials lie one after the other from the start of A.W (R220, log 143). -/
def PkUnit.begin (v : PkUnit) : PkUnit :=
  { v with phase := .compute, mem := mwrite v.mem opWork ((latticePolys (v.pkIn false)).flatMap polyBytes) }

/-- The actual cost of a unit's work in units of 65,536 pk_clk: nothing before its computation began, else its fixed count up
to where it has come (R208, log 144). -/
def pkSpent (s : Hw) (v : PkUnit) (whole : Bool) : Nat :=
  if v.phase != .compute && v.phase != .write then 0
  else
    let full := pkCount v.op.toNat v.words v.msg (pkAnswer (v.pkIn false)).2.1
    ceilDiv (if whole then full else min full (Config.pkCycles (s.clk.core - v.since))) 65536

/-- The credit of ML-DSA signing is corrected by the difference from its actual cost (R208). -/
def pkCorrect (s : Hw) (u : Nat) (whole : Bool) : Hw :=
  let v := s.pkUnit u
  if pkDsaSign v.op.toNat && v.cost != 0 then pkCredit s (u / 2) v.domain.toNat (v.cost - pkSpent s v whole) else s

/-- The unit ends its work: it counts the job and burnishes (R210, R225). -/
def pkBurnish (s : Hw) (u : Nat) (st : BitVec 8) : Hw :=
  (pkWipe s u).modPku u fun v => { v with
    jobs := satInc v.jobs
    pass := if pkVerify v.op.toNat && st = stOk then satInc v.pass else v.pass
    fail := if st = stVerifyFail then satInc v.fail else v.fail
    cntAttempts := satInc v.cntAttempts v.attempts
    rejects := if st = stInputRange || st = stPointInvalid || st = stZeroResult then satInc v.rejects else v.rejects }

/-- A unit is free again: what it held is over, and the cycles in which it held a job count (R210). -/
def PkUnit.released (v : PkUnit) (now : Nat) : PkUnit := { v with
  phase := .free, work := none, held := false, killed := false, refused := false, status := 0, port := none, epoch := 0
  domain := 0, op := 0, words := 0, attempts := 0, cost := 0, since := 0, fetchOut := 0, writeOut := 0, msg := 0
  busyClk := if v.held then satInc v.busyClk (Config.pkCycles (now - v.since)) else v.busyClk }

/-- Add ML-DSA attempts to a context's record (R57). -/
def addAttempts (s : Hw) (c n : Nat) : Hw := s.modCtx c fun x => { x with attempts := satInc x.attempts n }

/-- A part of an attestation has its bytes: the statement goes on, or is written over the range and the job ends
(R247). -/
def kattPart (s : Hw) (key part : Nat) (b : Bytes) : Hw :=
  match s.job key with
  | none => s
  | some j =>
    match part with
    | 0 =>
      s.setJob key { j with
        data := kattHead s (j.data.take 0x80) (sha384 b), parts := j.partsNext, partsLeft := j.partsNext.length
        partsNext := [], since := s.clk.core }
    | _ =>
      let off := if part = 1 then 0xE0 else 0x140
      let data := j.data.take off ++ b ++ j.data.drop (off + b.length)
      let s := s.setJob key { j with data := data, partsLeft := j.partsLeft - 1 }
      if j.partsLeft ≤ 1 then
        match j.op with
        | .katt _ r => note (finish (rgWrite s (key / 16) r data) key stOk 3629) 0x81 6
        | _ => s
      else s

/-- The units that work on other parts of an attestation discard them. -/
def kattDrop (s : Hw) (key : Nat) : Hw :=
  { s with pku := s.pku.map fun e =>
    match e.2.work with
    | some (.katt k _) => if k = key then (e.1, { e.2 with killed := true }) else e
    | _ => e }

/-- A part of an update's public-key work has ended: what it gave is kept for the stage that waits for it (R268). -/
def innerPart (s : Hw) (id part mark : Nat) (st : BitVec 8) (outs : List Bytes) : Hw :=
  { s with keys := { s.keys with updates := s.keys.updates.map fun u =>
    if u.id = id && u.seq = mark && u.partsLeft != 0 then
      { u with partsLeft := u.partsLeft - 1, results := tput part (st, outs) u.results }
    else u } }

/-- A unit's work ends with a status (R201, R206, R224): the ticket completes unless the result is discarded, the credit of
ML-DSA signing is corrected, and the unit burnishes. -/
def pkEnd (s : Hw) (u : Nat) (st : BitVec 8) : Hw :=
  let v := s.pkUnit u
  let s := pkCorrect s u true
  let s := if v.killed then s
    else match v.work with
      | some (.job key) =>
        let s := addAttempts s (key / 16) v.attempts
        finish s key st (if pkDsaSign v.op.toNat then BitVec.ofNat 64 v.attempts else 0)
      | some (.katt key part) =>
        let s := addAttempts s (key / 16) v.attempts
        if st = stOk then kattPart s key part ((v.outputs.map (·.2)).flatten)
        else kattDrop (finishFree s key st) key
      | some (.inner id part mark) => innerPart s id part mark st (v.outputs.map (·.2))
      | _ => s
  pkBurnish s u st

/-! ### Fetch (R221) -/

/-- The configuration set that a unit's work follows: that of its request's epoch. A segment of a curve check whose request
was withdrawn can outlast its epoch, whose drain does not wait for it (R229, R317): its record fetch is then checked in the
set that is not active, DESIGN CHOICE (log 145). -/
def pkCfg (s : Hw) (v : PkUnit) : CfgSet := s.setOf v.epoch

/-- A string of system memory lies in windows of a unit's domain (R26, R221). -/
def pkAllowed (s : Hw) (v : PkUnit) (addr n : Nat) (write : Bool) : Bool :=
  (piecesOf addr n).all fun p => (winCheck (pkCfg s v) v.domain.toNat p.1 write).isSome

/-- Operands to be fetched, as address and length, the curve record first (R221). -/
def pkSources (b : Block) : List (Nat × Nat) :=
  (if pkLoaded (kbOp b) then [((kbCurve b).toNat, 64 + 48 * kbWords b)] else []) ++
    (pkIns (kbOp b) (kbWords b) (kbMsg b) (kbKeyed b)).map fun i => ((kbIn b i.1).toNat, i.2)

/-- The transactions of a fetch. -/
def pkPlan (l : List (Nat × Nat)) : List FetchPart :=
  (l.mapIdx fun i a => (cutsOf a.1 a.2).map fun c => (⟨i, c.1, a.1 + c.1, c.2⟩ : FetchPart)).flatten

/-- Issue the fetch transactions that have room at the unit's port; a refused piece ends the fetch (R221). -/
def pkFetchIssue : Nat → Hw → Nat → Hw
  | 0, s, _ => s
  | f + 1, s, u =>
    let v := s.pkUnit u
    match v.plan, v.port with
    | part :: rest, some p =>
      match winCheck (pkCfg s v) v.domain.toNat part.addr false with
      | none => note (s.modPku u fun v => { v with refused := true, status := stWindowFault, plan := [] }) (pkuUnit u) 0x20
      | some attr =>
        match mmIssue s p false part.addr part.len [] v.domain.toNat attr (.operand u v.turn part.input part.off) with
        | none => s
        | some s' => pkFetchIssue f (s'.modPku u fun v => { v with plan := rest, fetchOut := v.fetchOut + 1 }) u
    | _, _ => s

/-- The unit's job returns to the queue, its charge refunded, and the unit burnishes (R228). -/
def pkReturn (s : Hw) (u : Nat) (print : Bytes) : Hw :=
  let v := s.pkUnit u
  let s := pkCredit s (u / 2) v.domain.toNat v.cost
  match v.work with
  | some (.job key) =>
    match s.job key with
    | some j => if v.killed then s else s.setJob key { j with phase := .queued, data := print }
    | none => s
  | _ => s

/-- Add an entry to a curve table; it replaces the least recently used one that is not CHECKING (R228). -/
def curveAdd (l : List CurveEntry) (e : CurveEntry) : List CurveEntry :=
  if l.length < 16 then l ++ [e]
  else match leastBy (·.used) (l.filter fun c => c.st != .checking) with
    | some old => (l.filter fun c => c.id != old.id) ++ [e]
    | none => l

/-- The mark of a new use of a curve table. -/
def curveUse (l : List CurveEntry) : Nat := l.foldl (fun m e => max m (e.used + 1)) 0

/-- Change one entry of a bench's curve table. -/
def modCurve (s : Hw) (b id : Nat) (f : CurveEntry → CurveEntry) : Hw :=
  s.modPkb b fun p => { p with curves := p.curves.map fun e => if e.id = id then f e else e }

/-- The record of a loaded-curve job has been fetched and fingerprinted: the look-up of R228. A job without an entry
begins the sanity check in its place (R229). -/
def curveLookup (s : Hw) (u : Nat) : Hw :=
  let v := s.pkUnit u
  let b := u / 2
  let record := (v.operands false).headD []
  let print := curvePrint record
  let curves := (s.pkb' b).curves
  match curves.find? fun e => e.domain = v.domain && e.fingerprint = print with
  | some e =>
    match e.st with
    | .accepted =>
      let s := modCurve s b e.id fun e => { e with used := curveUse curves }
      s.modPku u fun v => { v with phase := .compute }
    | .rejected => pkEnd s u stCurveRejected
    | .checking => pkWipe (pkReturn s u print) u
  | none =>
    let entry : CurveEntry :=
      { id := s.jobSeq, domain := v.domain, fingerprint := print, st := .rejected
        addr := match v.work with
          | some (.job key) => (match s.job key with | some j => (match j.op with | .pk k => (kbCurve k).toNat | _ => 0) | none => 0)
          | _ => 0
        job := match v.work with
          | some (.job key) => (key, match s.job key with | some j => j.issued | none => 0)
          | _ => (0, 0)
        epoch := v.epoch, words := v.words, segment := 0, taken := false, seq := s.jobSeq, since := s.clk.core, pass := true
        used := curveUse curves }
    if curves.length = 16 && curves.all (fun e => e.st = .checking) then pkWipe (pkReturn s u print) u
    else
      let s := { s with jobSeq := s.jobSeq + 1 }
      if !curveShapeOk record v.words then
        pkEnd (note (s.modPkb b fun p => { p with curves := curveAdd p.curves entry }) (pkuUnit u) 0x29) u stCurveRejected
      else
        let s := s.modPkb b fun p => { p with curves := curveAdd p.curves { entry with st := .checking, taken := true } }
        let s := pkReturn s u print
        let cost := ceilDiv (segmentCount v.words) 65536
        let s := pkCredit s b v.domain.toNat (-cost)
        s.modPku u fun v => { v with work := some (.segment b entry.id), phase := .compute, op := 0, cost := cost, killed := false }

/-- The job whose place a curve check takes completes CURVE_REJECTED, if it still waits (R229). -/
def curveJobEnds (s : Hw) (e : CurveEntry) : Hw :=
  match s.job e.job.1 with
  | some j => if j.phase = .queued && j.issued = e.job.2 && j.data = e.fingerprint then finish s e.job.1 stCurveRejected 0 else s
  | none => s

/-- A segment's record differs from its entry, or cannot be read: the entry is REJECTED at once (R229). -/
def curveReject (s : Hw) (u b id : Nat) : Hw :=
  pkBurnish (note (modCurve s b id fun e => { e with st := .rejected, taken := false }) (pkuUnit u) 0x29) u stCurveRejected

/-- Every operand has arrived, or the fetch was refused (R221): the unit computes, or its work ends. -/
def pkFetched (s : Hw) (u : Nat) : Hw :=
  let v := s.pkUnit u
  if v.phase != .fetch || v.fetchOut != 0 || !(v.plan.isEmpty || v.refused) then s
  else if v.refused then
    match v.work with
    | some (.segment b id) => curveReject s u b id
    | _ => pkEnd s u v.status
  else
    match v.work with
    | some (.segment b id) =>
      match (s.pkb' b).curves.find? fun e => e.id = id with
      | some e =>
        if curvePrint ((v.operands false).headD []) = e.fingerprint then s.modPku u fun v => { v with phase := .compute }
        else curveJobEnds (curveReject s u b id) e
      | none => pkBurnish s u stOk
    | _ => if pkLoaded v.op.toNat then curveLookup s u else s.modPku u PkUnit.begin

/-- A fetch transaction of a unit ends: its bytes land in operand memory, or the job ends (R221, R433). One of a work that
the unit has given up changes nothing. -/
def operandDone (s : Hw) (u turn input off : Nat) (data : Bytes) (err : Option (BitVec 8)) : Hw :=
  if (s.pkUnit u).turn != turn || (s.pkUnit u).phase != .fetch then s
  else
    let s := s.modPku u fun v => { v with
      fetchOut := v.fetchOut - 1
      mem := match err, v.layout[input]? with | none, some p => opPut v.mem (p.1 + off) data | _, _ => v.mem
      refused := v.refused || err.isSome
      status := match err with | some st => (if v.refused then v.status else st) | none => v.status
      plan := if err.isSome then [] else v.plan }
    pkFetched (pkFetchIssue (s.pkUnit u).plan.length s u) u

/-- The unit begins to fetch a list of operands through a port (R221, R434). -/
def pkFetchStart (s : Hw) (u : Nat) (l : List (Nat × Nat)) : Hw :=
  let v := s.pkUnit u
  let s := s.modPku u fun v => { v with layout := opLayout (pkMessage v.op.toNat) (l.map (·.2)), plan := pkPlan l }
  match mmBind s with
  | none =>
    match v.work with
    | some (.segment b id) => curveReject s u b id
    | _ => pkEnd s u stEngineFenced
  | some p =>
    let s := (mmChose s p).modPku u fun v => { v with port := some p }
    pkFetched (pkFetchIssue (s.pkUnit u).plan.length s u) u

/-! ### Taking work (R207, R221) -/

/-- The queue wait of an item, in units of 64 pk_clk (R360). -/
def pkWait (s : Hw) (b since : Nat) : Hw := histBump s (0x20 + b) (logBucket (Config.pkCycles (s.clk.core - since) / 64))

/-- A unit as it takes work. -/
def PkUnit.taking (v : PkUnit) (s : Hw) (w : PkWork) (d : Nat) (epoch : BitVec 16) (op words msg cost : Nat) : PkUnit :=
  { v with
    phase := .fetch, work := some w, turn := v.turn + 1, held := true, domain := BitVec.ofNat 12 d, epoch := epoch, op := BitVec.ofNat 16 op, words := words
    mem := [], keyLen := 0, layout := [], plan := [], fetchOut := 0, port := none, outputs := [], writeOut := 0, rand := []
    status := 0, attempts := 0, refused := false, killed := false, msg := msg, cost := cost, since := s.clk.core }

/-- The bytes that an operation draws (R195). -/
def pkDrawLen (op w : Nat) : Nat :=
  match pkFam op with
  | some (.ec, d) | some (.loaded, d) => if d = 1 then 48 else 8 * w
  | some (.x448, _) => 56
  | _ => 32

/-- The draw that an operation makes, if it makes one (R195). -/
def pkDraw (s : Hw) (op w : Nat) : Bytes × Hw := if pkDraws op then drbgBytes s (pkDrawLen op w) else ([], s)

/-- A program's job is taken (R194, R195, R221): its key copied, its draw made, its results' windows checked. -/
def pkTakeJob (s : Hw) (u key cost : Nat) : Hw :=
  match s.job key with
  | none => s
  | some j =>
    match j.op with
    | .pk b =>
      let c := key / 16
      let d := (s.ctx c).domain
      let s := pkWait s (u / 2) j.since
      let s := s.setJob key { j with phase := .running, data := [] }
      let s := s.modPku u fun v => v.taking s (.job key) d (s.ctx c).epoch (kbOp b) (kbWords b) (kbMsg b) cost
      match (if kbKeyed b then keyCheck s (s.cfgOf c) d (pbSlot b).toNat (pkAsk b) else none) with
      | some st => pkEnd (keyRefused s) u st
      | none =>
        let s := s.modPku u fun v => v.takeKey (if kbKeyed b then (s.slot (pbSlot b).toNat).key else [])
        if pkDraws (kbOp b) && !drbgServes s then pkEnd s u stEntropyFail
        else
          let (n, s) := pkDraw s (kbOp b) (kbWords b)
          let s := s.modPku u fun v => { v with rand := n }
          if (pkOuts (kbOp b) (kbWords b)).all fun o => pkAllowed s (s.pkUnit u) (kbOut b o.1).toNat o.2 true then
            pkFetchStart s u (pkSources b)
          else pkEnd (note s (pkuUnit u) 0x20) u stWindowFault
    | _ => s

/-- Work whose operands lie in the key store is taken: a unit computes it at once, on a draw of n bytes where n is not 0. -/
def pkTakeInside (s : Hw) (u op n : Nat) (key : Bytes) (args : List Bytes) : Hw :=
  if n != 0 && !drbgServes s then pkEnd s u stEntropyFail
  else
    let (n, s) := if n = 0 then ([], s) else drbgBytes s n
    s.modPku u fun v => { (v.takeKey key).takeOperands (pkMessage op) args with rand := n }.begin

/-- A part of an attestation is taken (R247, R250): its operands lie in the key store. -/
def pkTakeKatt (s : Hw) (u key part cost : Nat) : Hw :=
  match s.job key with
  | none => s
  | some j =>
    let c := key / 16
    let a := wordAt j.data 8
    let op := kattOp (fld a 8 8) part
    let w := match part with | 1 => 6 | 2 => 24 | _ => kattWords (fld a 8 8) (fld a 40 9)
    let h := sha384 (j.data.take 0xE0)
    let s := pkWait s (u / 2) j.since
    let s := s.setJob key { j with parts := j.parts.filter fun p => p != part }
    let s := s.modPku u fun v => v.taking s (.katt key part) (s.ctx c).domain (s.ctx c).epoch op
      w 64 cost
    pkTakeInside s u op (if pkDraws op then pkDrawLen op w else 0) (match part with | 1 => identityEcKey s | 2 => identityMlKey s | _ => j.data.drop 0x80)
      (if part = 0 then [] else [h])

/-- A segment of a curve check is taken (R229): its record is fetched again. -/
def pkTakeSegment (s : Hw) (u b id cost : Nat) : Hw :=
  match (s.pkb' b).curves.find? fun e => e.id = id with
  | none => s
  | some e =>
    let s := pkWait s (u / 2) e.since
    let s := modCurve s b id fun e => { e with taken := true }
    let s := s.modPku u fun v => v.taking s (.segment b id) e.domain.toNat e.epoch 0 e.words 0 cost
    pkFetchStart s u [(e.addr, 64 + 48 * e.words)]

/-! ### Results (R222 to R224) -/

/-- Cut a result into transactions. -/
def pkWrites (addr : Nat) (b : Bytes) : List (Nat × Bytes) :=
  (cutsOf addr b.length).map fun c => (addr + c.1, (b.drop c.1).take c.2)

/-- Issue the result writes that have room at the unit's port, in order (R222). -/
def pkWriteIssue : Nat → Hw → Nat → Hw
  | 0, s, _ => s
  | f + 1, s, u =>
    let v := s.pkUnit u
    match v.outputs, v.port, v.work with
    | (addr, b) :: rest, some p, some (.job _) =>
      match mmIssue s p true addr b.length b v.domain.toNat ((winCheck (pkCfg s v) v.domain.toNat addr true).getD 0)
          (.result u v.turn) with
      | none => s
      | some s' => pkWriteIssue f (s'.modPku u fun v => { v with outputs := rest, writeOut := v.writeOut + 1 }) u
    | _, _, _ => s

/-- The port that a unit's writes go to: its own, or another while that one is fenced (R434). -/
def pkRebind (s : Hw) (u : Nat) : Hw :=
  match (s.pkUnit u).port with
  | some p => if mmUsable s p then s else s.modPku u fun v => { v with port := mmBind s }
  | none => s.modPku u fun v => { v with port := mmBind s }

/-- The event of an operation that does not end OK (R211). -/
def pkEvent (op : Nat) (st : BitVec 8) : Option Nat :=
  if st = stVerifyFail then some 1
  else if st = stInputRange || st = stPointInvalid || st = stZeroResult then some 2
  else if st = stEntropyFail then some (if pkDsaSign op then 3 else 4)
  else none

/-- Both halves hold their result in region O (R219). -/
def PkUnit.results (v : PkUnit) (a b : List Bytes) : PkUnit :=
  { v with mem := mwrite (mwrite v.mem opOut a.flatten) (opOut + opHalf) b.flatten }

/-- The results of a unit with the addresses to which a program's job writes them. -/
def pkTargets (s : Hw) (v : PkUnit) (outs : List Bytes) : List (Nat × Bytes) :=
  let places : List Nat := match v.work with
    | some (.job key) => match s.job key with
      | some j => match j.op with
        | .pk b => (pkOuts (kbOp b) (kbWords b)).map fun o => (kbOut b o.1).toNat
        | _ => []
      | none => []
    | _ => outs.map fun _ => 0
  places.zip outs

/-- The compare agrees: the status of the operation stands (R201), its results go out, or the work ends. -/
def pkReleased (s : Hw) (u : Nat) : Hw :=
  let i := (s.pkUnit u).pkIn false
  let (st, tries, results) := pkAnswer i
  let s := s.modPku u fun v => { v.results results results with attempts := tries, status := st }
  let s := match pkEvent i.op.toNat st with | some e => note s (pkuUnit u) e | none => s
  let v := s.pkUnit u
  let outs := pkTargets s v results
  if st != stOk || outs.isEmpty || v.killed then pkEnd s u st
  else
    match v.work with
    | some (.job _) =>
      let s := s.modPku u fun v => { v with phase := .write, outputs := outs.flatMap fun o => pkWrites o.1 o.2 }
      let s := pkRebind s u
      if (s.pkUnit u).port.isNone then pkEnd s u stEngineFenced else pkWriteIssue (s.pkUnit u).outputs.length s u
    | _ => s.modPku u fun v => { v with phase := .write, outputs := outs }

/-- A result write ends; a refused one stops the rest (R222, R433). One of a work that the unit has given up changes
nothing. -/
def resultDone (s : Hw) (u turn : Nat) (err : Option (BitVec 8)) : Hw :=
  if (s.pkUnit u).turn != turn || (s.pkUnit u).phase != .write then s
  else
    let s := s.modPku u fun v => { v with
      writeOut := v.writeOut - 1, refused := v.refused || err.isSome
      status := match err with | some st => (if v.refused then v.status else st) | none => v.status
      outputs := if err.isSome then [] else v.outputs }
    pkWriteIssue (s.pkUnit u).outputs.length s u

/-- The results of a unit are written, or refused: its work ends (R222). -/
def pkWritten (u : Nat) (s : Hw) : Hw :=
  let v := s.pkUnit u
  let inside := match v.work with | some (.job _) => false | _ => true
  if v.phase != .write || v.writeOut != 0 || !(v.outputs.isEmpty || inside) then s
  else if v.refused then
    pkEnd (if v.status = stWindowFault then note s (pkuUnit u) 0x21 else s) u v.status
  else pkEnd s u stOk

/-- A segment whose unit stopped, or whose result is withheld, waits in the queue again (R207, R224, R226). -/
def segmentBack (s : Hw) (v : PkUnit) : Hw :=
  match v.work with
  | some (.segment b id) => modCurve s b id fun e => { e with taken := false }
  | _ => s

/-- A segment ends: its bit is stored, and with segment 7 the entry is ACCEPTED or REJECTED (R229). That of a fenced unit
is withheld. -/
def segmentEnd (u : Nat) (s : Hw) : Hw :=
  let v := s.pkUnit u
  match v.work with
  | some (.segment b id) =>
    if v.phase != .compute then s
    else if s.out (pkuUnit u) then pkBurnish (segmentBack s v) u stEngineFenced
    else match (s.pkb' b).curves.find? fun e => e.id = id with
      | none => pkBurnish s u stOk
      | some e =>
        let ok := e.pass && curveSegmentOk ((v.operands false).headD []) (e.segment + 1)
        let last := e.segment + 1 = 7
        let s := { s with jobSeq := s.jobSeq + 1 }
        let s := modCurve s b id fun e => { e with
          segment := e.segment + 1, pass := ok, taken := false, seq := s.jobSeq, since := s.clk.core
          st := if last then (if ok then .accepted else .rejected) else .checking }
        pkBurnish (if last then note s (pkuUnit u) (if ok then 0x28 else 0x29) else s) u stOk
  | _ => s

/-! ### The microcode image (R212 to R215) -/

/-- The lowest-numbered unit that is not fenced: the one on which a verify routine starts (R215). -/
def ucUnit (s : Hw) : Option Nat := (List.range 16).find? fun u => !s.out (pkuUnit u)

/-- The unit that runs the verify routine: the one it started on, or when that is fenced the next (log 146). -/
def ucRunner (s : Hw) : Option Nat :=
  match s.ucode.unit with
  | some u => if s.out (pkuUnit u) then ucUnit s else some u
  | none => ucUnit s

/-- Log an image event on the unit that runs the verify routine, or ran it last (R230). -/
def ucNote (s : Hw) (e : Nat) : Hw := note s (pkuUnit ((s.ucode.unit.or (ucUnit s)).getD 0)) e

/-- HDR of the image being loaded. -/
def ucHdr (s : Hw) : Word := BitVec.ofNat 64 (leNat (mread s.ucode.fetched 0 8))
/-- BODY_LEN of the image being loaded. -/
def ucBody (s : Hw) : Nat := fld (ucHdr s) 32 32

/-- Checks 1 and 2 of R215, on the first 64 B; the image's length is known only once they pass. -/
def ucHeadOk (s : Hw) : Nat :=
  if fld (ucHdr s) 0 8 != 1 then 1
  else if !(64 ≤ ucBody s && ucBody s ≤ 196608 && ucBody s % 64 = 0 && fld (ucHdr s) 13 3 = 0 &&
      mread s.ucode.fetched 8 56 = zeros 56) then 2
  else 0

/-- The fetch of the image has ended: whole, refused, or with a header that ends the load. -/
def ucFetched (s : Hw) : Bool :=
  s.ucode.fetchOut = 0 && (s.ucode.refused || ucHeadOk s != 0 || s.ucode.fetchNext = 5517 + ucBody s)

/-- Issue the next fetches of the image, each checked against the windows of domain 0 (R214). -/
def ucIssue : Nat → Nat → Hw → Hw
  | 0, _, s => s
  | f + 1, total, s =>
    let c := s.ucode
    if total ≤ c.fetchNext || c.refused then s
    else
      let addr := c.base + c.fetchNext
      let n := min (total - c.fetchNext) (512 - addr % 512)
      let refuse := { s with ucode := { c with refused := true } }
      let port := match c.port with | some p => if mmUsable s p then some p else mmBind s | none => mmBind s
      match winCheck s.active 0 addr false, port with
      | some attr, some p =>
        let s : Hw := { s with ucode := { c with port := some p } }
        match mmIssue s p false addr n [] 0 attr (.ucode c.fetchNext) with
        | none => s
        | some s' => ucIssue f total { s' with ucode := { s'.ucode with fetchNext := c.fetchNext + n, fetchOut := c.fetchOut + 1 } }
      | _, _ => refuse

/-- The fetch of an image goes on: its first 64 B give its length, then the rest of it (R214). -/
def ucGo (s : Hw) : Hw :=
  let c := s.ucode
  if !c.verifying || c.refused then s
  else if c.fetchNext < 64 then ucIssue 1 64 s
  else if c.fetchNext = 64 && c.fetchOut != 0 then s
  else if ucHeadOk s != 0 then s
  else ucIssue 512 (5517 + ucBody s) s

/-- A fetch of the image ends: the next ones go out, or a refused piece ends the load (R214). -/
def ucDone (s : Hw) (off : Nat) (data : Bytes) (err : Bool) : Hw :=
  let c := s.ucode
  ucGo { s with ucode := { c with
    fetched := if err then c.fetched else mwrite c.fetched off data
    fetchOut := c.fetchOut - 1
    refused := c.refused || err } }

/-- The REFUSE code of the image that has been fetched, with its event; none when every check passes (R215). -/
def ucVerify (s : Hw) : Option (Nat × Nat) :=
  let c := s.ucode
  let n := ucBody s
  let img := mread c.fetched 0 (5517 + n)
  let ec := (img.drop (64 + n)).take 96
  let ml := (img.drop (160 + n)).take 1952
  let h := sha384 (img.take (64 + n))
  if c.refused then some (5, 0x15)
  else if ucHeadOk s = 1 then some (1, 0x11)
  else if ucHeadOk s = 2 then some (2, 0x11)
  else if fld (ucHdr s) 8 5 < c.floor.toNat then some (3, 0x14)
  else if sha384 (ec ++ ml) != c.signer || c.signer = zeros 48 then some (4, 0x12)
  else if !bothVerify h ec ml ((img.drop (2112 + n)).take 96) ((img.drop (2208 + n)).take 3309) then some (6, 0x13)
  else none

end Sys2Proof.Machine
end

