-- ==== Sys2Proof/Machine/Fence.lean ====
section
/-! DEFINITION. What an event does beyond its log: the end of a transaction (R433), the fence of a unit with its affected
work (R348, R349), and the entry to Held (R337, R354). -/

namespace Sys2Proof.Machine

/-! ### The end of a transaction -/

/-- A descriptor fetch fails: its entry commits WINDOW_FAULT (R47). -/
def fetchFault (s : Hw) (n : Nat) (k : BitVec 24) : Hw :=
  let s := s.modRing n fun r => { r with fetched := r.fetched.filter fun f => f.k != k }
  readyPut (ringNote s 3 n) (.never (BitVec.ofNat 16 n) k (neverRecord stWindowFault s.seam.epoch 0 false) none none)

/-- A descriptor fetch whose port was lost is issued again on another one (R349), after a check of its own (R26, R47). -/
def refetch (s : Hw) (n : Nat) (k : BitVec 24) : Hw :=
  let id := BitVec.ofNat 16 n
  let addr := fld (ringWord s.active n 8) 12 52 * 4096 + 64 * (k.toNat % 2 ^ ringLog2 s.active n)
  let d := ringDomain s.active n
  match winCheck s.active d addr false, mmBind s with
  | none, _ => fetchFault s n k
  | some attr, some p => match mmIssue s p false addr 64 [] d attr (.fetch id k) with | some s' => mmChose s' p | none => s
  | some _, none => s

/-- Issue again the fetches that have no transaction, and the record writes that wait for a port. -/
def reissueAll (s : Hw) : Hw :=
  let lost := s.rings.flatMap fun e => (e.2.fetched.filter fun f =>
    (f.st = .issued || f.st = .cut) && !s.mm.txns.any fun t => t.owner = .fetch (BitVec.ofNat 16 e.1) f.k).map fun f => (e.1, f.k)
  cplAll (lost.foldl (fun s e => refetch s e.1 e.2) s)

/-- The data of a descriptor fetch has come, which fixes its deadline cycle (R62), or the surroundings refuse it (R47,
R433). -/
def fetchDone (s : Hw) (n : Nat) (k : BitVec 24) (data : Bytes) (err : Bool) : Hw :=
  if err then fetchFault s n k
  else
    let d := blockOf data
    s.modRing n fun r => { r with fetched := r.fetched.map fun f =>
      if f.k != k then f
      else match f.st with
        | .issued => { f with st := .held, desc := d, t0 := s.clk.core, deadline := descDeadline s d s.clk.core }
        | .cut => { f with st := .late, desc := d, t0 := s.clk.core, deadline := descDeadline s d s.clk.core }
        | _ => f }

/-- A segment of a fragment list has come, or its walk ends (R50); transfers that wait for it go on or end. -/
def segmentDone (s : Hw) (c : Nat) (out : Bool) (data : Bytes) (err : Option (BitVec 8)) : Hw :=
  let s := match err with
    | none => segmentArrived s c out data
    | some st => s.modCtx c fun x => setWalk x out { walkOf x out with reading := false, fail := some st }
  ((s.jobsOf c).map (·.1)).foldl xferSettle s

/-- A transaction ends for the one it serves: with its data, or with a status (R433, R434). -/
def txnEnd (s : Hw) (t : Txn) (err : Option (BitVec 8)) : Hw :=
  match t.owner with
  | .piece key n off => pieceDone s key n off t.bytes err
  | .segment c out => segmentDone s c out t.bytes err
  | .fetch n k => if err = some stEngineFenced then s else fetchDone s n.toNat k t.bytes err.isSome
  | .record n k =>
    if err = some stEngineFenced then
      s.modRing n.toNat fun r => { r with writes := r.writes.map fun w => if w.k = k then { w with issued := false } else w }
    else recordWritten s n.toNat k err.isSome
  | .signal key => if (s.job key).isSome then finishFree s key (err.getD stOk) else s
  | .scrub c => scrubWritten s c err.isSome
  | .operand u n i off => operandDone s u n i off t.bytes err
  | .result u n => resultDone s u n err
  | .ucode off => ucDone s off t.bytes err.isSome
  | .receipt id => receiptAcked s id err.isSome
  | .forward link id off => fwdDone s link id off t.bytes err
  | .fwdSegment link id out => fwdSegmentDone s link id out t.bytes err
  | .orphan => s

/-! ### Cipher pairs, digest engines, public-key units (R138, R178, R181, R224) -/

/-- Every stream of a pair that has started, or has a job passed to it, fails with a status (R138, R142). -/
def pairFail (s : Hw) (p : Nat) (st : BitVec 8) : Hw :=
  (liveCtxs s).foldl (fun s c =>
    let mine := (s.ctx c).cstreams.filter fun e =>
      pairOf (benchOf c) e.2.mode.toNat = p && e.2.failed.isNone &&
        (e.2.started || (s.jobsOf c).any fun j => j.2.ofCs e.1 && j.2.phase != .after)
    mine.foldl (fun s e => failCs s c e.1 st (csLead s c e.1)) s) s

/-- Every stream bound to a digest engine, or claiming it, fails (R170, R178, R181). -/
def digFail (s : Hw) (e : Nat) (st : BitVec 8) : Hw :=
  (liveCtxs s).foldl (fun s c =>
    ((s.ctx c).dstreams.filter fun d => d.2.bound && d.2.engines.contains e && d.2.failed.isNone).foldl
      (fun s d => failDs s c d.1 st) s) s

/-- Both units of a bench are out: every queued job completes ENGINE_FENCED (R207). -/
def pkbFail (s : Hw) (b : Nat) : Hw :=
  (s.jobs.filter fun e => benchOf (e.1 / 16) = b).foldl (fun s e =>
    match e.2.op with
    | .pk _ => if e.2.phase = .queued then finish s e.1 stEngineFenced 0 else s
    | .katt _ _ => if e.2.parts.isEmpty then s else kattDrop (finishFree s e.1 stEngineFenced) e.1
    | _ => s) s

/-- A public-key unit stops: its work is dropped, its charge corrected, and it burnishes (R208, R226, R325, R333, R337). -/
def pkStop (s : Hw) (u : Nat) : Hw :=
  if (s.pkUnit u).phase = .free || (s.pkUnit u).phase = .burnish then s
  else
    let s := segmentBack (pkCorrect s u false) (s.pkUnit u)
    pkBurnish (s.modPku u fun v => { v with work := none, killed := true }) u stAborted

/-- All units stop. -/
def pkStopAll (s : Hw) : Hw := (List.range 16).foldl pkStop s

/-! ### Keeper port, unsealer, recorder, census, peer links -/

/-- Every issued keeper write that is not acknowledged lands or not (R351, R356): a free choice. -/
def kpScatter (s : Hw) : Hw :=
  s.kp.out.foldl (fun s w =>
    let (n, s) := drawFree s
    if Config.freeBool n then { s with kp := { s.kp with bytes := mwrite s.kp.bytes w.addr w.data } } else s)
    { s with kp := { s.kp with waiting := [], out := [] } }

/-- Slots not yet restored become EMPTY, and the restore is over (R330, R349): a slot whose counter is still to be taken is
not restored yet (R252). -/
def restoreStops (s : Hw) : Hw :=
  { s with keys := { s.keys with
    slots := s.keys.slots.filter fun e => !slotPending s e.1
    allPending := false, restoring := false, passedTo := 0, passed := [] } }

/-- The reads of bring-up end early (R330): the port is lost, and the stored counters stay incomplete (R275). -/
def bringStops (s : Hw) : Hw :=
  let b := s.mc.bring
  if b.phase = .off || b.phase = .fuses || b.phase = .done then s
  else
    let s := restoreStops s
    { s with mc := { s.mc with
      noKeeper := true
      bring := { b with phase := .done, queue := [], tackWrites := [], pilotSetDone := true, fullSetDone := true
                        fullAt := s.clk.core } } }

/-- The keeper port is fenced (R304, R330, R370): no lease becomes durable, commits before their commit point fail, class 3
and 4 writes are dropped. -/
def keeperFenced (s : Hw) : Hw :=
  let s := kpScatter s
  let s : Hw := { s with
    keys := { s.keys with slots := s.keys.slots.map fun e => (e.1, { e.2 with req := false }) }
    kp := { s.kp with reads := [], imageTo := none, imagePtr := false, imageSet := [], imageNext := false, formatting := false } }
  let early := s.keys.updates.filter fun u => u.stage = .writing
  let s := early.foldl (fun s u => updRefuse s u stEngineFenced 2) s
  let s := if s.recd.pendingTomb then tombLost s else recStop s 3
  bringStops s

/-- The census ends without completing (R379). -/
def cenEnd (s : Hw) : Hw := { s with cen := { s.cen with busy := false, awaiting := 0 } }

/-- The offsets of a unit's counters (R375). -/
def unitCounters (u : Nat) : List Nat :=
  let off := u % 16
  let b := u / 16
  [0x4028 + 0x40 * u] ++
    (if u < 0x80 then
      if off ≤ 1 then (List.range 4).map fun i => 0x20000 + 0x1000 * (8 * off + b) + 0x18 + 8 * i
      else if off ≤ 5 then (List.range 3).map fun i => 0x30000 + 0x400 * (4 * b + off - 2) + 0x08 + 8 * i
      else if off = 6 then (List.range 3).map fun i => 0x38000 + 0x1000 * b + 0x08 + 8 * i
      else if off ≤ 8 then (List.range 5).map fun i => 0x40000 + 0x1000 * (2 * b + off - 7) + 0x08 + 8 * i
      else []
    else if 0x90 ≤ u && u ≤ 0xAF then [0x60010 + 0x100 * (u - 0x90)]
    else if 0xB0 ≤ u && u ≤ 0xB7 then [0xB040 + 8 * (u - 0xB0)]
    else if u = 0x82 then [0xA020]
    else [])

/-- Latch one counter into its shadow (R375). -/
def cenLatch (s : Hw) (off : Nat) : Hw :=
  if s.cen.latched.contains off then s
  else { s with cen := { s.cen with
    latched := s.cen.latched ++ [off], shadows := tset 0 s.cen.shadows off (readReg s .ctla off) } }

/-- A fence while the census runs latches the unit's counters at once (R379). -/
def cenFence (s : Hw) (u : Nat) : Hw := if s.cen.busy then ((unitCounters u).filter isCounter).foldl cenLatch s else s

/-- The pair END of every slot, in leases (R422). -/
def pairEnds (s : Hw) : Table Nat :=
  (s.keys.slots.filterMap fun e =>
    if slotCounted e.2 then some (e.1, e.2.endLease / leaseSize e.2.alg.toNat) else none).filter fun e => e.2 != 0

/-- The mirror state follows the pairing of the active set: JOINING when one is there, NONE when none is (R420). -/
def mirrorEnter (s : Hw) : Hw :=
  if (mirrorPartner s).isNone then { s with hns := { s.hns with mirror := .none, k0 := [] } }
  else if s.hns.mirror = .none then { s with hns := { s.hns with mirror := .joining, k0 := pairEnds s, heartbeatAt := s.clk.aon } }
  else s

/-- Charges and updates that wait for the partner end MIRROR_LOST, and no lease is asked of it any more (R151, R278, R425). -/
def partnerWaits (s : Hw) : Hw :=
  let s := s.keys.charges.foldl (fun s w => chargeFail s w.key stMirrorLost) s
  let s := (s.keys.updates.filter fun u => u.stage = .partner).foldl (fun s u => updRefuse s u stMirrorLost 0xE) s
  { s with keys := { s.keys with slots := s.keys.slots.map fun e => (e.1, { e.2 with req := false }) } }

/-- The partner is lost: ALONE (R425). What waits for it ends; a block in JOINING waits for its own keeper alone (R422). -/
def enterAlone (s : Hw) : Hw :=
  if s.hns.mirror != .mirrored && s.hns.mirror != .joining then s
  else
    let was := s.hns.mirror
    let s := { s with hns := { s.hns with mirror := .alone, losses := satInc s.hns.losses, k0 := pairEnds s } }
    note (if was = .mirrored then partnerWaits s else s) 0xB7 4

/-- The work that depended on a link ends (R409, R419, R425), a ceremony over it too (log 51). -/
def linkWork (s : Hw) (k : Nat) : Hw :=
  let s := match s.hns.ceremony with
    | some (_, a, _) => if apLink s a = k then ceremonyEnd s stKeyDenied 3 else s
    | none => s
  let (mine, rest) := s.hns.forwards.partition fun f => f.link = k
  let s := { s with hns := { s.hns with
    forwards := rest, arrivals := s.hns.arrivals.filter (fun a => a.link.toNat != k)
    outbox := s.hns.outbox.filter fun m => m.1 != k } }
  let s := mine.foldl (fun s f =>
    let s := s.modRing f.ring.toNat fun r => { r with inFlight := r.inFlight - 1 }
    readyPut s (.never f.ring f.req.k { neverRecord stEngineFenced f.req.epoch (descTag f.req.desc) (descFlag f.req.desc 1) with
      flags := 0x20 } f.req.deadline (some (f.req.admittedAt, reqMask s f.req)))) s
  withdrawAll s (fun c => match (s.ctx c).req with
    | some q => (match q.fromPeer with | some (l, _) => l.toNat = k | none => false)
    | none => false) stEngineFenced

/-- A link goes to DOWN or FAILED: every flit in its buffers is lost (R409); a mirror link that FAILS loses the partner
(R425). -/
def linkLost (s : Hw) (k : Nat) (st : LinkState) : Hw :=
  let up := (s.link k).st = .up
  let s := s.modLink k fun l =>
    { l with st := st, sentSeen := false, waits := false, retry := false, fresh := false, exchange := none, txSeq := 0, rxSeq := 0, buffer := [], streak := 0 }
  let s := if up then linkWork s k else s
  if k = 7 && st = .failed then enterAlone s else s

/-! ### Fences (R348, R349) -/

/-- A fenced public-key unit releases nothing further: beats of a result that are not issued stay unwritten (R222, R348). -/
def pkWithhold (s : Hw) (u : Nat) : Hw :=
  s.modPku u fun v =>
    if v.phase = .write then { v with
      outputs := [], status := if v.refused then v.status else stEngineFenced, refused := true }
    else v

/-- The affected work of an engine or an awl of a bench. -/
def benchFenced (s : Hw) (b off : Nat) : Hw :=
  if off ≤ 1 then pairFail s (8 * off + b) stEngineFenced
  else if off ≤ 5 then digFail s (4 * b + off - 2) stEngineFenced
  else if off = 6 then digFail s (32 + b) stEngineFenced
  else if off ≤ 8 then
    let s := updFenced (if s.out (benchUnit b off) then pkWithhold s (2 * b + off - 7) else s) (2 * b + off - 7)
    if pkBenchServes s b then s else pkbFail s b
  else if off ≤ 12 then withdrawAll s (fun c => awlOf c = 4 * b + off - 9) stEngineFenced
  else s

/-- A bench router is fenced: all the bench's work ends ENGINE_FENCED (R349). -/
def routerFenced (s : Hw) (b : Nat) : Hw :=
  let s := (List.range 9).foldl (fun s off => benchFenced s b off) s
  let ctxs := (liveCtxs s).filter fun c => benchOf c = b
  ctxs.foldl (fun s c => endJobs (killPku s c) c (fun j => match j.op with | .kint _ | .ciph _ => false | _ => true) stEngineFenced) s

/-- A memory master port is fenced: what is outstanding on it ends ENGINE_FENCED or is issued again (R349, R434). Its
transactions stay outstanding until they are answered or timed out, and serve nothing any more. -/
def mmFenced (s : Hw) (p : Nat) : Hw :=
  let mine := s.mm.txns.filter fun t => t.port = p
  let s := { s with mm := { s.mm with txns := s.mm.txns.map fun t => if t.port = p then { t with owner := .orphan } else t } }
  ucGo (reissueAll (mine.foldl (fun s t => txnEnd s t (some stEngineFenced)) s))

/-- The entropy source is fenced: a pair whose generator stands at its deadline fails (R142). -/
def entropyFenced (s : Hw) : Hw :=
  let s := { s with sec := { s.sec with entHealthy := false } }
  (List.range 8).foldl (fun s p =>
    let v := s.pair p
    if reseedStop ≤ v.workerOut || reseedStop ≤ v.checkerOut then
      pairFail (s.modPair p fun v => { v with entStop := true }) p stEntropyFail
    else s) s

/-- The work that a unit's fence affects (R349). -/
def fenceWork (s : Hw) (u : Nat) : Hw :=
  if u < 0x80 then (if u % 16 = 13 then routerFenced s (u / 16) else benchFenced s (u / 16) (u % 16))
  else if u = 0x82 then keeperFenced s
  else if u = 0x84 then entropyFenced s
  else if u = 0x87 then (if s.keys.restoring then restoreStops s else s)
  else if u = 0x88 then recStop s 1
  else if u = 0x89 then cenEnd s
  else if 0x90 ≤ u && u ≤ 0xAF then mmFenced s (u - 0x90)
  else if 0xB0 ≤ u && u ≤ 0xB7 then linkLost s (u - 0xB0) .failed
  else if u = 0xC0 then ctlReleases s .ctla
  else if u = 0xC1 then ctlReleases s .ctlb
  else s

/-- The mode changes: event 0x01 (R323, R338). -/
def setMode (s : Hw) (m : Mode) : Hw :=
  if s.mc.mode = m then s else note { s with mc := { s.mc with mode := m } } 0x8B 1

/-- A fence has lifted: with the last one, Degraded gives way to Full (R350). -/
def fenceOver (s : Hw) : Hw := if s.mc.mode = .degraded && s.fencedCount = 0 then setMode s .full else s

/-- A unit is fenced (R348): FENCES counts, its work ends, and Full becomes Degraded. -/
def fenceUnit (s : Hw) (u : Nat) : Hw :=
  let s := cenFence (s.modBlk u fun b => { b with fenced := true, fences := satInc b.fences }) u
  let s := fenceWork s u
  if s.mc.mode = .full then setMode s .degraded else s

/-! ### Held -/

/-- Factory Test is left: CHECK_DIS is cleared and the injection registers become inert (R139, R326, R359). -/
def leaveFtest (s : Hw) : Hw :=
  if s.mc.mode != .ftest then s
  else { s with
    pairs := (s.pairs.map fun e => (e.1, { e.2 with cfg := e.2.cfg &&& ~~~1#64 })).filter fun e => e.2 != {}
    flt := (s.flt.map fun e => (e.1, { e.2 with inj := 0, flip := false })).filter fun e => e.2 != {} }

/-- Every request ends without a record, and nothing fetched is admitted (R333, R337). -/
def endAllWork (s : Hw) : Hw :=
  let s := (liveCtxs s).foldl endWithoutRecord s
  let s := pkStopAll s
  { s with
    rm := { s.rm with ready := [] }
    hns := { s.hns with forwards := [], arrivals := [] } }

/-- Held is entered in the core clock of a fatal event (R337, R354, R356). -/
def enterHeld (s : Hw) : Hw :=
  if s.mc.mode = .held then s
  else
    let s := cenEnd (endAllWork (leaveFtest s))
    let s := breakCinch s 4
    note (setMode { s with mc := { s.mc with draining := false }, kp := { s.kp with waiting := [] } } .held) 0x8B 7

/-! ### Raising an event -/

/-- A bit that KIND 2 has flipped in a unit is met by its detector: the bit, and the state without it (R359). -/
def takeFlip (s : Hw) (u : Nat) : Bool × Hw := ((s.blk u).flip, s.modBlk u fun b => { b with flip := false })

/-- Raise an event of a unit: its log, its fence, its Held (R341, R348, R350, R356). -/
def raise (s : Hw) (u e : Nat) (data : BitVec 16 := 0) : Hw :=
  match eventRow s u e with
  | none => s
  | some row =>
    let s := logRow s u e data row
    if row.cls = 3 then enterHeld s
    else if row.fence then
      if s.fenced u then
        if (s.blk u).rstBusy then s.modBlk u fun b => { b with rstBusy := false, fences := satInc b.fences } else s
      else fenceUnit s u
    else s

end Sys2Proof.Machine
end

