-- ==== Sys2Proof/Machine/TrapQueue.lean ====
section
/-! DEFINITION. The trap queue's commands (R90 to R94): the claim of a record, the program-counter slot, the four resume
actions and the trap deadline. -/

namespace Sys2Proof.Machine

/-- The other control port. -/
def otherPort (p : CtlPort) : CtlPort := match p with | .ctla => .ctlb | .ctlb => .ctla

/-- A CLAIM write of one port (R90): WDRAWN clears, and the oldest unclaimed record is claimed unless the port holds one. -/
def claimOne (p : CtlPort) (s : Hw) : Hw :=
  let s : Hw := { s with trapq := match p with
    | .ctla => { s.trapq with wdrawnA := false }
    | .ctlb => { s.trapq with wdrawnB := false } }
  match s.claim p, s.trapq.queue with
  | none, r :: rest => ({ s with trapq := { s.trapq with queue := rest } } : Hw).setClaim p (some r)
  | _, _ => s

/-- CLAIM writes of both ports in one core clock: the port that did not win the previous tie goes first. It is a tie only
when both claim. -/
def claimBoth (s : Hw) : Hw :=
  let first := otherPort s.trapq.lastTie
  let tie := s.trapq.claimA.isNone && s.trapq.claimB.isNone && !s.trapq.queue.isEmpty
  let s := openWrite (openWrite s first (claimOne first)) (otherPort first) (claimOne (otherPort first))
  if tie then { s with trapq := { s.trapq with lastTie := first } } else s

/-- TRAPQ_CLAIM (R90). -/
def execTrapqClaim (port : CtlPort) (both : Bool) (s : State) : Host.Outcome State Fault Refusal :=
  if both then s.work claimBoth else s.opened port (claimOne port)

/-- A resume by a port that holds a claim: the claim is released, and the context goes on from what the action makes of
it. The record carries TRAPPED (R91). -/
def resumeWith (p : CtlPort) (f : TrapRecord → Ctx → Ctx) (s : Hw) : Hw :=
  match s.claim p with
  | none => s
  | some k => (s.setClaim p none).modCtx k.ctx fun x => { f k x with st := .ready, hold := .none, emulated := true }

/-- The iterations that an emulator's action retires, n of them; a divide that trapped has retired already (R70, R88). -/
def retireTrapped (k : TrapRecord) (n : Nat) (x : Ctx) : Ctx := retire x (if k.cls = 3 then n - 1 else n)

/-- ADVANCE counts the trapping iteration as done; a written program counter ends the repeat (R91). -/
def advanceCtx (k : TrapRecord) (x : Ctx) : Ctx :=
  let y := stepPast (retireTrapped k 1 x) k.lcWritten
  match k.nextPc with
  | some v => { y with rep := none, pc := v }
  | none => y

/-- FINISH counts every remaining iteration as done and leaves LC (R91). -/
def finishCtx (k : TrapRecord) (x : Ctx) : Ctx :=
  let n := match x.rep with | some r => r.remain.toNat | none => 1
  { retireTrapped k n x with rep := none, pc := match k.nextPc with | some v => v | none => x.pc + 4 }

/-- ADVANCE (R91). -/
def execAdvance (port : CtlPort) (s : State) : Host.Outcome State Fault Refusal := s.opened port (resumeWith port advanceCtx)

/-- FINISH (R91). -/
def execFinish (port : CtlPort) (s : State) : Host.Outcome State Fault Refusal := s.opened port (resumeWith port finishCtx)

/-- RETRY (R91): the trapping instruction issues again, its repeat as it stood. -/
def execRetry (port : CtlPort) (s : State) : Host.Outcome State Fault Refusal :=
  s.opened port (resumeWith port fun _ x => x)

/-- ABORT ends the request TRAP_UNHANDLED (R91). -/
def abortClaim (p : CtlPort) (s : Hw) : Hw :=
  match s.claim p with
  | none => s
  | some k => withdraw (s.setClaim p none) k.ctx stTrapUnhandled

/-- ABORT (R91). -/
def execAbort (port : CtlPort) (s : State) : Host.Outcome State Fault Refusal := s.opened port (abortClaim port)

/-- A write of the program-counter slot while the port holds a claim; bits [1:0] are ignored (R90). -/
def slotWrite (p : CtlPort) (pc : Word) (s : Hw) : Hw :=
  match s.claim p with
  | none => s
  | some k => s.setClaim p (some { k with nextPc := some (pc &&& ~~~3#64) })

/-- TRAPQ_PC_WRITE (R90). -/
def execTrapqPcWrite (port : CtlPort) (pc : Word) (s : State) : Host.Outcome State Fault Refusal :=
  s.opened port (slotWrite port pc)

/-- The trap record of a context, claimed or not. -/
def trapOf (s : Hw) (c : Nat) : Option TrapRecord :=
  (s.trapq.claimA.toList ++ s.trapq.claimB.toList ++ s.trapq.queue).find? fun r => r.ctx = c

/-- A trap leaves the queue and both claims. -/
def forgetTrap (s : Hw) (c : Nat) : Hw :=
  let keep := fun (k : Option TrapRecord) => k.filter fun v => v.ctx != c
  { s with trapq := { s.trapq with
    queue := s.trapq.queue.filter fun r => r.ctx != c, claimA := keep s.trapq.claimA, claimB := keep s.trapq.claimB } }

/-- A trap deadline passes with no resume: EXPIRED counts, and the request is withdrawn TRAP_UNHANDLED (R92). -/
def trapExpiry (c : Nat) (s : Hw) : Hw :=
  match trapOf s c with
  | none => s
  | some r =>
    let s := forgetTrap (advanceTo s r.deadline) c
    let s := { s with trapq := { s.trapq with expired := satInc s.trapq.expired } }
    withdraw (note s (awlUnit (awlOf c)) 3) c stTrapUnhandled

/-- TRAP_DEADLINE_EXPIRY (R92). -/
def execTrapDeadlineExpiry (c : BitVec 9) (s : State) : Host.Outcome State Fault Refusal := s.work (trapExpiry c.toNat)

end Sys2Proof.Machine
end

