-- ==== Sys2Proof/Machine/Seam.lean ====
section
/-! DEFINITION. The cinch's commands (R308 to R312), the writes of the shadow set (R313, R314), the seam (R315 to R320, R423)
and the configuration image in the keeper (R300, R301). -/

namespace Sys2Proof.Machine

/-! ### The cinch -/

/-- CINCH_LEASE.MS as it acts: 0 is 1, above 10,000 is 10,000. -/
def leaseMs (s : Hw) : Nat := max 1 (min 10000 (fld s.cinch.lease 0 14))

/-- The aon_clk period at which a lease that starts now ends (R309). -/
def leaseFrom (s : Hw) : Nat := s.clk.aon + 1 + ceilDiv (leaseMs s * 32768) 1000

/-- A ticket read that finds the cinch free acquires it (R308). -/
def cinchAcquire (p : CtlPort) (s : Hw) : Hw :=
  if s.cinch.owner.isSome then s
  else { s with cinch := { s.cinch with owner := some p, gen := s.cinch.gen + 1, note := 0, leaseEnd := leaseFrom s } }

/-- Ticket reads of both ports in one core clock: with the cinch free, the port that did not win the previous tie
acquires (R308). -/
def ticketBoth (s : Hw) : Hw :=
  let first := otherPort s.cinch.lastTie
  let tie := s.cinch.owner.isNone && ctlServes s .ctla && ctlServes s .ctlb
  let s := openWrite (openWrite s first (cinchAcquire first)) (otherPort first) (cinchAcquire (otherPort first))
  if tie then { s with cinch := { s.cinch with lastTie := first } } else s

/-- CINCH_TICKET_READ (R308). -/
def execCinchTicketRead (port : CtlPort) (both : Bool) (s : State) : Host.Outcome State Fault Refusal :=
  if both then s.work ticketBoth else s.opened port (cinchAcquire port)

/-- NOTE_WR (R310). -/
def execNoteWr (port : CtlPort) (note : BitVec 16) (s : State) : Host.Outcome State Fault Refusal :=
  s.cinched port fun h => { h with cinch := { h.cinch with note := note } }

/-- RENEW (R309). -/
def execRenew (port : CtlPort) (s : State) : Host.Outcome State Fault Refusal :=
  s.cinched port fun h => { h with cinch := { h.cinch with leaseEnd := leaseFrom h } }

/-- RELEASE (R310). -/
def execRelease (port : CtlPort) (s : State) : Host.Outcome State Fault Refusal := s.cinched port fun h => releaseCinch h port

/-- The lease ends without a renewal: the cinch breaks (R309, R311), and an idle block wakes (R390). -/
def leaseExpiry (s : Hw) : Hw :=
  if s.cinch.owner.isSome then breakCinch (wake (advanceAon s s.cinch.leaseEnd)) 1 else s

/-- CINCH_LEASE_EXPIRY (R311). -/
def execCinchLeaseExpiry (s : State) : Host.Outcome State Fault Refusal := s.work leaseExpiry

/-! ### Shadow writes -/

/-- The writable bits of a word of a domain entry (R23 to R26, R28, R29). -/
def domMask (d o : Nat) : Word :=
  if o = 0 then (if d = 0 then 0x1ffff3e#64 else 0x1ffff3f#64)
  else if o = 0x08 then 0x3fff3fff3fff#64
  else if o = 0x10 then 0x8fff0fff#64
  else if 0x20 ≤ o && o < 0x40 then 0x8001ffff0001ffff#64
  else if 0x40 ≤ o && o < 0xC0 then (if o % 16 = 0 then 0xfffffffffffff0f3#64 else 0xfffffffffffff000#64)
  else if o = 0xC0 then 0xffffffffffffffff#64
  else 0

/-- The writable bits of a configuration word of a ring (R41). -/
def ringMask (o : Nat) : Word :=
  if o = 0 then 0xfff1f7f0001#64 else if o = 0x18 then 0xffff00ff#64 else 0xfffffffffffff000#64

/-- The writable bits of a shadowed register; none of a pairing word, which only the ceremony writes (R412). -/
def shadowMask (off : Nat) : Word :=
  if !isShadowed off then 0
  else if 0x600000 ≤ off then libWordMask off
  else if 0x200000 ≤ off then ringMask (off % 0x40)
  else if 0x100000 ≤ off then domMask ((off - 0x100000) / 0x100) (off % 0x100)
  else if off = 0x9010 then 0xffff0000ffff#64
  else if off = 0x3040 then 0xfffffffff0ff#64
  else if off = 0x3048 then 0x1fff0f0fff0fff#64
  else if off < 0xB200 then 0x8701ffff0001ffff#64
  else 0

/-- A write of a shadowed register by the holder of the cinch (R314). -/
def shadowPut (off : Nat) (v : Word) (s : Hw) : Hw :=
  let m := shadowMask off
  if m = 0 then s
  else if s.seam.st != .ready then editLost s
  else
    let w := (cfgWord s.shadow off &&& ~~~m) ||| (v &&& m)
    { s with shadow := cfgSet s.shadow off w, seam := { s.seam with dirty := true } }

/-- A narrow or misaligned access is refused (R306). -/
def accessRefused (p : CtlPort) (off : Nat) (s : Hw) : Hw := note s (ctlUnit p) 1 (BitVec.ofNat 16 off)

/-- SHADOW_WRITE (R314); an offset that is not 8 B-aligned is refused (R306). -/
def execShadowWrite (port : CtlPort) (offset : BitVec 24) (value : Word) (s : State) : Host.Outcome State Fault Refusal :=
  if offset.toNat % 8 != 0 then s.opened port (accessRefused port offset.toNat)
  else if shadowMask offset.toNat = 0 then s.opened port id
  else s.cinched port (shadowPut offset.toNat value)

/-! ### The configuration image (R300, R301) -/

/-- The image write of the active set begins, or begins again, in a bank (R301). -/
def imageStart (s : Hw) (b : Bool) : Hw :=
  kpIssue { s with kp := { s.kp with
    imageTo := some b, imagePtr := false, imageSet := s.active, imageEpoch := s.seam.epoch, imageNext := false, unit := 0 } }

/-- After a seam the port writes the new set's image (R301): into the bank the current pointer does not name, again into the
same bank while its pointer is not issued, or after the pointer that is. -/
def configWrite (s : Hw) : Hw :=
  let s := { s with kp := { s.kp with cfgDurable := false } }
  if !kpLive s || s.mc.mode = .seal then s
  else match s.kp.imageTo with
    | none => imageStart s (!s.kp.bank)
    | some b => if s.kp.imagePtr then { s with kp := { s.kp with imageNext := true } } else imageStart s b

/-- The rest of an image is acknowledged: the writes outstanding, and those that follow them one by one as slots come free
(log 20). -/
def imageRest (s : Hw) (b : Bool) : Hw :=
  let n := imageSize s.kp.imageSet / 64
  let left := n - s.kp.unit
  let s := (s.kp.out.filter fun w => w.why = .image).foldl kpDurable { s with kp := { s.kp with unit := n } }
  kpIssue { s with kp := { s.kp with
    bytes := mwrite s.kp.bytes (bankAddr b) (imageBytes s.kp.imageSet s.kp.imageEpoch), writes := satInc s.kp.writes left } }

/-- The image is acknowledged, and its pointer write is issued (R301); Seal issues no class-3 write (R333). -/
def configImageAck (s : Hw) : Hw :=
  match s.kp.imageTo with
  | some b => if s.kp.imagePtr || !kpLive s || s.mc.mode = .seal then s else imageRest s b
  | none => s

/-- CONFIG_IMAGE_ACK (R301). -/
def execConfigImageAck (s : State) : Host.Outcome State Fault Refusal := s.work configImageAck

/-- The pointer is acknowledged: the set is durable (R301), and a newer set that waits is written into the other bank. -/
def pointerAcked (s : Hw) (w : KpWrite) : Hw :=
  let s := kpDurable s w
  match s.kp.imageTo with
  | some b =>
    let s := { s with kp := { s.kp with
      bank := b, durableEpoch := s.kp.imageEpoch, cfgDurable := s.kp.imageEpoch = s.seam.epoch, imageTo := none
      imagePtr := false, imageSet := [] } }
    if s.kp.imageNext then (if s.mc.mode = .seal then s else imageStart s (!b)) else s
  | none => s

/-- The outstanding pointer write is acknowledged. -/
def configPointerAck (s : Hw) : Hw :=
  match s.kp.out.find? fun w => w.why = .pointer with
  | some w => if s.ward.warmPending then kpDurable s w else pointerAcked s w
  | none => s

/-- CONFIG_POINTER_ACK (R301). -/
def execConfigPointerAck (s : State) : Host.Outcome State Fault Refusal := s.work configPointerAck

/-! ### The seam -/

/-- An xlib transfer is in flight (R315). -/
def xlibRuns (s : Hw) : Bool := s.jobs.any fun e => match e.2.op with | .xlib _ _ => e.2.phase != .after | _ => false

/-- Check 4 of R315: no ring enabled in the active set changes its geometry (R43). -/
def geometryKept (s : Hw) : Bool :=
  ((ringsOf s.active).filter (ringEn s.active)).all fun n =>
    ringDomain s.active n = ringDomain s.shadow n && ringLog2 s.active n = ringLog2 s.shadow n &&
      fld (ringWord s.active n 8) 12 52 = fld (ringWord s.shadow n 8) 12 52 &&
      fld (ringWord s.active n 0x10) 12 52 = fld (ringWord s.shadow n 0x10) 12 52

/-- Check 2 of R315, with the partner's part of it in MIRRORED (R423). -/
def seamFree (s : Hw) : Bool :=
  s.seam.st = .ready && !xlibRuns s && (s.hns.mirror != .mirrored || (s.hns.peerReady && !s.hns.peerDirty))

/-- The RESULT of a GO (R315). -/
def goResult (s : Hw) : BitVec 4 :=
  if s.mc.mode = .seal || s.mc.mode = .held then 5
  else if !seamFree s then 2
  else if 8192 - retiredCount s < reserveSum s.shadow then 3
  else if !geometryKept s then 4
  else 1

/-- A new policy takes effect: a lower BURST clamps the tokens (R372). -/
def recClamp (s : Hw) : Hw :=
  { s with recd := { s.recd with codes := s.recd.codes.map fun c => { c with tokens := min c.tokens (recBurst s) } } }

/-- A seam is made (R316): the sets swap under a new epoch, fetched descriptors of rings that became unusable end
ABORTED, notifications that the new set makes due or moves to another port are queued (R61), and the image write begins. -/
def seamMake (s : Hw) (epoch : BitVec 16) : Hw :=
  let s := { s with
    active := s.shadow, shadow := s.active
    seam := { s.seam with st := .draining, oldEpoch := s.seam.epoch, epoch := epoch, seamAt := s.clk.core } }
  let s := note (recClamp s) 0x8A 3
  let lost := (s.rings.filter fun e => !e.2.fetched.isEmpty && !ringUsable s.active e.1).map (·.1)
  configWrite ((s.rings.map (·.1)).foldl noteDue (lost.foldl abortFetched s))

/-- A set in image form, as a message of the mirror link (R300, R423). -/
def setMessage (c : CfgSet) (epoch : BitVec 16) : Bytes := 3 :: imageBytes c epoch

/-- SEAM_CMD.GO is judged (R315, R423). -/
def seamGo (withDiscard : Bool) (s : Hw) : Hw :=
  let r := if withDiscard then 7 else goResult s
  let s := { s with seam := { s.seam with result := r, cmdGen := s.cinch.gen } }
  if r = 1 then
    let s := seamMake s (s.seam.epoch + 1)
    if s.hns.mirror = .mirrored then mirrorSend s (setMessage s.active s.seam.epoch) else s
  else if r = 7 then s
  else note s 0x8A 4

/-- GO (R315). -/
def execGo (port : CtlPort) (withDiscard : Bool) (s : State) : Host.Outcome State Fault Refusal :=
  s.cinched port (seamGo withDiscard)

/-- SEAM_CMD.DISCARD reverts the shadow set (R319). -/
def seamDiscard (s : Hw) : Hw :=
  let busy := s.seam.st != .ready || xlibRuns s
  let s := { s with seam := { s.seam with result := if busy then 2 else 6, cmdGen := s.cinch.gen } }
  if !busy && s.seam.dirty then startCopy s else s

/-- DISCARD (R319). -/
def execDiscard (port : CtlPort) (s : State) : Host.Outcome State Fault Refusal := s.cinched port seamDiscard

/-- The old set has drained: COPYING begins (R317). -/
def drainEnd (s : Hw) : Hw :=
  if s.seam.st = .draining && oldInFlight s = 0 then
    startCopy { s with seam := { s.seam with
      lastDrain := BitVec.ofNat 32 (min (2 ^ 32 - 1) ((s.clk.core - s.seam.seamAt) / 64)) } }
  else s

/-- SEAM_DRAIN_END (R317). -/
def execSeamDrainEnd (s : State) : Host.Outcome State Fault Refusal := s.work drainEnd

/-- The copy is complete after 81,984 core clocks: the sets are equal, READY and clean (R318). -/
def copyEnd (s : Hw) : Hw :=
  if s.seam.st = .copying then
    let s := advanceTo s (s.seam.copyAt + 81984)
    { s with
      shadow := s.active, libBad := s.libBad.filter fun w => w.1 = s.seam.epoch
      seam := { s.seam with st := .ready, dirty := false, oldEpoch := s.seam.epoch } }
  else s

/-- SEAM_COPY_END (R318). -/
def execSeamCopyEnd (s : State) : Host.Outcome State Fault Refusal := s.work copyEnd

end Sys2Proof.Machine
end

