-- ==== Sys2Proof/Machine/Kill.lean ====
section
/-! DEFINITION. Zeroization (R242, R254, R257), the kill line and the tamper generation (R255, R256, R440). -/

namespace Sys2Proof.Machine

/-! ### Zeroization (R254) -/

/-- Every open cipher stream and keyed digest stream is destroyed, and its jobs end KEY_EMPTY (R163, R180). -/
def destroyStreams (s : Hw) : Hw :=
  (liveCtxs s).foldl (fun s c =>
    let s := ((s.ctx c).cstreams.filter fun e => e.2.failed.isNone).foldl
      (fun s e => failCs s c e.1 stKeyEmpty (csLead s c e.1)) s
    ((s.ctx c).dstreams.filter fun e => 0x20 ≤ e.2.alg.toNat && e.2.failed.isNone).foldl
      (fun s e => failDs s c e.1 stKeyEmpty) s) s

/-- A public-key unit stops, its work ends KEY_EMPTY, and it burnishes: event 0x30 (R206, R226, R230). A unit that holds no
job clears its memory too; in Retention there is none to clear. -/
def killUnit (s : Hw) (u : Nat) : Hw :=
  let v := s.pkUnit u
  if s.sec.power = .retention then s
  else if v.phase = .free || v.phase = .burnish then note (pkWipe s u) (pkuUnit u) 0x30
  else
    let s := pkCorrect s u false
    let s := match v.work with
      | some (.job key) => if !v.killed && (s.job key).isSome then finish s key stKeyEmpty 0 else s
      | some (.katt key _) =>
        kattDrop (if !v.killed && (s.job key).isSome then finishFree s key stKeyEmpty else s) key
      | _ => segmentBack s v
    note (pkBurnish (s.modPku u fun v => { v with work := none, killed := true }) u stKeyEmpty) (pkuUnit u) 0x30

/-- Every word of the key store is cleared (R254): slots, staging halves, counters and the device region. -/
def clearKeys (s : Hw) : Hw :=
  { s with
    keys := { s.keys with
      slots := [], restoring := false, allPending := false, passedTo := 0, passed := [], zeroized := true, root := .none
      rootKey := [], idReady := false, idEc := [], idMl := [], drbgDue := true, drbg := {}, counters := [], floors := []
      charges := [], updates := [] }
    hns := { s.hns with links := s.hns.links.map fun e => (e.1, { e.2 with keyed := false, keyTx := [], keyRx := [], exchange := none }) } }

/-- Attestations whose statement is not written end KEY_EMPTY, with the copy of the key that they hold (R250, R257). -/
def kattsEnd (s : Hw) : Hw :=
  (s.jobs.filter fun e => match e.2.op with | .katt _ _ => true | _ => false).foldl (fun s e =>
    kattDrop (finishFree s e.1 stKeyEmpty) e.1) s

/-- The key store is zeroized: open work with keys ends KEY_EMPTY, updates are refused KEY_EMPTY, and everything held is
cleared (R254, R257). A keeper write of an update in flight ends as a write that no update waits for. -/
def zeroize (s : Hw) : Hw :=
  let s := kattsEnd (destroyStreams s)
  let s := failCharges s (fun _ => true) stKeyEmpty
  let s := s.keys.updates.foldl (fun s u => updRefuse s u stKeyEmpty 0) s
  let s := { s with kp := { s.kp with
    waiting := s.kp.waiting.filter fun w => match w.why with | .update _ _ => false | _ => true
    out := s.kp.out.map fun w => match w.why with | .update _ _ => { w with why := .counter } | _ => w } }
  clearKeys ((List.range 16).foldl killUnit s)

/-- Zeroization by a change of root or by Full debug entry: event 0x08, no step, no Held (R242, R257). -/
def zeroizeQuiet (s : Hw) : Hw := note (zeroize s) 0x81 8

/-! ### The kill line -/

/-- What follows the clear once vdd_core stands: the fatal event and Held (R254); with no TGEN position left, the
acknowledgement at once (R256). -/
def killEvent (s : Hw) : Hw :=
  let s := raise s 0x81 1
  if s.keys.tgen.toNat = 63 then { s with keys := { s.keys with killAck := true, stepBusy := false } } else s

/-- The kill line asserts (R254 to R257). One assertion steps TGEN once; another before its acknowledgement adds no step. -/
def killLine (s : Hw) : Hw :=
  if s.mc.por || s.sec.power = .off || s.keys.kill then s
  else
    let s := zeroize { s with keys := { s.keys with
      kill := true, kills := satInc s.keys.kills, stepBusy := true, killAck := false } }
    if s.sec.power = .retention then { s with keys := { s.keys with killLate := true } } else killEvent s

/-! ### Detectors (R398) -/

/-- The log of a trip of detector k, with the class of its action (R398, R403). Kill trips do not fence the sensors. -/
def detectorNote (s : Hw) (k : Nat) (data : BitVec 16) (cls : BitVec 2) : Hw :=
  let s := { s with sec := { s.sec with
    trips := s.sec.trips ||| BitVec.ofNat 6 (2 ^ k), tripCnt := tmod 0 s.sec.tripCnt k satInc } }
  logRow s 0xC8 (k + 1) data ⟨cls, true, true, true, false⟩

/-- The kill line from the enclosure is detector 0 (R398): its trip is logged first. -/
def killPin (s : Hw) : Hw :=
  if s.mc.por || s.sec.power = .off || s.keys.kill then s else killLine (detectorNote s 0 0 2)

/-- KILL_LINE (R254, R398): it acts in every power state but Off, and in Held. -/
def execKillLine (s : State) : Host.Outcome State Fault Refusal := s.always killPin

/-- Bit of the kill actions in force for detector k: those of the fuses and of the active set (R398, R401). -/
def detectorKills (s : Hw) (k : Nat) : Bool :=
  bit (BitVec.ofNat 5 (fld s.sec.calFuse1 48 5 ||| fld (cfgWord s.active 0x3048) 48 5)) (k - 1)

/-- A detector trips (R398, R400): 0 kills in every life-cycle state; 1 to 5 count in Blank, Factory, Returned and Scrapped,
and act as kill where their bit says so; 4 is fatal otherwise. -/
def detectorTrip (k : Nat) (data : BitVec 16) (s : Hw) : Hw :=
  let lc := lcState s
  if 6 ≤ k || (k = 5 && s.fenced 0xC8) || (s.sec.power = .retention && (1 ≤ k && k ≤ 4)) ||
      (k = 4 && s.sec.power = .idle) then s
  else if k = 0 then killPin s
  else if lc != 2 && lc != 3 then detectorNote s k data 0
  else if detectorKills s k then (if s.keys.kill then detectorNote s k data 2 else killLine (detectorNote s k data 2))
  else if k = 4 then enterHeld (detectorNote s k data 3)
  else detectorNote s k data 0

/-- DETECTOR_TRIP (R398): the sensors run on aon_clk and act in Held and in Retention. -/
def execDetectorTrip (detector : BitVec 3) (data : BitVec 16) (s : State) : Host.Outcome State Fault Refusal :=
  s.always fun h => if h.mc.por || h.sec.power = .off then h else detectorTrip detector.toNat data h

/-- Scrapped is recorded (R256): no root is live any more. -/
def scrapped (s : Hw) : Hw :=
  note { s with
    sec := { s.sec with lcBits := s.sec.lcBits ||| 16 }
    keys := { s.keys with root := .none, rootKey := [] } } 0x81 3

/-- The next TGEN position is blown and read back, and the kill line is acknowledged (R256). A word read back in which the
position is not blown is event 0x40 of the fuse port (R352), and nothing is acknowledged. -/
def tgenStep (data : Word) (s : Hw) : Hw :=
  if !s.keys.stepBusy || s.mc.por || s.sec.power = .retention || s.sec.power = .off || s.keys.tgen.toNat = 63 then s
  else if !bit data s.keys.tgen.toNat then raise s 0xC9 0x40
  else
    let s := note { s with keys := { s.keys with tgen := s.keys.tgen + 1, stepBusy := false, killAck := true } } 0x81 2
    if s.keys.tgen.toNat = 63 then scrapped s else s

/-- TGEN_STEP (R256): it acts in Held. -/
def execTgenStep (s : State) (data : Word := BitVec.allOnes 64) : Host.Outcome State Fault Refusal := s.does (tgenStep data)

/-- sb_kill_i has been low for two aon_clk periods: the acknowledgement falls (R440). -/
def killRelease (s : Hw) : Hw :=
  if s.keys.kill then advanceAon { s with keys := { s.keys with kill := false, killAck := false } } (s.clk.aon + 2) else s

/-- KILL_ACK_RELEASE (R440). -/
def execKillAckRelease (s : State) : Host.Outcome State Fault Refusal := s.does killRelease

end Sys2Proof.Machine
end

