-- ==== Sys2Proof/Machine/Bringup.lean ====
section
/-! DEFINITION. Bring-up (R327 to R331): the release, the fuses (R438), the keeper reads in their order (R303), the
configuration banks (R301), the restore (R252, R275, R298), Pilot and its end; power-on reset (R449). -/

namespace Sys2Proof.Machine

/-! ### Power-on reset and the release (R323, R327, R449) -/

/-- What is outside the block stands over a power-on reset: the keeper's region, in which every write under way lands or
not, the levels of the PHY inputs and of the power-fail warning, and the doorbells that their senders hold. -/
def powerReset (s : Hw) : Hw :=
  let s := kpScatter s
  { State.reset.hw with
    mc := { State.reset.hw.mc with pfw := s.mc.pfw }
    dbs := (s.dbs.filter fun e => !e.2.held.isEmpty).map fun e => (e.1, { held := e.2.held })
    kp := { State.reset.hw.kp with bytes := s.kp.bytes }
    hns := { State.reset.hw.hns with links := (s.hns.links.filter fun e => e.2.phyUp).map fun e => (e.1, { phyUp := true }) }
    freeCount := s.freeCount }

/-- POR_ASSERT (R323, R449): the one command that every mode takes. -/
def execPorAssert (s : State) : Host.Outcome State Fault Refusal := s.does powerReset

/-! ### The fuses (R382, R438) -/

/-- How many of n bits from bit lo on are set. -/
def popBits (w : Word) (lo n : Nat) : Nat := ((List.range n).filter fun i => bit w (lo + i)).length

/-- A life-cycle bit is blown when either fuse of its pair is (R382). -/
def fusePairs (w : Word) : BitVec 5 :=
  BitVec.ofNat 5 ((List.range 5).foldl (fun n i => if bit w (2 * i) || bit w (2 * i + 1) then n + 2 ^ i else n) 0)

/-- First fuse word of a root (R438). -/
def RootCode.fuseWord : RootCode → Nat
  | .x => 8
  | .d => 4
  | _ => 0

/-- The root becomes live: the one that life cycle and debug state select; one of zeros counts as absent (R241). -/
def rootTake (s : Hw) (key : Bytes) : Hw :=
  let code := rootCode s
  if code = .none || key = zeros 32 then { s with keys := { s.keys with root := .none, rootKey := [] } }
  else { s with keys := { s.keys with root := code, rootKey := key } }

/-- Step 2 of R327: the fuses are read, the stores cleared, and the Warden's forced difference judged (R353). -/
def fusesRead (words : List Word) (lockstepOk : Bool) (s : Hw) : Hw :=
  if s.mc.bring.phase != .fuses then s
  else
    let w := fun i => words.getD i 0
    let s := { s with
      sec := { s.sec with lcBits := fusePairs (w 19), calFuse0 := w 20, calFuse1 := w 21, entStartup := true }
      keys := { s.keys with tgen := BitVec.ofNat 6 (popBits (w 18) 0 63) }
      ucode := { s.ucode with
        floor := BitVec.ofNat 5 (popBits (w 19) 16 31), signer := wordsBytes ((List.range 6).map fun i => w (12 + i)) }
      mc := { s.mc with bring := { s.mc.bring with phase := .head, unit := 0, fusesDone := true } } }
    let s := rootTake s (wordsBytes ((List.range 4).map fun i => w ((rootCode s).fuseWord + i)))
    if lockstepOk then s else raise { s with ward := { s.ward with lockstepOk := false } } 0x83 0x41

/-- FUSE_READ_DONE (R327). -/
def execFuseReadDone (words : List Word) (lockstepOk : Bool) (s : State) : Host.Outcome State Fault Refusal :=
  s.work (fusesRead words lockstepOk)

/-! ### The entropy source (R397) -/

/-- ENTROPY_STARTUP_PASS (R397). -/
def execEntropyStartupPass (s : State) : Host.Outcome State Fault Refusal := s.work startupPass

/-- A test fails, and the entropy source is fenced (R397). -/
def healthFail (startup adaptive : Bool) (source : BitVec 2) (s : Hw) : Hw :=
  if startup != s.sec.entStartup || (!startup && !s.sec.entHealthy) then s
  else
    let s := { s with
      sec := { s.sec with
        entStartup := false, entHealthy := false
        entSources := (if startup then 15 else s.sec.entSources) &&& ~~~ BitVec.ofNat 4 (2 ^ source.toNat) }
      mc := { s.mc with bring := { s.mc.bring with entropyDone := true } } }
    raise s 0x84 (if startup then 0x42 else if adaptive then 0x41 else 0x40)

/-- ENTROPY_HEALTH_FAIL (R397). -/
def execEntropyHealthFail (startup adaptive : Bool) (source : BitVec 2) (s : State) : Host.Outcome State Fault Refusal :=
  s.work (healthFail startup adaptive source)

/-- DRBG_RESEED (R244). -/
def execDrbgReseed (s : State) : Host.Outcome State Fault Refusal := s.work drbgReseed

/-! ### What bring-up reads (R303) -/

/-- Units of 64 B of a slot's record. -/
def recordUnits (slot : Nat) : Nat := if slotWide slot then 129 else 2

/-- The tack slots that the tack directory names, in slot-ID order (R252, R295). -/
def tackSlots (s : Hw) : List Nat :=
  risingNats (((List.range 544).filter fun t => bit (dirWord s (tackDirAddr t)) 0).map fun t =>
    fld (dirWord s (tackDirAddr t)) 2 17)

/-- The slots whose current record lies in the main area, in slot-ID order; a tack entry takes precedence (R295). -/
def mainSlots (s : Hw) : List Nat :=
  let listed := risingNats ((s.kp.bytes.filter fun e => 0x50000 ≤ e.1 && e.1 < 0x50000 + 8 * 66560).map fun e => (e.1 - 0x50000) / 8)
  listed.filter fun n => bit (dirWord s (slotDirAddr n)) 0 && !(tackSlots s).contains n

/-- The keeper address of a slot's current record (R291, R295). -/
def recordAddr (s : Hw) (slot : Nat) : Nat :=
  match tackOf s slot with
  | some t => tackAddr t (fld (dirWord s (tackDirAddr t)) 1 1)
  | none => mainAddr slot (fld (dirWord s (slotDirAddr slot)) 1 1)

/-- A restore is possible: a root is live, and the unsealer serves (R241, R349). -/
def restores (s : Hw) : Bool := s.keys.root != .none && !s.fenced 0x87

/-- Units that a phase reads, or that its queue still needs. -/
def bringUnits (s : Hw) : Nat :=
  let b := s.mc.bring
  match b.phase with
  | .head => 7
  | .counters => 4096
  | .image => ceilDiv (bankLength s s.kp.bank) 64
  | .tackDir => 68
  | .tackBodies | .bodies => b.queue.foldl (fun n q => n + recordUnits q) 0
  | .tackLeases => b.queue.length
  | .slotDir => 8320
  | .leaseArea => 16384
  | _ => 0

/-- Change the progress of bring-up. -/
def Hw.modBring (s : Hw) (f : Bringup → Bringup) : Hw := { s with mc := { s.mc with bring := f s.mc.bring } }

/-- A phase begins. -/
def bringTo (s : Hw) (p : BringPhase) (queue : List Nat := []) : Hw := s.modBring fun b => { b with phase := p, unit := 0, queue := queue }

/-- Everything has been read and restored (R329): what is not FULL by now is EMPTY. -/
def bringDone (s : Hw) : Hw :=
  let s := restoreStops s
  ({ s with keys := { s.keys with countersComplete := true } }).modBring fun b =>
    { b with phase := .done, unit := 0, queue := [], pilotSetDone := true, fullSetDone := true, fullAt := s.clk.core }

/-- Bytes of a set have been read (R303). -/
def bringCount (s : Hw) (n : Nat) : Hw :=
  let full := match s.mc.bring.phase with | .slotDir | .leaseArea | .bodies => true | _ => false
  { s with kp :=
    if full then { s.kp with fullBytes := satInc s.kp.fullBytes n } else { s.kp with pilotBytes := satInc s.kp.pilotBytes n } }

/-! ### The head of the region (R292, R302, R368, R371) -/

/-- The current time record (R302). -/
def timeTake (s : Hw) : Hw :=
  let a := mread s.kp.bytes 0xC0 64
  let b := mread s.kp.bytes 0x100 64
  let later := leNat (a.take 4) < leNat (b.take 4)
  let r := if later then b else a
  { s with
    kp := { s.kp with timeSeq := BitVec.ofNat 32 (leNat (r.take 4)), timeAt := later }
    clk := { s.clk with cycles := BitVec.ofNat 32 (leAt r 4 4), opBase := leAt r 8 6 }
    recd := { s.recd with lastCheckpoint := leAt r 8 6 } }

/-- The recorder's head and tombstone (R368, R371). -/
def headTake (s : Hw) : Hw :=
  let h := wordAt (mread s.kp.bytes 0x180 8) 0
  { s with recd := { s.recd with
    tomb := wordAt (mread s.kp.bytes 0x140 8) 0, pageSeq := h.extractLsb' 0 32, page := h.extractLsb' 32 16 } }

/-- The anchor block is judged (R292): an unformatted keeper restores nothing. -/
def headDone (s : Hw) : Hw :=
  let a := wordAt (mread s.kp.bytes 0 8) 0
  if fld a 0 8 = 1 && fld a 8 8 = 0xA5 then
    let s := { s with kp := { s.kp with formatted := true, sizeMib := a.extractLsb' 32 16 } }
    bringTo (headTake (if s.mc.bring.warm then s else timeTake s)) .counters
  else bringDone { note s 0x82 4 with recd := { s.recd with stopped := true } }

/-! ### Counters and the configuration (R275, R301, R320) -/

/-- The domain counter records (R293). -/
def countersTake (s : Hw) : Hw :=
  let ds := risingNats ((s.kp.bytes.filter fun e => 0x10000 ≤ e.1 && e.1 < 0x50000).map fun e => (e.1 - 0x10000) / 64)
  ds.foldl (fun s d =>
    let r := mread s.kp.bytes (domRecAddr d) 16
    { s with keys := { s.keys with
      counters := tset 0 s.keys.counters d (wordAt r 0), floors := tset 0 s.keys.floors d (wordAt r 1) } }) s

/-- After the image: the tack directory is read next. -/
def imageNone (s : Hw) : Hw := bringTo (mirrorEnter s) .tackDir

/-- The counters are taken, and the image of the current bank is read next, when there is one. -/
def countersDone (s : Hw) : Hw :=
  let s := countersTake s
  match currentBank s with
  | some b => bringTo { s with kp := { s.kp with bank := b } } .image
  | none => imageNone s

/-- The set of a bank's image is active with its EPOCH, and the shadow copy begins (R318, R320, R327 step 5). The current
pointer, which BANK shows, stays the newer one (log 20). -/
def imageActivate (s : Hw) (b : Bool) : Hw :=
  let img := bankImage s b
  let epoch := BitVec.ofNat 16 (leAt img 0 2)
  let s := startCopy { s with
    active := imageHolds img, seam := { s.seam with epoch := epoch, oldEpoch := epoch }
    kp := { s.kp with durableEpoch := pointerEpoch s b, cfgDurable := pointerEpoch s b = epoch } }
  imageNone (recClamp s)

/-- Every image named has failed: only domain 0 is VALID (R301). -/
def imageLost (s : Hw) : Hw := imageNone (note { s with kp := { s.kp with cfgLost := true } } 0x82 3)

/-- The image has been read and hashed as it arrived: it becomes active, or the other bank is read instead, or none is left
(R301). `currentOk` and `otherOk`: the bytes that arrived are those stored (log 20). -/
def configImageRead (currentOk otherOk : Bool) (s : Hw) : Hw :=
  if s.mc.bring.phase != .imageHash then s
  else
    let b := s.kp.bank
    if currentOk && bankWhole s b then imageActivate s b
    else if pointerSeq s (!b) = 0 then imageLost s
    else
      let s := bringCount (note { s with kp := { s.kp with cfgFallback := true } } 0x82 2) (bankLength s (!b))
      if otherOk && bankWhole s (!b) then imageActivate s (!b) else imageLost s

/-- CONFIG_IMAGE_READ (R301). -/
def execConfigImageRead (currentOk otherOk : Bool) (s : State) : Host.Outcome State Fault Refusal :=
  s.work (configImageRead currentOk otherOk)

/-! ### The restore (R252, R275, R298) -/

/-- The restore has passed a slot. -/
def passSlot (s : Hw) (slot : Nat) : Hw := { s with keys := { s.keys with passed := insertNat slot s.keys.passed } }

/-- A domain's stored counter is at least c (R275). -/
def raiseCounter (s : Hw) (d : Nat) (c : Word) : Hw :=
  if tget 0 s.keys.counters d < c then { s with keys := { s.keys with counters := tset 0 s.keys.counters d c } } else s

/-- A domain's floor is at least c: slots restored below it become EMPTY (R275). -/
def raiseDomFloor (s : Hw) (d : Nat) (c : Word) : Hw :=
  if tget 0 s.keys.floors d < c then
    { s with keys := { s.keys with
      floors := tset 0 s.keys.floors d c
      slots := s.keys.slots.filter fun e => !(e.2.domain.toNat = d && e.2.st = .full && e.2.updCounter < c) } }
  else s

/-- The domains of a record: that of its ATTR, or, for an empty record, which names none, those whose slot ranges cover its
slot (log 40). -/
def recordDomains (s : Hw) (slot : Nat) (h attr : Word) : List Nat :=
  if bit h 25 then (domsOf s.active).filter fun d => domSlotOk s.active d slot else [fld attr 16 12]

/-- The counters and floors that a record of a slot completes (R275). -/
def recordCounters (s : Hw) (slot : Nat) (b : Bytes) : Hw :=
  let h := wordAt b 0
  if fld h 0 17 != slot then s
  else (recordDomains s slot h (wordAt b 3)).foldl (fun s d =>
    let s := raiseCounter s d (wordAt b 2)
    if bit h 26 then raiseDomFloor s d (wordAt b 2) else s) s

/-- The clear fields of a sealed record are in form (R252, R294). -/
def recordFormed (slot : Nat) (b : Bytes) : Bool :=
  let h := wordAt b 0
  let v := slotOfWords (wordAt b 3) (wordAt b 4)
  fld h 0 17 = slot && fld h 41 23 = 0 && fld h 27 14 = v.klen && slotKindOk slot v.klen && wordAt b 5 = 0 &&
    attrWord v .full false = wordAt b 3 && limitWord v = wordAt b 4

/-- The stored form that a sealed record opens to, none when its tag fails (R251). -/
def recordOpen (s : Hw) (slot : Nat) (b : Bytes) : Option Bytes :=
  let n := slotSize slot
  let i := recordIn (sealRecKey s slot (wordAt b 2) ((b.drop 8).take 8)) (b.take 48) ((b.drop 48).take n) true
  if cipherTag i = b.drop (48 + n) then some ((cipherOutput i).take (fld (wordAt b 0) 27 14)) else none

/-- COUNTER of a slot from its lease entry: END when KEYTAG matches the key, else 0 (R298). -/
def leaseCount (s : Hw) (slot : Nat) (v : Slot) : Nat :=
  let e := mread s.kp.bytes (leaseAddr slot) 16
  if (e.drop 8).take 4 = (keyCommit slot v.alg v.key).take 4 then fld (wordAt e 0) 0 49 else 0

/-- A slot with a counted unit takes its counter, AHEAD = 0 (R152, R153, R298); under mirror rules its pair END at entry is
that of the entry (R422). -/
def counterTake (s : Hw) (slot : Nat) : Hw :=
  let v := s.slot slot
  let n := leaseCount s slot v
  let s := s.setSlot slot { v with counter := n, ahead := 0, endLease := n, spent := usageLimit v ≤ n }
  if mirrorRules s then { s with hns := { s.hns with k0 := tset 0 s.hns.k0 slot (n / leaseSize v.alg.toNat) } } else s

/-- A slot is restored, and leaves PENDING (R252, R258). -/
def passRestored (s : Hw) (slot : Nat) : Hw :=
  passSlot { s with keys := { s.keys with restored := satInc s.keys.restored } } slot

/-- The slot takes the key and record of its sealed record (R252). A tack slot with a counted unit waits for its lease
block. -/
def restoreTake (s : Hw) (slot : Nat) (v : Slot) : Hw :=
  let s := s.setSlot slot v
  if !slotCounted v then passRestored s slot
  else if s.mc.bring.phase = .tackBodies then s
  else passRestored (counterTake s slot) slot

/-- One record is opened, and its slot restored or skipped (R252, R275). -/
def restoreSlot (s : Hw) (slot : Nat) : Hw :=
  let b := mread s.kp.bytes (recordAddr s slot) (64 + slotSize slot)
  let h := wordAt b 0
  let s := recordCounters s slot b
  let counter := wordAt b 2
  if fld h 17 6 != s.keys.tgen.toNat || fld h 23 2 != s.keys.root.num then
    passSlot (note { s with keys := { s.keys with skipOld := satInc s.keys.skipOld } } 0x81 4) slot
  else if bit h 25 || counter < tget 0 s.keys.floors (fld (wordAt b 3) 16 12) then passSlot s slot
  else
    match (if recordFormed slot b then recordOpen s slot b else none) with
    | none => passSlot (note { s with keys := { s.keys with failTag := satInc s.keys.failTag } } 0x81 5) slot
    | some key => restoreTake s slot { slotOfWords (wordAt b 3) (wordAt b 4) with key := key, updCounter := counter }

/-! ### The tack leases (R327 steps 7 and 8) -/

/-- A lease block of tack slots arrives: each of its restored tack slots with a counted unit takes COUNTER and leaves
PENDING (R327 step 7). -/
def leaseBlock (s : Hw) (block : Nat) : Hw :=
  ((List.range 4).map (4 * block + ·)).foldl (fun s n =>
    if (s.slot n).st = .full && slotPending s n && slotCounted (s.slot n) then passRestored (counterTake s n) n else s) s

/-- One lease write of a block raises END by one lease for every restored tack slot with a counted unit in it (R327 step 8);
under the rules of a pair it takes the lease of R422. -/
def leaseRaise (s : Hw) (block : Nat) : Hw :=
  let ns := ((List.range 4).map (4 * block + ·)).filter fun n =>
    (tackSlots s).contains n && (s.slot n).st = .full && slotCounted (s.slot n)
  if ns.isEmpty || !kpLive s then s
  else
    let up := fun (s : Hw) (n : Nat) =>
      let v := s.slot n
      let l := leaseSize v.alg.toNat
      let e := if mirrorRules s then (aloneLease s n v + 1) * l else v.endLease + l
      s.setSlot n { v with req := true, reqEnd := e, endLease := e }
    let s := ns.foldl up s
    let m := ns.foldl (fun m n => mwrite m (leaseAddr n) (leaseEntry n (s.slot n) (s.slot n).endLease)) s.kp.bytes
    let a := 0x200000 + 64 * block
    kpWrite (s.modBring fun b => { b with tackWrites := b.tackWrites ++ [block] }) 1 a (mread m a 64) (.lease ns)

/-- The lease blocks of the narrow tack slots. -/
def tackBlocks (s : Hw) : List Nat := risingNats (((tackSlots s).filter fun n => !slotWide n).map fun n => n / 4)

/-! ### The order of the reads -/

/-- The restore begins with the tack area; without a root or an unsealer none runs, and every slot is EMPTY (R241, R252).
The bodies are read all the same, for the counters that they complete (R275, R303). -/
def tackDirDone (s : Hw) : Hw :=
  if restores s then bringTo { s with keys := { s.keys with restoring := true } } .tackBodies (tackSlots s)
  else bringTo (restoreStops s) .tackBodies (tackSlots s)

/-- The Pilot set has been read: the lease writes of step 8 go out, and the Full set follows (R327, R329). -/
def tackLeasesDone (s : Hw) : Hw :=
  let s := (tackBlocks s).foldl leaseRaise s
  bringTo (s.modBring fun b => { b with pilotSetDone := true }) .slotDir

/-- The restore has passed every slot before the next one of its queue (R252). -/
def passAhead (s : Hw) : Hw :=
  match s.mc.bring.queue with
  | n :: _ => { s with keys := { s.keys with passedTo := n, passed := s.keys.passed.filter fun m => n ≤ m } }
  | [] => s

/-- A phase whose reads are complete gives way to the next (R303). -/
def bringStep (s : Hw) : Option Hw :=
  let b := s.mc.bring
  let full := bringUnits s ≤ b.unit
  match b.phase with
  | .head => if full then some (headDone s) else none
  | .counters => if full then some (countersDone s) else none
  | .image => if full then some (bringTo s .imageHash) else none
  | .tackDir => if full then some (tackDirDone s) else none
  | .tackBodies => if b.queue.isEmpty then some (bringTo s .tackLeases (tackBlocks s)) else none
  | .tackLeases => if full then some (tackLeasesDone s) else none
  | .slotDir => if full then some (bringTo s .leaseArea) else none
  | .leaseArea => if full then some (passAhead (bringTo s .bodies (mainSlots s))) else none
  | .bodies => if b.queue.isEmpty then some (bringDone s) else none
  | _ => none

/-- Phases whose reads are complete give way, as far as they go. -/
def bringAdvance : Nat → Hw → Hw
  | 0, s => s
  | n + 1, s => match bringStep s with | some s' => bringAdvance n s' | none => s

/-- Bring-up is reading the keeper, and units of its phase are still to come. -/
def bringReads (s : Hw) : Bool := (s.mc.mode = .cold || s.mc.mode = .pilot) && s.mc.bring.unit < bringUnits s

/-- A unit of bring-up arrives. -/
def bringUnit (s : Hw) : Hw :=
  let s := bringCount s 64
  let b := s.mc.bring
  let s := if b.phase = .tackLeases then leaseBlock s (b.queue.getD b.unit 0) else s
  bringAdvance 12 (s.modBring fun b => { b with unit := b.unit + 1 })

/-- A unit of a read window arrives (R372); one outside the recorder's pages is not asked for and reads zero. -/
def windowUnit (s : Hw) (r : KpRead) : Hw :=
  let data := blockOf (mread s.kp.bytes r.addr 64)
  let ready := 0x8000000000000000#64
  { s with
    kp := { s.kp with reads := s.kp.reads.filter fun x => x.tag != r.tag }
    recd := match r.window with
      | some .ctla => { s.recd with rdA := s.recd.rdA ||| ready, winA := data }
      | some .ctlb => { s.recd with rdB := s.recd.rdB ||| ready, winB := data }
      | none => s.recd }

/-- A read response (R303, R372, R437): of a read window by its tag, else of bring-up; one that nothing asked for is a
protocol violation, and an error fences the port (R304). -/
def keeperRead (tag : BitVec 6) (err : Bool) (s : Hw) : Hw :=
  if s.fenced 0x82 || s.kp.inReset then s
  else match s.kp.reads.find? fun r => r.tag = tag with
    | some r =>
      if err then raise s 0x82 1 else windowUnit s r
    | none =>
      if bringReads s then (if err then raise s 0x82 1 else bringUnit s)
      else if s.mc.mode = .seal && s.mc.bring.phase != .done then s
      else raise s 0x82 0x40

/-- KEEPER_READ_RESPONSE (R303). -/
def execKeeperReadResponse (tag : BitVec 6) (err : Bool) (s : State) : Host.Outcome State Fault Refusal :=
  s.work (keeperRead tag err)

/-- The unsealer opens the record of the slot in front of its queue, once its units have arrived (R252). Without a root, or
without the unsealer, the record completes its domain's counter and nothing more (R241, R275, R349). -/
def restoreRecord (slot : Nat) (s : Hw) : Hw :=
  let b := s.mc.bring
  if (b.phase = .tackBodies || b.phase = .bodies) && b.queue.head? = some slot && recordUnits slot ≤ b.unit &&
      (s.mc.mode = .cold || s.mc.mode = .pilot) then
    let s := if restores s then restoreSlot s slot else recordCounters s slot (mread s.kp.bytes (recordAddr s slot) 64)
    let s := s.modBring fun b => { b with queue := b.queue.drop 1, unit := b.unit - recordUnits slot }
    bringAdvance 12 (if b.phase = .bodies then passAhead s else s)
  else s

/-- RESTORE_RECORD (R252). -/
def execRestoreRecord (slot : BitVec 17) (s : State) : Host.Outcome State Fault Refusal := s.work (restoreRecord slot.toNat)

/-! ### Pilot and its end (R327 step 9, R329) -/

/-- Microseconds since the release (R338). -/
def sinceRelease (s : Hw) : Nat := (s.clk.core - s.mc.bring.startedAt) / clkPerUs s

/-- A time record is issued into the place that is not current (R302). -/
def timeWrite (s : Hw) : Hw :=
  let k := s.kp
  if !kpLive s then s
  else
    let q := k.timeSeq + 1
    let addr := if k.timeAt then 0xC0 else 0x100
    kpWrite { s with kp := { k with timeSeq := q, timeAt := !k.timeAt } } 2 addr
      (leBytes 4 q.toNat ++ leBytes 4 s.clk.cycles.toNat ++ leBytes 6 (opSeconds s) ++ zeros 50) .time

/-- The 16 mask generators are seeded from the DRBG, 256 bits each (log 155); after failed start-up tests they stay unseeded
(R330, R393). -/
def seedMasks (s : Hw) : Hw :=
  let ok := !s.fenced 0x84
  let s := if ok then (List.range 16).foldl (fun s _ => (drbgBytes s 32).2) s else s
  (List.range 8).foldl (fun s p => s.modPair p fun v =>
    { v with seeded := ok, entStop := !ok, workerOut := 0, checkerOut := 0, workerAsked := false, checkerAsked := false }) s

/-- Bring-up reaches step 9. -/
def pilotReady (s : Hw) : Bool :=
  let b := s.mc.bring
  s.mc.mode = .cold && b.fusesDone && b.entropyDone && b.pilotSetDone && (b.tackWrites.isEmpty || s.fenced 0x82)

/-- Pilot is entered (R327 step 9, R328, R302). -/
def pilotEntry (s : Hw) : Hw :=
  if !pilotReady s then s
  else
    let s := setMode (seedMasks s) .pilot
    let late := 2000 * clkPerUs s < s.clk.core - s.mc.bring.startedAt
    let s := { s with
      mc := { s.mc with
        pilotUs := BitVec.ofNat 32 (min (2 ^ 32 - 1) (sinceRelease s)), warm := s.mc.bring.warm, budgetMiss := s.mc.budgetMiss || late
        bring := { s.mc.bring with pilotAt := s.clk.core } }
      clk := if s.mc.bring.warm then s.clk else { s.clk with cycles := s.clk.cycles + 1 } }
    timeWrite (if late then note s 0x8B 2 else s)

/-- PILOT_ENTRY (R327). -/
def execPilotEntry (s : State) : Host.Outcome State Fault Refusal := s.work pilotEntry

/-- The mode that Pilot and Maintenance leave for: Degraded while a fence remains (R322). -/
def serviceMode (s : Hw) : Mode := if s.fencedCount = 0 then .full else .degraded

/-- Pilot ends 20 µs after the later of the last record of the Full set and step 9 (R329). -/
def pilotEnd (s : Hw) : Hw :=
  if s.mc.mode = .pilot && s.mc.bring.fullSetDone then
    let s := advanceTo s (max s.mc.bring.fullAt s.mc.bring.pilotAt + 20 * clkPerUs s)
    let s := { s with mc := { s.mc with fullUs := BitVec.ofNat 32 (min (2 ^ 32 - 1) (sinceRelease s)) } }
    setMode s (serviceMode s)
  else s

/-- PILOT_END (R329). -/
def execPilotEnd (s : State) : Host.Outcome State Fault Refusal := s.work pilotEnd

end Sys2Proof.Machine
end

