-- ==== Sys2Proof/Machine/Cipher.lean ====
section
/-! DEFINITION. The cipher engine's commands: stitches (R137, R138, R144, R155, R461), tags (R155, R158, R160), scrubs
(R160, R161), and the mask generators (R140 to R142). -/

namespace Sys2Proof.Machine

/-! ### Stitches -/

/-- The bytes of the next stitch of a job (R144). -/
def stitchLen (j : Job) (b : Block) : Nat := min 64 (rgLen (pbSrc b) - j.pos)

/-- The bytes of a job's next stitch are charged (R461). -/
def stitchCharged (j : Job) (b : Block) : Bool := cbMode b != 3 || cbDir b || j.pos + stitchLen j b ≤ j.charged

/-- A job's SRC touches a range that another stream of its context holds (R75). -/
def srcHeld (x : Ctx) (j : Job) (b : Block) : Bool :=
  (x.cstreams.filter fun e => e.1 != j.stream && e.2.undecided && !e.2.rel).any fun e =>
    e.2.held.any fun h => rgOverlap h (pbSrc b)

/-- A cipher job at work with what it asks for. -/
structure CiphItem where
  key : Nat
  job : Job
  block : Block
deriving DecidableEq, Repr

/-- The jobs of a pair that have a stitch to run: all but those that only a tag is left of. -/
def ciphItems (s : Hw) (p : Nat) : List CiphItem :=
  s.jobs.filterMap fun e => match e.2.op with
    | .ciph b =>
      if pairOf (benchOf (e.1 / 16)) (cbMode b) = p && e.2.phase = .running && !(ciphTagged b && rgLen (pbSrc b) ≤ e.2.pos) &&
          !srcHeld (s.ctx (e.1 / 16)) e.2 b then
        some ⟨e.1, e.2, b⟩
      else none
    | _ => none

/-- A stitch of a pair begins to wait for masks, when one is there (R140). -/
def stallBegin (s : Hw) (p : Nat) : Hw :=
  if (ciphItems s p).any fun i => stitchCharged i.job i.block then
    s.modPair p fun v => { v with stallFrom := some (v.stallFrom.getD s.clk.core) }
  else s

/-- Charge the parts that cover a job's next stitch, as far as they can be charged now (R461). -/
def stitchCover : Nat → Hw → Nat → Hw
  | 0, s, _ => s
  | n + 1, s, key =>
    match s.job key with
    | some j => match j.op with
      | .ciph b =>
        if j.phase = .running && !stitchCharged j b then
          stitchCover n (xtsCharge s key j b (chargeQueued s (pbSlot b).toNat)) key
        else s
      | _ => s
    | none => s

/-- A chained mode (R145). -/
def chained (b : Block) : Bool := (cbMode b = 5 && !cbDir b) || cbMode b = 6

/-- A stitch of n bytes in the pipes of a cipher pair, in core clocks: how many each pipe holds it, and how many pass until
its last block is out (R145, R165, log 33). -/
def pipeTime (b : Block) (n : Nat) : Nat × Nat :=
  if n = 0 then (0, 0)
  else if cbMode b = 7 then (180 * ceilDiv n 8, 360 * ceilDiv n 8)
  else if chained b then (30 * blocks16 n, 30 * blocks16 n)
  else (29 + blocks16 n, 29 + blocks16 n)

/-- The core clock from which a pair can take the stitch of an item. -/
def stitchAt (s : Hw) (p : Nat) (i : CiphItem) : Nat := max (max s.clk.core (s.pair p).nextAt) i.job.readyAt

/-- The job whose stitch a pair takes next: of those ready in its next core clock, by domain, then by order of arrival (R34,
R35, R144). -/
def stitchPick (s : Hw) (p : Nat) : Option (CiphItem × Hw) :=
  let all := (ciphItems s p).filter fun i => stitchCharged i.job i.block
  let t := (all.map (stitchAt s p)).foldl min ((all.map (stitchAt s p)).headD 0)
  let s := advanceTo s t
  let items := all.filter fun i => stitchAt s p i ≤ t
  let dom := fun (i : CiphItem) => (s.ctx (i.key / 16)).domain
  match arbPick (domWeight s.active) ((risingNats (items.map dom)).map fun d => (d, 1)) (s.pair p).arb with
  | none => none
  | some (d, arb) =>
    (leastBy (fun i => i.job.seq) (items.filter fun i => dom i = d)).map fun i => (i, s.modPair p fun v => { v with arb := arb })

/-- Reseed bits are due to a generator that has passed 2^18 outputs (R141). -/
def maskAsks (v : Pair) : Pair := { v with
  workerAsked := v.workerAsked || reseedAsk ≤ v.workerOut, checkerAsked := v.checkerAsked || reseedAsk ≤ v.checkerOut }

/-- A stitch occupies the pipes from now on: each generator gives an output in every core clock in which its pipe holds
work that it did not hold before (R141, log 33). -/
def maskUse (now : Nat) (time : Nat × Nat) (v : Pair) : Pair :=
  let n := min time.1 (now + time.2 - max now v.pipeUntil)
  maskAsks { v with
    workerOut := min reseedStop (v.workerOut + n), checkerOut := min reseedStop (v.checkerOut + n)
    pipeUntil := max v.pipeUntil (now + time.2) }

/-- A generator has come to its deadline: event 0x05, and with the source fenced the pair's jobs end (R142, R168). -/
def maskDeadline (s : Hw) (p : Nat) : Hw :=
  let s := note s (pairUnit p) 5
  if s.fenced 0x84 then pairFail (s.modPair p fun v => { v with entStop := true }) p stEntropyFail else s

/-- Change the counts of a pair's generators, with what follows when one comes to its deadline. -/
def maskCount (s : Hw) (p : Nat) (f : Pair → Pair) : Hw :=
  let v := s.pair p
  let s := s.modPair p f
  let w := s.pair p
  let s := if v.workerOut < reseedStop && reseedStop ≤ w.workerOut then maskDeadline s p else s
  if v.checkerOut < reseedStop && reseedStop ≤ w.checkerOut then maskDeadline s p else s

/-- A generator of a cipher pair stands at its deadline (R141). -/
def maskStopped (p : Nat) (v : Pair) : Bool := p < 8 && (reseedStop ≤ v.workerOut || reseedStop ≤ v.checkerOut)

/-- A job has released its last stitch: its tag is left to decide or write, or it ends (R155). -/
def stitchLast (s : Hw) (key : Nat) (j : Job) (b : Block) : Hw :=
  if ciphTagged b then s.setJob key { j with phase := .closing } else ciphEnd s key j b

/-- A checked stitch is released: its output is written to DST, its input joins what the stream has taken (R155). An
in-place job reads its own earlier input from the stream. -/
def stitchRelease (s : Hw) (p : Nat) (i : CiphItem) : Hw :=
  let c := i.key / 16
  let b := i.block
  let n := stitchLen i.job b
  let x := s.ctx c
  let v := x.cs i.job.stream
  let left := rgRead s c (rgSub (pbSrc b) i.job.pos (rgLen (pbSrc b) - i.job.pos))
  let before := v.msg.take (v.msg.length - i.job.pos)
  let src := v.msg.drop (v.msg.length - i.job.pos) ++ left
  let out := ciphOut b { v with msg := before } src i.job.pos n
  let s := if rgLen (pbDst b) = 0 then s else rgWrite s c (rgSub (pbDst b) i.job.pos n) out
  let s := s.modCtx c fun x => x.setCs i.job.stream { x.cs i.job.stream with msg := v.msg ++ left.take n }
  let time := pipeTime b n
  let j := { i.job with
    pos := i.job.pos + n, readyAt := if chained b || cbMode b = 7 then s.clk.core + time.2 else i.job.readyAt }
  let s := (s.setJob i.key j).modPair p fun v => { v with stitches := satInc v.stitches }
  let s := if rgLen (pbSrc b) ≤ j.pos then stitchLast s i.key j b else stitchCover 4 s i.key
  if p < 8 then maskCount s p (maskUse s.clk.core time) else s

/-- The words that a job's next stitch reads: those of its input, and before the first of a FIRST job its additional data,
its IV and its C0 (R286). -/
def stitchWords (x : Ctx) (i : CiphItem) (read : List WordErrors) : List (Nat × Nat × List (BitVec 6)) :=
  let b := i.block
  let first := if i.job.pos = 0 && pbFirst b then ciphReads b else []
  (rgSub (pbSrc b) i.job.pos (stitchLen i.job b) :: first).flatMap fun r => rgWords x r read

/-- A pair takes one stitch (R144): it is checked and released, or the pair is fenced (R138), or its input is lost
(R286). With a generator at its deadline the stitch waits for masks (R140, R141). -/
def stitch (p : Nat) (agree : Bool) (read : List WordErrors) (s : Hw) : Hw :=
  let v := s.pair p
  if s.out (pairUnit p) || v.entStop then s
  else
    let s := (ciphItems s p).foldl (fun s i => stitchCover 4 s i.key) s
    if maskStopped p v then stallBegin s p
    else
    match stitchPick s p with
    | none => s
    | some (i, s) =>
      let s := s.modPair p fun v => { v.stallOver s.clk.core with nextAt := s.clk.core + 4 }
      let c := i.key / 16
      let x := s.ctx c
      let at' := rgSub (pbSrc i.block) i.job.pos (stitchLen i.job i.block)
      let l := stitchWords x i read
      let bad := rgPoisoned s c at'
      let lost := bad || readLost s l
      let s := if bad then readRefused s c at' else readAll s l
      if lost then (if (s.job i.key).isSome then ciphFail s i.key i.job stDataUncorrected else s)
      else
        let (flip, s) := takeFlip s (pairUnit p)
        if (!agree || flip) && !bit v.cfg 0 then raise s (pairUnit p) 0x40 (BitVec.ofNat 16 x.domain)
        else stitchRelease s p i

/-- The pair of a kind on a bench. -/
def pairKey (kind : PairKind) (bench : BitVec 3) : Nat :=
  match kind with | .cipher => bench.toNat | .stream => 8 + bench.toNat

/-- STITCH (R144). -/
def execStitch (kind : PairKind) (bench : BitVec 3) (agree : Bool) (read : List WordErrors) (s : State) :
    Host.Outcome State Fault Refusal :=
  s.work (stitch (pairKey kind bench) agree read)

/-! ### Tags -/

/-- A verdict of a pair is counted, and a failed one logged (R167, R168). -/
def countVerdict (s : Hw) (p : Nat) (ok : Bool) : Hw :=
  if ok then s.modPair p fun v => { v with pass := satInc v.pass }
  else note (s.modPair p fun v => { v with fail := satInc v.fail }) (pairUnit p) 1

/-- The words that the decision on a tag reads: the tag it is compared with, and for a stream of no bytes what the first
stitch would have read (R286). -/
def tagWords (x : Ctx) (b : Block) (read : List WordErrors) : List (Nat × Nat × List (BitVec 6)) :=
  let first := if pbFirst b && rgLen (pbSrc b) = 0 then ciphReads b else []
  ((if cbDir b then [cbTag b] else []) ++ first).flatMap fun r => rgWords x r read

/-- The tag of a LAST job is written (R155), or decided (R135, R158, R160). -/
def tagDecide (s : Hw) (key : Nat) (j : Job) (b : Block) : Hw :=
  let c := key / 16
  let p := pairOf (benchOf c) (cbMode b)
  let v := (s.ctx c).cs j.stream
  if !cbDir b then ciphEnd (rgWrite s c (cbTag b) (ciphTag v (rgLen (cbTag b)))) key j b
  else if ciphTagOk v (rgRead s c (cbTag b)) then
    let s := countVerdict s p true
    let s := if v.holds then clearHold s c j.stream else s
    ciphEnd s key j b
  else
    let s := countVerdict s p false
    if taggedMode (cbMode b) then failCs s c j.stream stTagFail (some (key % 16))
    else closeCs (finish s key stVerifyFail (BitVec.ofNat 64 (rgLen (pbDst b)))) c j.stream

/-- A tag is decided once the job's last stitch is released (R155, R158). What it reads may be lost (R286), and where the
checker disagrees the tag is withheld and the pair fenced (R137, R138). -/
def tagDecision (c t : Nat) (agree : Bool) (read : List WordErrors) (s : Hw) : Hw :=
  match s.job (jobKey c t) with
  | some j => match j.op with
    | .ciph b =>
      let p := pairOf (benchOf c) (cbMode b)
      if ciphTagged b && (j.phase = .closing || (j.phase = .running && rgLen (pbSrc b) = 0)) && !s.out (pairUnit p) &&
          !(s.pair p).entStop then
        let key := jobKey c t
        let l := tagWords (s.ctx c) b read
        let bad := cbDir b && rgPoisoned s c (cbTag b)
        let lost := bad || readLost s l
        let s := if bad then readRefused s c (cbTag b) else readAll s l
        if lost then (if (s.job key).isSome then ciphFail s key j stDataUncorrected else s)
        else if !agree && !bit (s.pair p).cfg 0 then raise s (pairUnit p) 0x40 (BitVec.ofNat 16 (s.ctx c).domain)
        else tagDecide s key j b
      else s
    | _ => s
  | none => s

/-- TAG_DECISION (R158). -/
def execTagDecision (c : BitVec 9) (t : BitVec 4) (s : State) (agree : Bool := true) (read : List WordErrors := []) :
    Host.Outcome State Fault Refusal :=
  s.work (tagDecision c.toNat t.toNat agree read)

/-! ### Scrubs -/

/-- The scrub of a context that a command with ticket t ends: nothing of it is outstanding, and no transfer from its
ranges still runs (R160). -/
def scrubOver (s : Hw) (c t : Nat) : Option Scrub :=
  match (s.ctx c).scrubbing with
  | some k => if k.out = 0 && !scrubBlocked s c && (k.ticket = some t || k.ticket.isNone) then some k else none
  | none => none

/-- The last scrub piece has landed (R160). -/
def scrubComplete (c t : Nat) (s : Hw) : Hw :=
  match scrubOver s c t with
  | some k => if !k.refused && (s.ctx c).scrub.isEmpty then scrubEnd s c k true else s
  | none => s

/-- SCRUB_COMPLETE (R160). -/
def execScrubComplete (c : BitVec 9) (t : BitVec 4) (s : State) : Host.Outcome State Fault Refusal :=
  s.work (scrubComplete c.toNat t.toNat)

/-- A scrub piece was refused, and nothing of the scrub is outstanding (R161). -/
def scrubStop (c t : Nat) (s : Hw) : Hw :=
  match scrubOver s c t with
  | some k => if k.refused then scrubEnd s c k false else s
  | none => s

/-- SCRUB_STOP (R161). -/
def execScrubStop (c : BitVec 9) (t : BitVec 4) (s : State) : Host.Outcome State Fault Refusal :=
  s.work (scrubStop c.toNat t.toNat)

/-! ### Mask generators -/

/-- Outputs of one generator of a pair. -/
def maskOut (v : Pair) (checker : Bool) : Nat := if checker then v.checkerOut else v.workerOut
/-- A generator of a pair stands at a count, its request made or not. -/
def maskAt (v : Pair) (checker : Bool) (n : Nat) (asked : Bool) : Pair :=
  if checker then { v with checkerOut := n, checkerAsked := asked } else { v with workerOut := n, workerAsked := asked }
/-- A generator's request is outstanding. -/
def maskAsked (v : Pair) (checker : Bool) : Bool := if checker then v.checkerAsked else v.workerAsked

/-- At 2^18 outputs a generator asks for its reseed (R141); one that has already asked changes nothing. -/
def maskRequest (p : Nat) (checker : Bool) (s : Hw) : Hw :=
  s.modPair p fun v => maskAt v checker (max reseedAsk (maskOut v checker)) true

/-- MASK_RESEED_REQUEST (R141). -/
def execMaskReseedRequest (bench : BitVec 3) (checker : Bool) (s : State) : Host.Outcome State Fault Refusal :=
  s.work (maskRequest bench.toNat checker)

/-- The entropy source serves a mask generator next: it has asked, none that has asked stands at a higher count, and the
DRBG, which is served first, waits for no reseed (R396). A fenced source serves none, nor does one under its start-up tests. -/
def maskServed (s : Hw) (p : Nat) (checker : Bool) : Bool :=
  let n := maskOut (s.pair p) checker
  !s.fenced 0x84 && s.sec.entHealthy && !drbgDue s && maskAsked (s.pair p) checker &&
    (List.range 8).all fun q => [false, true].all fun c => !maskAsked (s.pair q) c || maskOut (s.pair q) c ≤ n

/-- Reseed bits arrive: the count is 0, the generators run once both have had theirs, and then a stall ends and a pair stopped
for entropy serves again (R141, R142). -/
def maskArrival (p : Nat) (checker : Bool) (s : Hw) : Hw :=
  if !maskServed s p checker then s
  else
    let s := { s with sec := { s.sec with entOutputs := satInc s.sec.entOutputs } }
    s.modPair p fun v =>
      let v := maskAt v checker 0 false
      let v := { v with seeded := v.seeded || !(v.workerAsked || v.checkerAsked) }
      if !v.seeded || maskStopped p v then v
      else { v.stallOver s.clk.core with entStop := false }

/-- MASK_RESEED_ARRIVAL (R141). -/
def execMaskReseedArrival (bench : BitVec 3) (checker : Bool) (s : State) : Host.Outcome State Fault Refusal :=
  s.work (maskArrival bench.toNat checker)

/-- At 2^20 outputs a generator stops, and its pair stalls; with the source fenced the pair's jobs end (R141, R142). -/
def reseedDeadline (p : Nat) (checker : Bool) (s : Hw) : Hw := maskCount s p fun v => maskAt v checker reseedStop true

/-- RESEED_DEADLINE (R142). -/
def execReseedDeadline (bench : BitVec 3) (checker : Bool) (s : State) : Host.Outcome State Fault Refusal :=
  s.work (reseedDeadline bench.toNat checker)

/-- A stall of a cipher pair passes 1,024 core clocks (R140, R167, R168): whatever keeps the masks from it, a stitch of the
pair has waited so long. One stall is reported once, and the lanes of a stream pair are not masked. -/
def maskStall (p : Nat) (s : Hw) : Hw :=
  let s := if p < 8 then stallBegin s p else s
  match (s.pair p).stallFrom with
  | some t =>
    if (s.pair p).stallSaid then s
    else note ((advanceTo s (t + 1025)).modPair p fun v => { v with stallSaid := true }) (pairUnit p) 4
  | none => s

/-- MASK_STALL (R167). -/
def execMaskStall (kind : PairKind) (bench : BitVec 3) (s : State) : Host.Outcome State Fault Refusal :=
  s.work (maskStall (pairKey kind bench))

end Sys2Proof.Machine
end

