-- ==== Sys2Proof/Machine/Digest.lean ====
section
/-! DEFINITION. The digest engines' commands (R170 to R182), the public digest board and the trace queue (R184 to R187,
R444). -/

namespace Sys2Proof.Machine

/-- The number of a digest engine: 0-31 lanes, 32-39 sequencers. -/
def digNum (e : DigestEngine) : Nat := match e with | .lane g => g.toNat | .sequencer b => 32 + b.toNat

/-! ### Absorbing -/

/-- The engine that takes the next bytes of a stream: for ParallelHash the claimed lane of the block they lie in (R177). -/
def nextEngine (v : DigestStream) : Nat :=
  if v.claimed.isEmpty then v.engine
  else v.claimed.getD (v.msg.length / 2 ^ v.blockLog2 % v.claimed.length) v.engine

/-- A digest job at work. -/
structure DgstItem where
  key : Nat
  job : Job
  block : Block
deriving DecidableEq, Repr

/-- The jobs whose next bytes an engine takes; a held source waits (R75, R172). -/
def dgstItems (s : Hw) (e : Nat) : List DgstItem :=
  s.jobs.filterMap fun k => match k.2.op with
    | .dgst b =>
      if k.2.phase = .running && nextEngine (dsOf s k.1 k.2) = e && !rgHeld (s.ctx (k.1 / 16)) (pbSrc b) then
        some ⟨k.1, k.2, b⟩
      else none
    | _ => none

/-- The bytes of one unit of service: 1 KiB, cut at the end of a ParallelHash block and of the job (R170, R177). -/
def absorbLen (v : DigestStream) (j : Job) (b : Block) : Nat :=
  let n := min 1024 (rgLen (pbSrc b) - j.pos)
  if v.claimed.isEmpty then n else min n (2 ^ v.blockLog2 - v.msg.length % 2 ^ v.blockLog2)

/-- An engine takes one unit of a job's input, whose words have been read (R171). -/
def absorbTake (s : Hw) (e : Nat) (i : DgstItem) (n : Nat) : Hw :=
  let c := i.key / 16
  let data := rgRead s c (rgSub (pbSrc i.block) i.job.pos n)
  let s := s.modDig e fun v => { v with bytes := satInc v.bytes n }
  let s := s.modCtx c fun x => x.setDs i.job.stream { x.ds i.job.stream with msg := (x.ds i.job.stream).msg ++ data }
  let j := { i.job with pos := i.job.pos + n }
  if j.pos < rgLen (pbSrc i.block) then s.setJob i.key j
  else if pbLast i.block then s.setJob i.key { j with phase := .closing }
  else dgstAdvance 17 (dgstDone s i.key i.block stOk) c j.stream

/-- What a job reads beside its input: with its first bytes the strings of a FIRST job (R174, R286). -/
def dgstReads (b : Block) (first : Bool) : List Word := if first && pbFirst b then [dbCust b, dbName b] else []

/-- An engine gives one unit of service, by domain and then by order of arrival (R34, R35, R170). -/
def digestAbsorb (e : Nat) (read : List WordErrors) (s : Hw) : Hw :=
  if s.out (digUnit e) then s
  else
    let items := dgstItems s e
    let dom := fun (i : DgstItem) => (s.ctx (i.key / 16)).domain
    match arbPick (domWeight s.active) ((risingNats (items.map dom)).map fun d => (d, 1)) (s.dig e).arb with
    | none => s
    | some (d, arb) =>
      match leastBy (fun i => i.job.seq) (items.filter fun i => dom i = d) with
      | none => s
      | some i =>
        let s := s.modDig e fun v => { v with arb := arb }
        let c := i.key / 16
        let x := s.ctx c
        let r := rgSub (pbSrc i.block) i.job.pos (absorbLen (x.ds i.job.stream) i.job i.block)
        let l := (r :: dgstReads i.block (i.job.pos = 0)).flatMap fun r => rgWords x r read
        let bad := rgPoisoned s c r
        let lost := bad || readLost s l
        let s := if bad then readRefused s c r else readAll s l
        if lost then (if (s.job i.key).isSome then dgstFail s i.key i.job stDataUncorrected else s)
        else absorbTake s e i (rgLen r)

/-- DIGEST_ABSORB (R171). -/
def execDigestAbsorb (e : DigestEngine) (read : List WordErrors) (s : State) : Host.Outcome State Fault Refusal :=
  s.work (digestAbsorb (digNum e) read)

/-! ### The board and the trace -/

/-- Change a board entry. -/
def Hw.modEntry (s : Hw) (n : Nat) (f : BoardEntry → BoardEntry) : Hw :=
  { s with board := { s.board with entries := tmod {} s.board.entries n f } }

/-- The trace record of a board entry as it stands (R187). -/
def traceRecord (s : Hw) (kind n : Nat) : List Word :=
  (put 32 32 s.board.posts.toNat ||| put 8 8 kind ||| put 0 8 n) :: boardReg s (0xE800 + 8 * n) ::
    (List.range 8).map fun k => wordOf (s.boardEntry n).data k

/-- Queue a trace record; a full queue drops it, and says so (R187, R444). -/
def tracePut (s : Hw) (r : List Word) : Hw × Bool :=
  if !s.sec.trReset && s.board.trace.length < 64 then ({ s with board := { s.board with trace := s.board.trace ++ [r] } }, true)
  else ({ s with board := { s.board with traceLost := satInc s.board.traceLost } }, false)

/-- A change of a board entry, in its three steps (R186), with its trace copy (R187). The flag says that the copy was not
dropped. -/
def boardStep (s : Hw) (kind n : Nat) (f : BoardEntry → BoardEntry) : Hw × Bool :=
  let s := s.modEntry n fun v => { f v with seq := v.seq + 2, own := v.own }
  let s := { s with board := { s.board with posts := s.board.posts + 1 } }
  if bit s.board.ctl 0 then tracePut s (traceRecord s kind n) else (s, true)

/-- A post of a lane to entry n (R185 to R187). -/
def boardPost (s : Hw) (lane n d : Nat) (alg : Nat) (result : Bytes) : Hw :=
  let (s, kept) := boardStep s 1 n fun v =>
    { v with alg := BitVec.ofNat 8 alg, len := BitVec.ofNat 7 result.length, domain := BitVec.ofNat 12 d, data := blockOf result }
  let s := s.modDig lane fun v => { v with posted := satInc v.posted }
  if kept then s else note s (digUnit lane) 3

/-- Clear entry n (R186). -/
def boardClear (s : Hw) (n : Nat) : Hw := (boardStep s 3 n fun _ => {}).1

/-- DGB_CLEAR_ENTRY (R186). -/
def execDgbClearEntry (port : CtlPort) (index : BitVec 8) (s : State) : Host.Outcome State Fault Refusal :=
  s.cinched port fun h => boardClear h index.toNat

/-- DGB_CLEAR_ALL (R186). -/
def execDgbClearAll (port : CtlPort) (s : State) : Host.Outcome State Fault Refusal :=
  s.cinched port fun h => (List.range 256).foldl boardClear h

/-- The oldest trace record leaves the TR port (R444). -/
def traceSent (s : Hw) : Hw := { s with board := { s.board with trace := s.board.trace.drop 1 } }

/-- TRACE_RECORD_SENT (R444). -/
def execTraceRecordSent (s : State) : Host.Outcome State Fault Refusal := s.work traceSent

/-! ### Closing -/

/-- A request may post to a board entry (R24, R185). -/
def boardAllows (s : Hw) (c n : Nat) : Bool :=
  let d := (s.ctx c).domain
  let own := (s.boardEntry n).own
  domFlag (s.cfgOf c) d 3 && bit own 63 && fld own 0 12 = d

/-- A comparison is counted, and a failed one logged (R188, R189). -/
def countCompare (s : Hw) (e : Nat) (ok : Bool) : Hw :=
  if ok then s.modDig e fun v => { v with pass := satInc v.pass }
  else note (s.modDig e fun v => { v with fail := satInc v.fail }) (digUnit e) 1

/-- A stream closes after its LAST job (R117, R181). -/
def closeDs (s : Hw) (c n : Nat) : Hw := s.modCtx c fun x => x.setDs n {}

/-- A LAST job produces its result: compared (R182) or written (R173), and posted (R185). -/
def digestResult (s : Hw) (key : Nat) (j : Job) (b : Block) : Hw :=
  let c := key / 16
  let v := (s.ctx c).ds j.stream
  let result := digResult v (digOutLen b)
  let ok := !dbCheck b || rgRead s c (dbExpect b) = result
  let s := if dbCheck b then countCompare s v.engine ok else rgWrite s c (dbOut b) result
  let allowed := boardAllows s c (dbIndex b)
  let s :=
    if !dbBoard b then s
    else if allowed then boardPost s v.engine (dbIndex b) (s.ctx c).domain (dbAlg b) result
    else note (s.modDig v.engine fun u => { u with refusedPosts := satInc u.refusedPosts }) (digUnit v.engine) 2
  let st := if dbBoard b && !allowed then stKeyDenied else if ok then stOk else stVerifyFail
  closeDs (dgstDone s key b st) c j.stream

/-- A LAST job whose input is absorbed closes its stream (R173); the value that it is compared with may be lost (R286). -/
def digestClose (c t : Nat) (read : List WordErrors) (s : Hw) : Hw :=
  let key := jobKey c t
  match s.job key with
  | some j => match j.op with
    | .dgst b =>
      if pbLast b && j.phase = .closing then
        let reads := (if dbCheck b then [dbExpect b] else []) ++ dgstReads b (rgLen (pbSrc b) = 0)
        let l := reads.flatMap fun r => rgWords (s.ctx c) r read
        let bad := dbCheck b && rgPoisoned s c (dbExpect b)
        let lost := bad || readLost s l
        let s := if bad then readRefused s c (dbExpect b) else readAll s l
        if lost then (if (s.job key).isSome then dgstFail s key j stDataUncorrected else s) else digestResult s key j b
      else s
    | _ => s
  | none => s

/-- DIGEST_CLOSE (R173). -/
def execDigestClose (c : BitVec 9) (t : BitVec 4) (s : State) (read : List WordErrors := []) : Host.Outcome State Fault Refusal :=
  s.work (digestClose c.toNat t.toNat read)

end Sys2Proof.Machine
end

