-- ==== Sys2Proof/Machine/Modes.lean ====
section
/-! DEFINITION. The modes after bring-up: Maintenance and Factory Test (R322 to R326), Seal and the power-fail warning (R332 to
R336, R441). -/

namespace Sys2Proof.Machine

/-- A MODE_CMD is refused (R338). -/
def modeRefused (s : Hw) : Hw := note s 0x8B 6

/-! ### Maintenance and Factory Test (R323, R325, R326) -/

/-- MODE_CMD.MAINT: the drain begins. -/
def maintStart (s : Hw) : Hw :=
  if s.mc.mode = .full || s.mc.mode = .degraded then
    if s.mc.draining then s else { s with mc := { s.mc with draining := true, drainAt := s.clk.core } }
  else modeRefused s

/-- MAINT (R325); a MODE_CMD write that names more than one command is refused. -/
def execMaint (port : CtlPort) (alone : Bool) (s : State) : Host.Outcome State Fault Refusal :=
  s.cinched port fun h => if alone then maintStart h else modeRefused h

/-- Every context is FREE. -/
def ctxsFree (s : Hw) : Bool := s.ctxs.all fun e => e.2.st = .free

/-- The last context is FREE: Maintenance (R325). -/
def maintDrained (s : Hw) : Hw :=
  if s.mc.draining && ctxsFree s then setMode { s with mc := { s.mc with draining := false } } .maint else s

/-- MAINT_DRAIN_END (R325). -/
def execMaintDrainEnd (s : State) : Host.Outcome State Fault Refusal := s.work maintDrained

/-- Public-key jobs of requests stop and burnish; the units' other work goes on (R325). -/
def stopPkJobs (s : Hw) : Hw :=
  (List.range 16).foldl (fun s u => match (s.pkUnit u).work with | some (.segment _ _) | none => s | _ => pkStop s u) s

/-- MAINT_DRAIN_MS has passed: what is in flight is withdrawn ABORTED, and running public-key jobs stop (R325). -/
def maintLimit (s : Hw) : Hw :=
  if s.mc.draining then
    let s := advanceTo s (s.mc.drainAt + 1000 * max 1 (fld s.mc.cfg 0 16) * clkPerUs s)
    stopPkJobs (withdrawAll s (fun _ => true) stAborted)
  else s

/-- MAINT_DRAIN_LIMIT (R325). -/
def execMaintDrainLimit (s : State) : Host.Outcome State Fault Refusal := s.work maintLimit

/-- MODE_CMD.RESUME; refused while a microcode image is VERIFYING (R325). -/
def resume (s : Hw) : Hw :=
  if s.mc.mode = .maint && !s.ucode.verifying then setMode s (serviceMode s) else modeRefused s

/-- RESUME (R323). -/
def execResume (port : CtlPort) (s : State) (alone : Bool := true) : Host.Outcome State Fault Refusal :=
  s.cinched port fun h => if alone then resume h else modeRefused h

/-- MODE_CMD.FTEST: in life-cycle Blank or Factory only (R323). -/
def ftest (s : Hw) : Hw :=
  if s.mc.mode = .maint && lcState s ≤ 1 then setMode s .ftest else modeRefused s

/-- FTEST (R323). -/
def execFtest (port : CtlPort) (s : State) (alone : Bool := true) : Host.Outcome State Fault Refusal :=
  s.cinched port fun h => if alone then ftest h else modeRefused h

/-! ### Seal (R332 to R336) -/

/-- Writes that Seal does not issue: leases not yet issued, step 5 of a commit, and classes 3 and 4 (R333, R334). -/
def sealDrops (w : KpWrite) : Bool :=
  3 ≤ w.cls || (match w.why with | .lease _ | .counter => true | _ => false)

/-- The key intake stops: updates whose keeper writes have not begun are abandoned (R277, R333). -/
def sealIntake (s : Hw) : Hw :=
  (s.keys.updates.filter fun u => !u.begun).foldl (fun s u => updRefuse s u stAborted 0xD) s

/-- Seal is entered (R332, R333): work ends without a record, nothing new is issued, and the time record goes out. -/
def sealEnter (src : BitVec 2) (s : Hw) : Hw :=
  let s := leaveFtest (wake s)
  let s := setMode { s with
    mc := { s.mc with
      sealSrc := src, sealed := false, sealLate := false, sealAt := s.clk.core, sealWrites := 0, draining := false }
    sec := { s.sec with power := .run, retReady := false, sealAck := false } } .seal
  let s := sealIntake (cenEnd (endAllWork (note s 0x8B 3)))
  timeWrite { s with
    ucode := { s.ucode with verifying := false }
    kp := { s.kp with waiting := s.kp.waiting.filter fun w => !sealDrops w } }

/-- Modes from which MODE_CMD.SEAL and a warning lead to Seal (R323). -/
def sealsFrom (s : Hw) : Bool :=
  match s.mc.mode with | .pilot | .full | .degraded | .maint | .ftest => true | _ => false

/-- MODE_CMD.SEAL. -/
def sealCommand (s : Hw) : Hw := if sealsFrom s then sealEnter 2 s else modeRefused s

/-- SEAL (R332). -/
def execSeal (port : CtlPort) (s : State) (alone : Bool := true) : Host.Outcome State Fault Refusal :=
  s.cinched port fun h => if alone then sealCommand h else modeRefused h

/-- A warning is acted on, during bring-up too (R323). -/
def sealWarned (s : Hw) : Hw := if sealsFrom s || s.mc.mode = .cold then sealEnter 1 s else s

/-- por_n is released: step 1 of R327. The tie-offs and the kill line are sampled before anything else (R255, R404); TGEN has
not been read then, so a kill steps from a free value (log 5). A power-fail warning that stands is acted on then (R454). -/
def porRelease (block : BitVec 3) (idcode : BitVec 32) (kill : Bool) (s : Hw) : Hw :=
  if !s.mc.por || s.sec.power = .off then s
  else
    let s := { s with
      sec := { s.sec with coreGood := true }
      mc := { s.mc with por := false, bring := { s.mc.bring with phase := .fuses, startedAt := s.clk.core } }
      hns := { s.hns with block := block, idcode := idcode } }
    if kill then
      let (n, s) := drawFree s
      killPin { s with keys := { s.keys with tgen := (Config.freeWord n).setWidth 6 } }
    else if s.mc.pfw then sealWarned s
    else s

/-- POR_RELEASE (R327). -/
def execPorRelease (block : BitVec 3) (idcode : BitVec 32) (kill : Bool) (s : State) : Host.Outcome State Fault Refusal :=
  s.always (porRelease block idcode kill)

/-- The power-fail warning is seen; before the release it waits, in Retention nothing more happens, in Held nothing at all
(R324, R332, R394, R454). -/
def powerFail (s : Hw) : Hw :=
  if s.mc.mode = .held then s
  else
    let s := { s with mc := { s.mc with pfw := true } }
    if s.mc.por || s.sec.power = .off || s.sec.power = .retention then s else sealWarned s

/-- POWER_FAIL_WARNING (R332). -/
def execPowerFailWarning (s : State) : Host.Outcome State Fault Refusal := s.always powerFail

/-- The warning clears: PFW follows, and the block stays in Seal (R336). -/
def powerFailClear (s : Hw) : Hw := { s with mc := { s.mc with pfw := false } }

/-- POWER_FAIL_WARNING_CLEAR (R336). -/
def execPowerFailWarningClear (s : State) : Host.Outcome State Fault Refusal := s.does powerFailClear

/-- A write that Seal waits for (R334). -/
def sealWaits (w : KpWrite) : Bool := match w.why with | .lease _ | .update _ _ | .time => true | _ => false

/-- Every write of R334 is acknowledged, and every commit that it completes has flipped. -/
def sealComplete (s : Hw) : Bool :=
  !(s.kp.waiting ++ s.kp.out).any sealWaits && !s.keys.updates.any fun u => u.stage = .writing || u.stage = .durable

/-- Seal is reached (R332 step 5, R336). -/
def sealReached (s : Hw) : Hw :=
  if s.mc.mode = .seal && !s.mc.sealed && sealComplete s then
    note { s with
      mc := { s.mc with sealed := true, lastClk := BitVec.ofNat 32 (min (2 ^ 32 - 1) (s.clk.core - s.mc.sealAt)) }
      sec := { s.sec with sealAck := true } } 0x8B 4
  else s

/-- SEAL_REACHED (R332). -/
def execSealReached (s : State) : Host.Outcome State Fault Refusal := s.work sealReached

/-- SEALED is still 0 at 30 µs (R335). -/
def sealTimeout (s : Hw) : Hw :=
  if s.mc.mode = .seal && !s.mc.sealed && !s.mc.sealLate then
    note (advanceTo { s with mc := { s.mc with sealLate := true } } (s.mc.sealAt + 30 * clkPerUs s)) 0x8B 5
  else s

/-- SEAL_TIMEOUT (R335). -/
def execSealTimeout (s : State) : Host.Outcome State Fault Refusal := s.work sealTimeout

end Sys2Proof.Machine
end

