-- ==== Sys2Proof/Machine/Keeper.lean ====
section
/-! DEFINITION. The keeper port's commands: acknowledgements and what each makes durable (R150, R289, R296, R421), its limits
(R151, R304), the format (R292), the recorder's writes (R365, R370), and the central store's patrol (R282 to R287). -/

namespace Sys2Proof.Machine

/-! ### Leases (R150, R298, R421) -/

/-- A slot gains the durable lease that it asked for, and its waiting charges are served (R150, R421). -/
def leaseGain (s : Hw) (slot : Nat) : Hw :=
  let v := s.slot slot
  let l := leaseSize v.alg.toNat
  if v.st != .full || !v.req then s
  else
    let k := v.reqEnd / l - 1
    let w :=
      if !mirrorRules s then { v with ahead := min 2 (v.ahead + 1) }
      else if v.ahead = 0 then { v with counter := k * l, ahead := 1 }
      else { v with owned := v.owned ++ [k], ahead := v.ahead + 1 }
    serveSlot (s.setSlot slot { w with req := false, reqEnd := 0 }) slot

/-- The keeper has acknowledged a lease write. In MIRRORED the lease is durable only when the partner's keeper has too,
and the partner is told of this one (R421, log 41). -/
def leaseAcked (s : Hw) (w : KpWrite) (both : Bool) : Hw :=
  let s := (kpDurable s w).modBring fun b => { b with tackWrites := b.tackWrites.filter fun n => 0x200000 + 64 * n != w.addr }
  if s.hns.mirror = .mirrored && !both then mirrorSend s (4 :: leBytes 8 w.addr) else (kpLeaseSlots [w]).foldl leaseGain s

/-- A lease block's write of this block, the oldest outstanding. -/
def leaseOut (s : Hw) (block : Nat) : Option KpWrite :=
  s.kp.out.find? fun w => w.addr = 0x200000 + 64 * block && w.isLease

/-- The leases of a block become durable: its outstanding write is acknowledged; in MIRRORED the partner has acknowledged
too (R150, R421). -/
def leaseDurable (block : Nat) (s : Hw) : Hw :=
  match leaseOut s block with
  | some w => leaseAcked s w true
  | none =>
    if s.hns.mirror = .mirrored && !(s.kp.waiting.any fun w => w.addr / 64 = 0x8000 + block) then
      (((List.range 4).map (4 * block + ·)).filter fun n => (s.slot n).req && (s.slot n).reqEnd != 0).foldl leaseGain s
    else s

/-- LEASE_DURABLE (R150). -/
def execLeaseDurable (block : BitVec 14) (s : State) : Host.Outcome State Fault Refusal :=
  s.work (leaseDurable block.toNat)

/-- The waiting charge of a slot whose limit falls first fails NONCE_WAIT at it (R151). -/
def chargeExpiry (slot : Nat) (s : Hw) : Hw :=
  match leastBy (fun w => waitLimit s (w.key / 16) w.since) (s.keys.charges.filter fun w => w.slot.toNat = slot) with
  | some w => serveSlot (chargeFail (advanceTo s (waitLimit s (w.key / 16) w.since)) w.key stNonceWait) slot
  | none => s

/-- CHARGE_WAIT_EXPIRY (R151). -/
def execChargeWaitExpiry (slot : BitVec 17) (s : State) : Host.Outcome State Fault Refusal :=
  s.work (chargeExpiry slot.toNat)

/-! ### Acknowledgements (R289, R296, R304, R437) -/

/-- The recorder's tombstone is durable: event 0x03 (R370). -/
def tombDurable (s : Hw) (w : KpWrite) : Hw :=
  let s := kpDurable s w
  note { s with recd := { s.recd with pendingTomb := false, tomb := wordAt w.data 0 } } 0x88 3

/-- The anchor of a format is acknowledged: the keeper is formatted (R292). -/
def formatted (s : Hw) (w : KpWrite) : Hw :=
  let s := kpDurable s w
  note { s with kp := { s.kp with
    formatted := true, formatting := false, sizeMib := BitVec.ofNat 16 (leAt w.data 4 2), timeSeq := 0, timeAt := false } } 0x82 5

/-- A keeper write is acknowledged, and what waited for it goes on. After a block warm reset it is durable and nothing
more (R351). -/
def kpWritten (s : Hw) (w : KpWrite) : Hw :=
  if s.ward.warmPending then kpDurable s w
  else match w.why with
    | .lease _ => leaseAcked s w false
    | .update id commit => updAcked (kpDurable s w) id commit
    | .counter | .time => kpDurable s w
    | .recorder => recDurable (kpDurable s w)
    | .tombstone => tombDurable s w
    | .image | .zero => kpDurable s w
    | .pointer => pointerAcked s w
    | .anchor => formatted s w

/-- A write is answered: acknowledged, or refused, which fences the port (R304, R437). -/
def kpAnswer (s : Hw) (w : KpWrite) (err : Bool) : Hw := if err then raise s 0x82 1 else kpWritten s w

/-- An acknowledgement arrives under a tag; one that nothing asked for is a protocol violation (R437, R352). -/
def keeperAck (tag : BitVec 6) (err : Bool) (s : Hw) : Hw :=
  if s.fenced 0x82 || s.kp.inReset then s
  else match s.kp.out.find? fun w => w.tag = tag with
    | some w => kpAnswer s w err
    | none => raise s 0x82 0x40

/-- KEEPER_WRITE_ACK (R273). -/
def execKeeperWriteAck (tag : BitVec 6) (err : Bool) (s : State) : Host.Outcome State Fault Refusal := s.work (keeperAck tag err)

/-- The acknowledgement limit in core clocks (R305); 0 acts as 1. -/
def ackLimit (s : Hw) : Nat := max 1 (fld s.kp.cfg 0 16) * clkPerUs s

/-- Issue times of the accesses outstanding. -/
def kpIssues (s : Hw) : List Nat :=
  s.kp.out.map (·.issuedAt) ++ s.kp.reads.map (·.issuedAt) ++ (if bringReads s then [s.clk.core] else [])

/-- The oldest access is not answered within its limit: the port is fenced (R304). -/
def ackTimeout (s : Hw) : Hw :=
  if s.fenced 0x82 then s
  else match leastBy id (kpIssues s) with
    | some t => raise (advanceTo s (t + ackLimit s)) 0x82 1
    | none => s

/-- KEEPER_ACK_TIMEOUT (R304). -/
def execKeeperAckTimeout (s : State) : Host.Outcome State Fault Refusal := s.work ackTimeout

/-- The oldest outstanding write of the recorder's pages, or its tombstone, is answered. -/
def recorderAck (why : KpWhy) (err : Bool) (s : Hw) : Hw :=
  match s.kp.out.find? fun w => w.why = why with
  | some w => kpAnswer s w err
  | none => s

/-- RECORDER_UNIT_ACK (R365). -/
def execRecorderUnitAck (err : Bool) (s : State) : Host.Outcome State Fault Refusal := s.work (recorderAck .recorder err)

/-- TOMBSTONE_ACK (R370). -/
def execTombstoneAck (err : Bool) (s : State) : Host.Outcome State Fault Refusal := s.work (recorderAck .tombstone err)

/-- The recorder's own state fails (R352, R370), or one of its page writes is refused (R370). -/
def recorderStop (ownState : Bool) (s : Hw) : Hw :=
  if s.recd.stopped then s
  else if ownState then raise s 0x88 0x40
  else match s.kp.out.find? fun w => w.why = .recorder with
    | some w => recStop { s with kp := { s.kp with out := s.kp.out.filter fun v => v.tag != w.tag } } 2
    | none => s

/-- RECORDER_STOP (R370). -/
def execRecorderStop (ownState : Bool) (s : State) : Host.Outcome State Fault Refusal := s.work (recorderStop ownState)

/-- Every 360 s of operating time a time record is written (R302), which wakes an idle block (R390). -/
def timeTimer (s : Hw) : Hw :=
  match s.mc.mode with
  | .pilot | .full | .degraded | .maint | .ftest =>
    let due := (opSeconds s / 360 + 1) * 360
    timeWrite (wake (advanceOp s due))
  | _ => s

/-- TIME_RECORD_TIMER (R302). -/
def execTimeRecordTimer (s : State) : Host.Outcome State Fault Refusal := s.work timeTimer

/-! ### The format (R292) -/

/-- KP_CMD.FORMAT: accepted while the anchor has been found missing, and with a size of at least 48 MiB. The zero writes
issue as slots allow. -/
def formatStart (s : Hw) : Hw :=
  if !s.kp.formatted && !s.kp.formatting && s.mc.bring.phase = .done && !s.mc.noKeeper && !s.fenced 0x82 && !s.kp.inReset &&
      48 ≤ fld s.kp.cfg 32 16 && s.mc.mode != .seal then
    kpIssue { s with kp := { s.kp with formatting := true, unit := 0 } }
  else s

/-- FORMAT (R292). -/
def execFormat (port : CtlPort) (s : State) : Host.Outcome State Fault Refusal := s.cinched port formatStart

/-- The rest of a format's zero writes is acknowledged: those outstanding, and those that follow them one by one as slots
come free (log 20). -/
def zerosRest (s : Hw) : Hw :=
  let left := formatUnits - s.kp.unit
  let s := (s.kp.out.filter fun w => w.why = .zero).foldl kpDurable { s with kp := { s.kp with unit := formatUnits } }
  kpIssue { s with kp := { s.kp with
    bytes := s.kp.bytes.filter fun e => 0x2400000 ≤ e.1, writes := satInc s.kp.writes left } }

/-- The anchor is acknowledged, after all zero writes. -/
def formatDone (s : Hw) : Hw :=
  if !s.kp.formatting || s.fenced 0x82 || s.kp.inReset then s
  else
    let s := if s.kp.unit ≤ formatUnits && s.mc.mode != .seal then zerosRest s else s
    match s.kp.out.find? fun w => w.why = .anchor with
    | some w => kpWritten s w
    | none => s

/-- FORMAT_COMPLETE (R292). -/
def execFormatComplete (s : State) : Host.Outcome State Fault Refusal := s.work formatDone

/-! ### The patrol of the central store (R282 to R284, R286, R287) -/

/-- The word of the patrol's row that lies in a bank (R280). -/
def patrolWord (bank row : Nat) : Nat := (bank + 8192 - row) % 128

/-- A bank of the patrol's row has been read: the row advances once all 128 have, and a pass ends after the last row (R282). -/
def patrolMove (s : Hw) (bank : Nat) : Hw :=
  let c := s.cs
  if c.patrolBanks.length + 1 < 128 then { s with cs := { c with patrolBanks := bank :: c.patrolBanks } }
  else
    let wraps := c.patrolRow.toNat = 8191
    { s with cs := { c with
      patrolBanks := [], patrolRow := c.patrolRow + 1
      passes := if wraps then satInc c.passes else c.passes
      corrections := if wraps then [] else c.corrections } }

/-- A symbol position has been corrected in one more row of a bank: the 16th marks the sub-array, a third mark is fatal
(R283). -/
def patrolCorrected (s : Hw) (bank : Nat) (pos : BitVec 6) : Hw :=
  let c := s.cs
  let n := tget 0 c.corrections (36 * bank + pos.toNat) + 1
  let s := { s with cs := { c with corrections := tset 0 c.corrections (36 * bank + pos.toNat) n } }
  let m := tget [] c.marks bank
  if n < 16 then s
  else if 2 ≤ m.length then raise s 0x80 0x40 (BitVec.ofNat 16 bank)
  else note { s with cs := { s.cs with marks := tset [] c.marks bank (m ++ [pos]) } } 0x80 5

/-- The patrol finds a lost word in a free buffer: the buffer is zeroed and read back (R287), and what waited to be written
back to it is dropped (R284). -/
def patrolZero (s : Hw) (b : Nat) : Hw :=
  note { s with cs := { s.cs with
    cntFree := satInc s.cs.cntFree
    bufs := tput b .zeroing s.cs.bufs, zeroQ := s.cs.zeroQ ++ [b], recheck := s.cs.recheck ++ [b]
    writeBacks := s.cs.writeBacks.filter fun w => w.1 != b } } 0x80 3

/-- What the patrol finds in a word (R284, R286, R287). -/
def patrolFound (s : Hw) (bank : Nat) (positions : List (BitVec 6)) : Hw :=
  let b := s.cs.patrolRow.toNat
  let w := patrolWord bank b
  match wordDecode s b w positions, tget BufState.free s.cs.bufs b with
  | .clean, _ | _, .zeroing | _, .retired => s
  | .corrected new, _ => new.foldl (fun s p => patrolCorrected s bank p) (storeRead s b w positions)
  | .lost, .owned _ => storeRead s b w positions
  | .lost, .free => patrolZero s b

/-- The patrol reads the word of its row in one bank, once in each row, in Run and in Idle (R282). It meets a symbol that an
injection has flipped, `flipped` by its position (R359, log 157). -/
def patrolRead (bank : Nat) (positions : List (BitVec 6)) (flipped : BitVec 6) (s : Hw) : Hw :=
  if s.cs.patrolBanks.contains bank || (s.sec.power != .run && s.sec.power != .idle) then s
  else
    let (flip, s) := takeFlip s 0x80
    patrolMove (patrolFound s bank (if flip && !positions.contains flipped then flipped :: positions else positions)) bank

/-- PATROL_READ (R282). -/
def execPatrolRead (bank : BitVec 7) (positions : List (BitVec 6)) (flipped : BitVec 6) (s : State) :
    Host.Outcome State Fault Refusal :=
  s.work (patrolRead bank.toNat positions flipped)

/-- A corrected word is written back in a free cycle of its bank (R284). -/
def writeBack (b w : Nat) (s : Hw) : Hw :=
  { s with cs := { s.cs with writeBacks := s.cs.writeBacks.filter fun x => x != (b, w) } }

/-- CORRECTED_WRITE_BACK (R284). -/
def execCorrectedWriteBack (buf : BitVec 13) (word : BitVec 7) (s : State) : Host.Outcome State Fault Refusal :=
  s.work (writeBack buf.toNat word.toNat)

end Sys2Proof.Machine
end

