-- ==== Sys2Proof/Machine/KeyUpdates.lean ====
section
/-! DEFINITION. The commands of the key intake (R268 to R279): a message through a control port, and the stages that every
message runs through. -/

namespace Sys2Proof.Machine

/-! ### A message through a control port (R268, R269, R279) -/

/-- A new message is refused at UPD_CTL.START. -/
def intakeRefuse (s : Hw) (p : CtlPort) (st : BitVec 8) (reason : BitVec 4) : Hw :=
  let s := { s with keys := { s.keys with refusedCnt := satInc s.keys.refusedCnt } }
  s.setIntake p { s.intake p with state := 4, result := st, reason := reason, words := 0, bytes := [] }

/-- Domain 0 may take the 4 buffers of an intake now, without a wait (R30, R268). -/
def intakeFits (s : Hw) : Bool :=
  bufCount s 0 + 4 ≤ domQuota s.active 0 && canAllocate s s.active 0 4 s.cs.waiters.isEmpty

/-- UPD_CTL.START: the port's intake takes 4 buffers of domain 0 and receives (R268). -/
def intakeStart (p : CtlPort) (s : Hw) : Hw :=
  let v := s.intake p
  if v.state != 0 && v.state != 4 then s
  else if !intakeMode s then intakeRefuse s p stAborted 0xD
  else if !intakeFits s then intakeRefuse s p stQuota 0
  else
    let (bufs, s) := takeBuffers s 0 4
    s.setIntake p { v with state := 1, words := 0, bytes := [], result := 0, reason := 0, bufs := bufs }

/-- START (R268). -/
def execStart (port : CtlPort) (s : State) : Host.Outcome State Fault Refusal :=
  s.cinched port (intakeStart port)

/-- UPD_ABORT (R279). -/
def execUpdAbort (port : CtlPort) (s : State) : Host.Outcome State Fault Refusal :=
  s.cinched port fun h => abandonIntake h port

/-- A word of the message arrives; once TOTAL_LEN bytes are there, the intake processes them. A TOTAL_LEN beyond the 4
buffers is refused at check 1 at once. -/
def intakeWord (p : CtlPort) (w : Word) (s : Hw) : Hw :=
  let v := s.intake p
  if v.state != 1 then s
  else
    let v := { v with bytes := v.bytes ++ leBytes 8 w.toNat, words := v.words + 1 }
    let s := s.setIntake p v
    let total := umTotal v.bytes
    if 16384 < total then
      intakeDone { s with keys := { s.keys with refusedCnt := satInc s.keys.refusedCnt } } p stDescriptorInvalid 1
    else if total ≤ v.bytes.length then updAccept s (.ctl p) (v.bytes.take total)
    else s

/-- UPD_DATA (R268). -/
def execUpdData (port : CtlPort) (word : Word) (s : State) : Host.Outcome State Fault Refusal :=
  s.cinched port (intakeWord port word)

/-! ### The stages -/

/-- UPDATE_VERIFIED (R270). -/
def execUpdateVerified (id : BitVec 16) (s : State) : Host.Outcome State Fault Refusal := s.work fun h => updVerified h id.toNat

/-- UPDATE_STAGED (R273). -/
def execUpdateStaged (id : BitVec 16) (s : State) : Host.Outcome State Fault Refusal := s.work fun h => updStaged h id.toNat

/-- UPDATE_FLIP (R273). -/
def execUpdateFlip (id : BitVec 16) (s : State) : Host.Outcome State Fault Refusal := s.work fun h => updFlip h id.toNat

/-- 1 ms passes and no staging half is free: QUOTA (R272); or the heartbeat loss time passes without the partner's
acknowledgement: MIRROR_LOST (R278, log 42). -/
def stagingExpiry (id : Nat) (s : Hw) : Hw :=
  match updOf s id with
  | some u =>
    if u.stage = .waitHalf then updRefuse (advanceTo s (u.since + 1000 * clkPerUs s)) u stQuota 0xC
    else if u.stage = .partner then updRefuse (advanceAon s (u.since + 33)) u stMirrorLost 0xE
    else s
  | none => s

/-- STAGING_WAIT_EXPIRY (R272). -/
def execStagingWaitExpiry (id : BitVec 16) (s : State) : Host.Outcome State Fault Refusal :=
  s.work (stagingExpiry id.toNat)

/-- The partner's commit is durable: the leader begins its own step 3 (R278). -/
def partnerAck (id : Nat) (s : Hw) : Hw :=
  match updOf s id with
  | some u => if u.stage = .partner then updStaged (setUpd s { u with stage := .staging, acked := true }) id else s
  | none => s

/-- PARTNER_UPDATE_ACK (R278). -/
def execPartnerUpdateAck (id : BitVec 16) (s : State) : Host.Outcome State Fault Refusal := s.work (partnerAck id.toNat)

/-- ENROL_RECEIPT (R267). -/
def execEnrolReceipt (id : BitVec 16) (s : State) : Host.Outcome State Fault Refusal := s.work fun h => enrolReceipt h id.toNat

end Sys2Proof.Machine
end

