-- ==== Sys2Proof/Machine/Faults.lean ====
section
/-! DEFINITION. The fault commands (R341 to R359): events raised by the hardware, servicing, unit resets, the block warm reset
(R351) and fault injection. -/

namespace Sys2Proof.Machine

/-! ### Events of the hardware (R348, R352, R354) -/

/-- A slot is POISONED (R239). -/
def poisonSlot (s : Hw) (slot : Nat) : Hw :=
  if slotExists slot then s.setSlot slot { s.slot slot with st := .poisoned } else s

/-- An uncorrectable word of the library is met by the context that fetches it: the word stays so in its set, and every
request that fetches it fails (R352). -/
def libraryLost (s : Hw) (c : Nat) : Hw :=
  if (s.ctx c).st != .ready || (s.ctx c).req.isNone then s
  else
    let w := ((s.ctx c).epoch, fetchWord s c)
    fetchLost { s with libBad := if s.libBad.contains w then s.libBad else w :: s.libBad } c

/-- What an event of a unit that it does not fence brings about (R239, R352). The detail is the event's DATA but for the key
store, of whose slot ID DATA holds 16 bits. -/
def eventEffect (s : Hw) (u e : Nat) (data : BitVec 17) : Hw :=
  if u = 0x81 && e = 0x40 then poisonSlot s data.toNat
  else if u < 0x80 && (u % 16 = 7 || u % 16 = 8) && e = 0x43 then
    { s with ucode := { s.ucode with stores := tdel (2 * (u / 16) + u % 16 - 7) s.ucode.stores } }
  else s

/-- An event as its detector raises it. The detail of event 0x40 of the program store is the fetching context, from which its
DATA, the program's entry, follows (log 43). -/
def detected (s : Hw) (u e : Nat) (data : BitVec 17) : Hw :=
  if u = 0x86 && e = 0x40 then libraryLost s data.toNat
  else eventEffect (raise s u e (data.setWidth 16)) u e data

/-- A hardware event of a class, numbered from 0x40 (R352); any other number is reserved. -/
def hardware (cls : BitVec 2) (u e : Nat) (data : BitVec 17) (s : Hw) : Hw :=
  match eventRow s u e with
  | some row => if 0x40 ≤ e && row.cls = cls then detected s u e data else s
  | none => s

/-- HARDWARE_EVENT (R348). -/
def execHardwareEvent (unit event : BitVec 8) (detail : BitVec 17) (s : State) : Host.Outcome State Fault Refusal :=
  s.work (hardware 2 unit.toNat event.toNat detail)

/-- CORRECTED_EVENT (R341). -/
def execCorrectedEvent (unit event : BitVec 8) (data : BitVec 16) (s : State) : Host.Outcome State Fault Refusal :=
  s.work (hardware 1 unit.toNat event.toNat (data.setWidth 17))

/-- FATAL_EVENT (R354). -/
def execFatalEvent (unit event : BitVec 8) (data : BitVec 16) (s : State) : Host.Outcome State Fault Refusal :=
  s.work (hardware 3 unit.toNat event.toNat (data.setWidth 17))

/-- The pulse of err_o ends at the third aon_clk edge after it rose, and a LEVEL write that waited takes effect (R357, R358). -/
def pulseEnd (s : Hw) : Hw :=
  let w := s.ward
  if w.errPulse then
    { advanceAon s (w.errAt + 3) with ward := { w with errPulse := false, errLevel := w.levelWrite.getD w.errLevel, levelWrite := none } }
  else s

/-- ERR_PULSE_END (R357): the pulse runs on aon_clk, in Held and in Retention too. -/
def execErrPulseEnd (s : State) : Host.Outcome State Fault Refusal := s.does pulseEnd

/-! ### Servicing (R343, R344) -/

/-- FLT_STATUS.PEND is written 1. -/
def serviced (b : FltBlock) : FltBlock := { b with pend := false, cls := 0, first := none, worst := 0, merge := 0 }

/-- PEND (R343). -/
def execPend (port : CtlPort) (unit : BitVec 8) (s : State) : Host.Outcome State Fault Refusal :=
  s.opened port fun h => (nextClock h).modBlk unit.toNat serviced

/-- HIST_CLR (R343). -/
def execHistClr (port : CtlPort) (unit : BitVec 8) (s : State) : Host.Outcome State Fault Refusal :=
  s.cinched port fun h => h.modBlk unit.toNat fun b => { b with hist := [] }

/-! ### Unit resets (R349, R350) -/

/-- A unit has a reset in R349. -/
def unitResets (u : Nat) : Bool :=
  (u < 0x80 && u % 16 ≤ 13) || u = 0x82 || u = 0x84 || u = 0x87 || u = 0x88 || u = 0x89 || (0x90 ≤ u && u ≤ 0xB7) ||
    u = 0xC0 || u = 0xC1 || u = 0xC8

/-- FLT_CTL.UNIT_RST (R350). -/
def unitReset (u : Nat) (s : Hw) : Hw :=
  if !unitExists u then s else
  let b := s.blk u
  let mode := match s.mc.mode with | .pilot | .full | .degraded | .maint | .ftest => true | _ => false
  if b.fenced && !b.rstBusy && mode && unitResets u && b.fences.toNat < 3 then
    let s := s.modBlk u fun b => { b with rstBusy := true, rstAt := if u = 0xC8 then s.clk.aon else s.clk.core }
    if u = 0x84 then { s with sec := { s.sec with entStartup := true } } else s
  else note s 0x83 5 (BitVec.ofNat 16 u)

/-- UNIT_RST (R350). -/
def execUnitRst (port : CtlPort) (unit : BitVec 8) (s : State) : Host.Outcome State Fault Refusal :=
  s.cinched port (unitReset unit.toNat)

/-- Leases that a fence of the keeper port lost are requested again (R349). -/
def leasesAgain (s : Hw) : Hw :=
  (s.keys.slots.filter fun e => e.2.reqEnd != 0 && !e.2.req).foldl (fun s e =>
    if mirrorRules s then requestLease s e.1 else if kpLive s then writeLease s e.1 e.2.reqEnd else s) s

/-- What the reset of a unit does to its state (R349, R371, R409). -/
def unitCleared (s : Hw) (u : Nat) : Hw :=
  if u < 0x80 then
    if u % 16 = 7 || u % 16 = 8 then
      let k := 2 * (u / 16) + u % 16 - 7
      let v := s.pkUnit k
      let s := if v.phase = .free || v.phase = .burnish then s else pkEnd (segmentBack s v) k stEngineFenced
      let s : Hw := { s with ucode := { s.ucode with stores := tset [] s.ucode.stores k s.ucode.body } }
      s.modPku k fun v => v.released s.clk.core
    else if 9 ≤ u % 16 && u % 16 ≤ 12 then
      { s with ctxs := s.ctxs.map fun e => if awlOf e.1 = 4 * (u / 16) + u % 16 - 9 then (e.1, { e.2 with scratch := [] }) else e }
    else s
  else if u = 0x82 then leasesAgain s
  else if u = 0x84 then
    let s := startupPass s
    let s := { s with sec := { s.sec with entStartup := false, entHealthy := true, entSources := 15 } }
    (List.range 8).foldl (fun s p => s.modPair p fun v =>
      if v.entStop then
        { v with workerAsked := v.workerAsked || !v.seeded, checkerAsked := v.checkerAsked || !v.seeded }
      else v) s
  else if u = 0x88 then recRestart s
  else if 0xB0 ≤ u && u ≤ 0xB7 then s.modLink (u - 0xB0) fun l => { l with st := .down }
  else s

/-- The duration of a unit reset in core clocks, for the units whose reset R349 counts in them; 0 for the others (log 156). The
sensors' lasts 256 aon_clk periods (R400). -/
def resetClocks (u : Nat) : Nat :=
  let off := u % 16
  if u < 0x80 then
    (if off ≤ 1 then 1024 else if off ≤ 6 then 512 else if off ≤ 8 then 0 else if off ≤ 12 then 2048 else 512)
  else if u = 0x87 || u = 0x88 || u = 0x89 then 512
  else 0

/-- The reset of a memory master port waits for the answer or the timeout of every transaction outstanding on it (R349). -/
def resetWaits (s : Hw) (u : Nat) : Bool := 0x90 ≤ u && u ≤ 0xAF && s.mm.txns.any fun t => t.port = u - 0x90

/-- A unit reset ends: its self-test passes and the fence lifts, or it fails (R350). -/
def unitDone (u : Nat) (passed : Bool) (s : Hw) : Hw :=
  if !(s.blk u).rstBusy || resetWaits s u then s
  else
    let at_ := (s.blk u).rstAt
    let s := if u = 0xC8 then advanceAon s (at_ + 256) else advanceTo s (at_ + resetClocks u)
    if passed then
      let s := unitCleared (s.modBlk u fun b => { b with fenced := false, rstBusy := false }) u
      fenceOver (note s 0x83 1 (BitVec.ofNat 16 u))
    else note (s.modBlk u fun b => { b with rstBusy := false, fences := satInc b.fences }) 0x83 2 (BitVec.ofNat 16 u)

/-- UNIT_RESET_DONE (R350). -/
def execUnitResetDone (unit : BitVec 8) (passed : Bool) (s : State) : Host.Outcome State Fault Refusal :=
  s.work (unitDone unit.toNat passed)

/-! ### Block warm reset (R323, R351) -/

/-- A fault block after a block warm reset: history, first error and CORR, UNCORR survive. -/
def warmBlock (b : FltBlock) : FltBlock :=
  { b with fenced := false, rstBusy := false, irqCorr := false, fences := 0, hselA := 0, hselB := 0, inj := 0, flip := false, rstAt := 0 }

/-- The worst warning-to-Seal time enters the extremes when Seal is left (R336, R362). -/
def sealExtreme (s : Hw) : Extremes :=
  let x := s.recd.ext
  let n := s.mc.lastClk.toNat
  if s.mc.mode = .seal && s.mc.sealed && !s.recd.stopped then
    match x.sealClk with
    | some (m, _) => if m < n then { x with sealClk := some (n, opSeconds s) } else x
    | none => { x with sealClk := some (n, opSeconds s) }
  else x

/-- What survives in the recorder (R351, R360, R371). -/
def warmRecorder (s : Hw) : Recorder :=
  let r := s.recd
  { hist := r.hist, ext := sealExtreme s, codes := r.codes.map fun c => { c with queued := false }, overflow := r.overflow
    overflowLogged := r.overflowLogged, page := r.page, pageSeq := r.pageSeq, rseq := r.rseq, tomb := r.tomb
    lastCheckpoint := r.lastCheckpoint }

/-- What survives in the key store: the root, TGEN, the kill line, and what is counted since Cold (R241, R256, R323). -/
def warmKeys (k : KeyStore) : KeyStore :=
  { root := k.root, rootKey := k.rootKey, tgen := k.tgen, kill := k.kill, killAck := k.killAck, kills := k.kills
    stepBusy := k.stepBusy, zeroized := k.zeroized, failTag := k.failTag, skipOld := k.skipOld, restored := k.restored
    committed := k.committed, refusedCnt := k.refusedCnt }

/-- What survives in the keeper port: the region, the writes under way, and what is counted since Cold. -/
def warmKeeper (k : Keeper) : Keeper :=
  { bytes := k.bytes, out := k.out, cfg := k.cfg, worstAck := k.worstAck
    writes := k.writes, timeSeq := k.timeSeq, timeAt := k.timeAt, inReset := k.inReset }

/-- What survives of life cycle, debug, calibration and sensors (R351, R386). -/
def warmSecurity (c : Security) : Security :=
  { lcBits := c.lcBits, lcResult := c.lcResult, debug := c.debug, dbgResult := c.dbgResult, retentions := c.retentions
    coreGood := c.coreGood, calFuse0 := c.calFuse0, calFuse1 := c.calFuse1, entOutputs := c.entOutputs, temp := c.temp
    trips := c.trips, tripCnt := c.tripCnt, sbReset := c.sbReset, alReset := c.alReset, fzReset := c.fzReset
    trReset := c.trReset, ctlaReset := c.ctlaReset, ctlbReset := c.ctlbReset }

/-- What survives of the harness: the tie-offs, the PHY levels, and what is counted since Cold. -/
def warmHarness (h : Harness) : Harness :=
  { block := h.block, idcode := h.idcode, losses := h.losses
    links := (h.links.map fun e => (e.1, ({ phyUp := e.2.phyUp, inReset := e.2.inReset, replays := e.2.replays } : Link))).filter
      fun e => e.2 != {} }

/-- A block warm reset begins (R351). DATA of its event: 0 the pin, 1 the register. -/
def warmReset (data : BitVec 16) (s : Hw) : Hw :=
  if s.mc.mode = .cold || s.mc.mode = .held then s
  else
    let w := s.ward
    let t : Hw := { State.reset.hw with
      clk := s.clk
      mc := { mode := s.mc.mode, por := false, pfw := s.mc.pfw, bring := { warm := true } }
      flt := (s.flt.map fun e => (e.1, warmBlock e.2)).filter fun e => e.2 != {}
      ward := { errPulse := w.errPulse, errAt := w.errAt, pulses := w.pulses, warmCount := satInc w.warmCount, warmPending := true }
      ucode := { s.ucode with verifying := false, addr := 0, base := 0, port := none, fetched := [], fetchOut := 0, fetchNext := 0 }
      keys := warmKeys s.keys
      kp := warmKeeper s.kp
      mm := { txns := s.mm.txns.map fun t => { t with owner := .orphan } }
      recd := warmRecorder s
      sec := warmSecurity s.sec
      hns := warmHarness s.hns
      dbs := (s.dbs.map fun e => (e.1, ({ inReset := e.2.inReset, held := e.2.held } : DbPort))).filter fun e => e.2 != {}
      tap := s.tap
      freeCount := s.freeCount }
    setMode (note t 0x83 3 data) .cold

/-- WARM (R351). -/
def execWarm (port : CtlPort) (s : State) : Host.Outcome State Fault Refusal := s.cinched port (warmReset 1)

/-- BLK_RST (R450). -/
def execBlkRst (s : State) : Host.Outcome State Fault Refusal := s.work (warmReset 0)

/-- Every keeper write of before has been resolved, and bring-up runs from step 2 without the fuses (R351). -/
def warmStart (s : Hw) : Hw :=
  if !s.ward.warmPending || !s.kp.out.isEmpty then s
  else
    let s : Hw := { s with
      ward := { s.ward with warmPending := false }
      sec := { s.sec with entStartup := true }
      mc := { s.mc with bring := { s.mc.bring with phase := .head, fusesDone := true, startedAt := s.clk.core } } }
    if s.fenced 0x82 then bringDone { s with mc := { s.mc with noKeeper := true } } else s

/-- WARM_BRINGUP_START (R351). -/
def execWarmBringupStart (s : State) : Host.Outcome State Fault Refusal := s.work warmStart

/-! ### Fault injection (R359) -/

/-- FLT_INJ is written with ARM: in Factory Test only. -/
def injArm (u : Nat) (v : Word) (s : Hw) : Hw :=
  if s.mc.mode != .ftest then s
  else
    let reserved := fld v 1 2 = 1 && (eventRow s u (fld v 8 8)).isNone
    s.modBlk u fun b => { b with inj := v &&& (if reserved then 0xffff0000ff06#64 else 0xffff0000ff07#64) }

/-- ARM (R359). -/
def execArm (port : CtlPort) (unit : BitVec 8) (value : Word) (s : State) : Host.Outcome State Fault Refusal :=
  s.cinched port (injArm unit.toNat (value ||| 1))

/-- The lowest-numbered READY context, which meets an injected event of the program store (log 43). -/
def fetchingCtx (s : Hw) : Nat := ((s.ctxs.find? fun e => e.2.st = .ready).map (·.1)).getD 0

/-- Whether R359 names a bit that KIND 2 flips in a unit: in a cipher pair, a public-key unit, the central store. -/
def flipsIn (u : Nat) : Bool := (u < 0x80 && (u % 16 = 0 || u % 16 = 7 || u % 16 = 8)) || u = 0x80

/-- DELAY has passed: KIND 1 raises its event as if detected; KIND 2 flips a bit, which the unit's detector finds at its next
compare or patrol read, and the Warden's comparator at once (R359, log 157). -/
def inject (u : Nat) (s : Hw) : Hw :=
  let v := (s.blk u).inj
  if s.mc.mode != .ftest || !bit v 0 then s
  else
    let s := (advanceTo s (s.clk.core + fld v 32 16)).modBlk u fun b => { b with inj := v &&& ~~~1#64 }
    match fld v 1 2 with
    | 1 => detected s u (fld v 8 8) (if u = 0x86 then BitVec.ofNat 17 (fetchingCtx s) else 0)
    | 2 => if u = 0x83 then raise s 0x83 0x40 else if flipsIn u then s.modBlk u fun b => { b with flip := true } else s
    | _ => s

/-- FAULT_INJECTION (R359). -/
def execFaultInjection (unit : BitVec 8) (s : State) : Host.Outcome State Fault Refusal := s.work (inject unit.toNat)

end Sys2Proof.Machine
end

