-- ==== Sys2Proof/Machine/PublicKey.lean ====
section
/-! DEFINITION. The public-key units' commands (R196, R207, R221 to R225, R229), the curve tables' clear (R228), the
microcode image (R212 to R218), and the identity (R246). -/

namespace Sys2Proof.Machine

/-- The identity's public keys are still to be computed, an image being ACTIVE and a root live (R246). -/
def identityDue (s : Hw) : Bool :=
  s.ucode.active && s.keys.root != .none && !s.keys.idReady && !s.pku.any fun e => e.2.work = some .identity && e.2.phase = .compute

/-- The lowest-numbered unit that is not fenced takes the computation of the identity (R246). -/
def pkTakeIdentity (s : Hw) (u : Nat) : Hw :=
  s.modPku u fun v => { v.taking s .identity 0 s.seam.epoch 0x0125 6 0 0 with phase := .compute }

/-- A part of the key intake's work is taken: its operands lie in the key store (R245, R266 to R268, R270). -/
def pkTakeInner (s : Hw) (u id part mark cost : Nat) : Hw :=
  match updOf s id with
  | none => s
  | some v =>
    let o := innerOp v.message part
    let s := pkWait s (u / 2) v.since
    let s := setUpd s { v with parts := v.parts.filter fun p => p != part }
    let s := s.modPku u fun w => w.taking s (.inner id part mark) 0 s.seam.epoch o.1 o.2 64 cost
    let (key, args) := innerArgs s v part
    let n := if part = 4 then latticeDraw o.1 else if pkDraws o.1 then pkDrawLen o.1 o.2 else 0
    pkTakeInside s u o.1 n key args

/-- A unit takes the next work of its bench (R207): unit 0 goes first when both are free, and Maintenance pauses service
(R217, R325). The identity goes before any other (R246). -/
def pkTake (u : Nat) (s : Hw) : Hw :=
  let idle := fun k => (s.pkUnit k).phase = .free && pkuServes s k
  if !idle u || s.mc.mode = .maint || s.mc.mode = .seal then s
  else if identityDue s && ucUnit s = some u then pkTakeIdentity s u
  else if u % 2 = 1 && idle (u - 1) then s
  else match pkNext s (u / 2) with
    | none => s
    | some (i, s) =>
      match i.work with
      | .job key => pkTakeJob s u key i.cost
      | .katt key part => pkTakeKatt s u key part i.cost
      | .segment b id => pkTakeSegment s u b id i.cost
      | .inner id part mark => pkTakeInner s u id part mark i.cost
      | .identity => s

/-- PK_JOB_TAKE (R221). -/
def execPkJobTake (unit : BitVec 4) (s : State) : Host.Outcome State Fault Refusal := s.work (pkTake unit.toNat)

/-- The fixed count ends (R196): both computations agree and the result goes out, or the unit is fenced and the job ends
ENGINE_FENCED (R16, R224). The work of a unit that was fenced meanwhile ends so too. A segment of a curve check that
agrees, and the identity, end by commands of their own (R229, R246). -/
def pkRelease (u : Nat) (agree : Bool) (s : Hw) : Hw :=
  let v := s.pkUnit u
  let apart := match v.work with | some (.segment _ _) | some .identity => true | _ => false
  if v.phase != .compute then s
  else
  let (flip, s) := takeFlip s (pkuUnit u)
  let agree := agree && !flip && pkAnswer (v.pkIn true) = pkAnswer (v.pkIn false)
  if apart then
    (if agree || s.out (pkuUnit u) then s
     else raise (pkBurnish (segmentBack s v) u stEngineFenced) (pkuUnit u) 0x40)
  else if s.out (pkuUnit u) then pkEnd s u stEngineFenced
  else if agree then pkReleased s u
  else raise (pkEnd s u stEngineFenced) (pkuUnit u) 0x40 v.op

/-- PK_RELEASE (R196). -/
def execPkRelease (unit : BitVec 4) (agree : Bool) (s : State) : Host.Outcome State Fault Refusal :=
  s.work (pkRelease unit.toNat agree)

/-- PK_RESULT_WRITTEN (R222). -/
def execPkResultWritten (unit : BitVec 4) (s : State) : Host.Outcome State Fault Refusal := s.work (pkWritten unit.toNat)

/-- The burnish ends, read back zero or not (R225); what the unit was busy for is counted (R210). -/
def burnishEnd (u : Nat) (clean : Bool) (s : Hw) : Hw :=
  let v := s.pkUnit u
  if v.phase != .burnish then s
  else
    let s := s.modPku u fun v => v.released s.clk.core
    if clean then s else raise s (pkuUnit u) 0x42

/-- BURNISH_END (R225): the read-back that follows a kill runs in Held too, once pk_clk runs (R226). -/
def execBurnishEnd (unit : BitVec 4) (clean : Bool) (s : State) : Host.Outcome State Fault Refusal :=
  s.always fun h => if h.mc.por || h.sec.power = .retention || h.sec.power = .off then h else burnishEnd unit.toNat clean h

/-- CURVE_SEGMENT_END (R229). -/
def execCurveSegmentEnd (unit : BitVec 4) (s : State) : Host.Outcome State Fault Refusal := s.work (segmentEnd unit.toNat)

/-- PKE_CRV_CLR.CLEAR: every entry that is not CHECKING goes (R228). -/
def curvesClear (s : Hw) : Hw :=
  { s with pkb := s.pkb.map fun e => (e.1, { e.2 with curves := e.2.curves.filter fun c => c.st = .checking }) }

/-- CLEAR (R228). -/
def execClear (port : CtlPort) (s : State) : Host.Outcome State Fault Refusal := s.cinched port curvesClear

/-! ### The microcode image -/

/-- A LOAD is accepted (R214). -/
def loadAllowed (s : Hw) : Bool :=
  !s.ucode.verifying &&
    (if s.ucode.active then s.mc.mode = .maint
     else s.mc.mode = .pilot || s.mc.mode = .full || s.mc.mode = .degraded || s.mc.mode = .maint || s.mc.mode = .ftest)

/-- LOAD fetches the image's header, which gives its length, through a memory master port (R214). -/
def ucLoad (s : Hw) : Hw :=
  if !loadAllowed s || (ucUnit s).isNone then ucNote s 0x15
  else
    let s := { s with ucode := { s.ucode with
      verifying := true, base := s.ucode.addr.toNat, port := mmBind s, fetched := [], fetchOut := 0, fetchNext := 0
      refused := false, unit := ucUnit s } }
    let s := match s.ucode.port with | some p => mmChose s p | none => s
    ucGo s

/-- LOAD (R214). -/
def execLoad (port : CtlPort) (s : State) : Host.Outcome State Fault Refusal := s.cinched port ucLoad

/-- The ROM verify routine ends: the image becomes ACTIVE in the shared store and in the 16 control stores, or is refused
(R215, R216). Where its two computations disagree the unit is fenced, and the routine runs again on the next one (R16,
log 146). -/
def ucVerifyEnd (agree : Bool) (s : Hw) : Hw :=
  let s : Hw := { s with ucode := { s.ucode with unit := if s.ucode.verifying then ucRunner s else s.ucode.unit } }
  let c := s.ucode
  if !c.verifying || !ucFetched s || c.unit.isNone then s
  else if !agree && !c.refused then raise s (pkuUnit (c.unit.getD 0)) 0x40
  else
    let ended := { c with verifying := false, fetched := [], fetchNext := 0, port := none, refused := false, base := 0 }
    match ucVerify s with
    | some (code, e) => ucNote { s with ucode := { ended with refuse := BitVec.ofNat 4 code } } e
    | none =>
      ucNote { s with ucode := { ended with
        active := true, refuse := 0, svn := BitVec.ofNat 5 (fld (ucHdr s) 8 5), version := BitVec.ofNat 16 (fld (ucHdr s) 16 16)
        body := mread c.fetched 64 (ucBody s)
        stores := (List.range 16).map fun u => (u, mread c.fetched 64 (ucBody s)) } } 0x10

/-- UCODE_VERIFY_END (R215). -/
def execUcodeVerifyEnd (s : State) (agree : Bool := true) : Host.Outcome State Fault Refusal := s.work (ucVerifyEnd agree)

/-- RAISE_FLOOR is accepted in Provisioned and Fielded while the active image's SVN is above FLOOR: the next position is
blown, and the rest as each blow answers (R218). -/
def raiseFloor (s : Hw) : Hw :=
  let lc := lcState s
  if (lc = 2 || lc = 3) && s.ucode.active && s.ucode.floor.toNat < s.ucode.svn.toNat && !s.sec.fuse.any (fun f => f.1 = .floor) then
    { s with sec := { s.sec with fuse := s.sec.fuse ++ [(.floor, 19, some (16 + s.ucode.floor.toNat))] } }
  else s

/-- RAISE_FLOOR (R218). -/
def execRaiseFloor (port : CtlPort) (s : State) : Host.Outcome State Fault Refusal := s.cinched port raiseFloor

/-! ### The identity -/

/-- The computation of the identity's public keys ends on the unit that took it (R246). A unit that was fenced meanwhile
withholds it, and the next one computes it again. -/
def identityDone (s : Hw) : Hw :=
  match s.pku.find? fun e => e.2.work = some .identity && e.2.phase = .compute with
  | none => s
  | some (u, _) =>
    if s.out (pkuUnit u) || s.keys.root = .none then pkBurnish s u stEngineFenced
    else
      let (ec, ml) := identityPublic s
      pkBurnish { s with keys := { s.keys with idReady := true, idEc := ec, idMl := ml } } u stOk

/-- IDENTITY_READY (R246). -/
def execIdentityReady (s : State) : Host.Outcome State Fault Refusal := s.work identityDone

end Sys2Proof.Machine
end

