-- ==== Sys2Proof/Machine/Records.lean ====
section
/-! DEFINITION. The commands of the recorder (R364, R367, R369, R372), the temperature samples (R360, R402), and the census
(R374 to R380). -/

namespace Sys2Proof.Machine

/-! ### The recorder -/

/-- REC_CTL.FREEZE: the first port to freeze owns the freeze (R369). -/
def recFreeze (p : CtlPort) (s : Hw) : Hw :=
  if s.recd.frozen then s else { s with recd := { s.recd with frozen := true, owner := some p, frozenAt := s.clk.aon } }

/-- FREEZE (R369). -/
def execFreeze (port : CtlPort) (s : State) : Host.Outcome State Fault Refusal := s.opened port (recFreeze port)

/-- REC_CTL.THAW, of the owner alone (R369). -/
def recThawBy (p : CtlPort) (s : Hw) : Hw := if s.recd.frozen && s.recd.owner = some p then recThaw s else s

/-- THAW (R369). -/
def execThaw (port : CtlPort) (s : State) : Host.Outcome State Fault Refusal := s.opened port (recThawBy port)

/-- A checkpoint is requested; Seal writes no recorder records (R333, R367). -/
def recRequest (s : Hw) : Hw := if s.mc.mode = .seal then s else recPump (recCheckpoint s)

/-- FLUSH (R367). -/
def execFlush (port : CtlPort) (s : State) : Host.Outcome State Fault Refusal := s.opened port recRequest

/-- REC_POLICY.PERIOD_S; values below 60 act as 60 (R372). -/
def recPeriod (s : Hw) : Nat := max 60 (fld (cfgWord s.active 0x9010) 0 16)

/-- PERIOD_S of operating time has passed since the last checkpoint (R367), which wakes an idle block (R390). -/
def checkpointTimer (s : Hw) : Hw :=
  recRequest (wake (advanceOp s (s.recd.lastCheckpoint + recPeriod s)))

/-- CHECKPOINT_TIMER (R367). -/
def execCheckpointTimer (s : State) : Host.Outcome State Fault Refusal := s.work checkpointTimer

/-- REC_POLICY.REFILL_S in aon_clk periods; 0 acts as 1 (R372). -/
def refillPeriods (s : Hw) : Nat := 32768 * max 1 (fld (cfgWord s.active 0x9010) 40 8)

/-- REFILL_S has passed for an entry of the count table (R364). A stopped recorder stands (R371). -/
def tokenRefill (code : BitVec 16) (s : Hw) : Hw :=
  match s.recd.stopped, s.recd.codes.find? (·.code = code) with
  | false, some e =>
    let t := e.refillAt + refillPeriods s
    let s := advanceAon s t
    { s with recd := { s.recd with codes := s.recd.codes.map fun c =>
        if c.code = code then { c with tokens := min (recBurst s) (c.tokens + 1), refillAt := t } else c } }
  | _, _ => s

/-- TOKEN_REFILL (R364). -/
def execTokenRefill (code : BitVec 16) (s : State) : Host.Outcome State Fault Refusal := s.work (tokenRefill code)

/-- The limit of a freeze in aon_clk periods (R369). -/
abbrev freezeLimit : Nat := 1966080

/-- 60 s have passed from the freeze: AUTO_THAW, event 0x02 (R369), which wakes an idle block (R390). -/
def freezeAutoThaw (s : Hw) : Hw :=
  if s.recd.frozen then
    let s := wake (advanceAon s (s.recd.frozenAt + freezeLimit))
    recThaw (note { s with recd := { s.recd with autoThaw := true } } 0x88 2)
  else s

/-- FREEZE_AUTO_THAW (R369). -/
def execFreezeAutoThaw (s : State) : Host.Outcome State Fault Refusal := s.work freezeAutoThaw

/-- A port's read window (R372). -/
def setWindow (s : Hw) (p : CtlPort) (addr : Word) (data : Block) : Hw :=
  { s with recd := match p with
    | .ctla => { s.recd with rdA := addr, winA := data }
    | .ctlb => { s.recd with rdB := addr, winB := data } }

/-- The unit that a port's window holds. -/
def windowData (s : Hw) (p : CtlPort) : Block := match p with | .ctla => s.recd.winA | .ctlb => s.recd.winB

/-- The lowest tag that no read holds. -/
def readTag (k : Keeper) : BitVec 6 :=
  BitVec.ofNat 6 (((List.range 64).find? fun t => !k.reads.any fun r => r.tag.toNat = t).getD 0)

/-- REC_RD_ADDR is written (R372): READY clears and one keeper read is issued; a unit outside the region's pages returns
zeros at once. A port that cannot read leaves READY clear. -/
def recFetch (p : CtlPort) (page : BitVec 16) (unit : BitVec 6) (s : Hw) : Hw :=
  let addr := put 6 16 page.toNat ||| put 0 6 unit.toNat
  let stale := s.kp.reads.map fun r => if r.window = some p then { r with window := none } else r
  let s := setWindow { s with kp := { s.kp with reads := stale } } p addr (windowData s p)
  if recPages s ≤ page.toNat then setWindow s p (0x8000000000000000#64 ||| addr) 0
  else if kpLive s then
    { s with kp := { s.kp with
      reads := s.kp.reads ++ [⟨readTag s.kp, recAddr page.toNat unit.toNat, some p, s.clk.core⟩] } }
  else s

/-- REC_RD_FETCH (R372). -/
def execRecRdFetch (port : CtlPort) (page : BitVec 16) (unit : BitVec 6) (s : State) : Host.Outcome State Fault Refusal :=
  s.opened port (recFetch port page unit)

/-- One sample each second in Run and Idle: the factory-calibrated reading with the user offset is shown and recorded (R360,
R361, R402). A fenced sensors unit samples nothing (R400). -/
def temperature (celsius : BitVec 16) (s : Hw) : Hw :=
  if s.fenced 0xC8 || s.sec.power = .retReady || s.sec.power = .resuming then s
  else
    let t := BitVec.ofInt 16 (celsius.toInt + tempOffset s)
    let s := histBump { s with sec := { s.sec with temp := t } } 0x30 (tempBucket t)
    modExtremes s fun x => tempExtremes x t (opSeconds s)

/-- TEMPERATURE_SAMPLE (R360). -/
def execTemperatureSample (celsius : BitVec 16) (s : State) : Host.Outcome State Fault Refusal :=
  s.work (temperature celsius)

/-! ### The census: its start (R374, R378) -/

/-- A trigger is ignored: DROPS, event 0x02 (R374). -/
def cenDrop (s : Hw) : Hw := note { s with cen := { s.cen with drops := satInc s.cen.drops } } 0x89 2

/-- A marker flit: KIND 2 with the initiating block and its SEQ (R406, R378, log 41). -/
def markerFlit (block : BitVec 3) (seq : BitVec 32) : Bytes := block.setWidth 8 :: leBytes 4 seq.toNat

/-- The peer links that are up. -/
def liveLinks (s : Hw) : List Nat := (List.range 8).filter fun k => (s.link k).st = .up

/-- Markers leave on every live link, and their DONEs are awaited (R378). -/
def cenMarkers (s : Hw) : Hw :=
  if bit s.cen.cfg 17 then
    (liveLinks s).foldl (fun s k =>
      linkSend { s with cen := { s.cen with awaiting := s.cen.awaiting ||| BitVec.ofNat 8 (2 ^ (s.link k).peer.toNat) } }
        k 2 (markerFlit s.hns.block s.cen.seq)) s
  else s

/-- The units that are fenced latch at once: their paths are empty (R375). -/
def cenFencedUnits (s : Hw) : Hw := ((List.range 256).filter s.fenced).foldl cenFence s

/-- A census starts (R374), one for all the causes of a core clock: locally, or by a marker from a link with the initiator's number and SEQ. -/
def cenStart (s : Hw) (remote : Option (BitVec 3 × BitVec 3 × BitVec 32)) : Hw :=
  let runs := match s.mc.mode with | .pilot | .full | .degraded | .maint | .ftest => true | _ => false
  if s.fenced 0x89 || (s.cen.busy && s.cen.at_ = s.clk.core) then s
  else if !runs || s.cen.busy then cenDrop s
  else
    let seq := s.cen.seq + 1
    let c := { s.cen with
      seq := seq, peersDone := 0, part := false, complete := false, busy := true, awaiting := 0, latched := []
      aonAt := BitVec.ofNat 32 s.clk.aon, at_ := s.clk.core, admitted := s.rm.admitted }
    cenFencedUnits <| match remote with
    | none => cenMarkers { s with cen := { c with remote := false, initiator := s.hns.block, initSeq := seq } }
    | some (link, block, n) =>
      { s with cen := { c with remote := true, initiator := block, initSeq := n, fromLink := link.toNat } }

/-- The effect of a census trigger, which counts as dropped in Held too (R374). -/
def State.census (s : State) (f : Hw → Hw) : Host.Outcome State Fault Refusal :=
  s.does fun h => if h.mc.por || h.sec.power = .retention || h.sec.power = .off then h else f h

/-- CEN_TRIGGER_GO (R374). -/
def execCenTriggerGo (s : State) : Host.Outcome State Fault Refusal := s.census fun h => cenStart (wake h) none

/-- The PERIOD_MS timer expires (R374), which wakes an idle block (R390). -/
def cenPeriod (s : Hw) : Hw := if fld s.cen.cfg 0 16 = 0 then s else cenStart (wake s) none

/-- CENSUS_PERIOD (R374). -/
def execCensusPeriod (s : State) : Host.Outcome State Fault Refusal := s.census cenPeriod

/-- A peer's marker arrives (R378). -/
def cenMarker (link initiator : BitVec 3) (seq : BitVec 32) (s : Hw) : Hw :=
  if (s.link link.toNat).st = .up then cenStart (wake s) (some (link, initiator, seq)) else s

/-- CENSUS_MARKER (R378). -/
def execCensusMarker (link initiator : BitVec 3) (seq : BitVec 32) (s : State) : Host.Outcome State Fault Refusal :=
  s.work (cenMarker link initiator seq)

/-! ### The census: its latches and its end (R375, R377, R378, R380) -/

/-- The marker reaches the count point of a register (R375). -/
def cenLatched (off : Nat) (s : Hw) : Hw := if s.cen.busy && isCounter off then cenLatch s off else s

/-- CENSUS_LATCH (R375). -/
def execCensusLatch (offset : BitVec 24) (s : State) : Host.Outcome State Fault Refusal := s.work (cenLatched offset.toNat)

/-- The counter registers of the block that can differ from zero (log 45). -/
def allCounters (s : Hw) : List Nat :=
  (((List.range 256).filter unitExists).flatMap unitCounters ++
    (s.rings.flatMap fun (e : Nat × Ring) => [0x200020 + 0x40 * e.1, 0x200028 + 0x40 * e.1, 0x200030 + 0x40 * e.1]) ++
    ((List.range 96).map fun n => 0x70000 + 8 * n) ++
    [0x50008, 0x50010, 0xA020, 0xC038, 0xC400, 0xE000, 0x1020, 0x3098]).filter isCounter

/-- The sum of a field of latched registers. -/
def cenTotal (s : Hw) (offs : List Nat) (lo len : Nat) : Word :=
  BitVec.ofNat 64 ((offs.map fun o => fld (tget 0 s.cen.shadows o) lo len).foldl (· + ·) 0)

/-- The trace record of a census (R380). -/
def cenRecord (s : Hw) : List Word :=
  let c := s.cen
  let rings := fun (o : Nat) => s.rings.map fun e => 0x200000 + 0x40 * e.1 + o
  [put 32 32 c.initSeq.toNat ||| put 24 8 c.peersDone.toNat ||| put 16 8 c.initiator.toNat ||| put 8 8 2 |||
      put 0 8 s.hns.block.toNat,
    halves c.aonAt.toNat c.lastClk.toNat,
    put 0 48 (opSeconds s),
    c.admitted,
    cenTotal s (rings 0x28) 0 24,
    cenTotal s ((List.range 16).map fun p => 0x20018 + 0x1000 * p) 0 64,
    cenTotal s (((List.range 32).map fun e => 0x30008 + 0x400 * e) ++ (List.range 8).map fun e => 0x38008 + 0x1000 * e) 0 64,
    cenTotal s ((List.range 16).map fun u => 0x40008 + 0x1000 * u) 0 64,
    cenTotal s [0xA020] 0 32,
    cenTotal s (rings 0x30) 0 16 + cenTotal s (rings 0x30) 16 16]

/-- The census has completed: COMPLETE, event 0x01 and the trace record (R378, R380, R381). -/
def cenDone (s : Hw) : Hw :=
  let s := note { s with cen := { s.cen with complete := true } } 0x89 1
  if bit s.cen.cfg 16 then (tracePut s (cenRecord s)).1 else s

/-- Every count point has latched, and BUSY clears (R375). A peer answers DONE; an initiator waits for the DONEs still out. -/
def cenComplete (s : Hw) : Hw :=
  if !s.cen.busy then s
  else
    let s := (allCounters s).foldl cenLatch s
    let c := s.cen
    let s := { s with cen := { c with
      busy := false, shadows := c.shadows.filter fun e => c.latched.contains e.1
      lastClk := BitVec.ofNat 32 (min (2 ^ 32 - 1) (s.clk.core - c.at_)) } }
    if c.remote then cenDone (linkSend s c.fromLink 3 (markerFlit c.initiator c.initSeq))
    else if c.awaiting = 0 && !c.part then cenDone s
    else s

/-- CENSUS_COMPLETE (R375). -/
def execCensusComplete (s : State) : Host.Outcome State Fault Refusal := s.work cenComplete

/-- A peer's DONE arrives (R378). -/
def cenPeerDone (link peer : BitVec 3) (seq : BitVec 32) (s : Hw) : Hw :=
  let c := s.cen
  if (s.link link.toNat).st = .up && !c.remote && c.initSeq = seq && c.awaiting.getLsbD peer.toNat then
    let m := BitVec.ofNat 8 (2 ^ peer.toNat)
    let s := { s with cen := { c with peersDone := c.peersDone ||| m, awaiting := c.awaiting &&& ~~~m } }
    if s.cen.awaiting = 0 && !s.cen.busy then cenDone s else s
  else s

/-- CENSUS_DONE_RECEIVED (R378). -/
def execCensusDoneReceived (link peer : BitVec 3) (seq : BitVec 32) (s : State) : Host.Outcome State Fault Refusal :=
  s.work (cenPeerDone link peer seq)

/-- 1 ms passes without every DONE: PARTIAL, event 0x03 (R378). -/
def cenPartial (s : Hw) : Hw :=
  if s.cen.awaiting = 0 then s
  else note (advanceTo { s with cen := { s.cen with part := true, awaiting := 0 } } (s.cen.at_ + 1000 * clkPerUs s)) 0x89 3

/-- CENSUS_PARTIAL_TIMEOUT (R378). -/
def execCensusPartialTimeout (s : State) : Host.Outcome State Fault Refusal := s.work cenPartial

end Sys2Proof.Machine
end

