-- ==== Sys2Proof/Machine/Power.lean ====
section
/-! DEFINITION. Life cycle, debug and power (chapter 17: R382 to R394), the answers of the fuse array (R438, R439), and the
resets of the ports (R445, R451). -/

namespace Sys2Proof.Machine

/-! ### The fuse array (R385, R387, R439) -/

/-- A fuse operation joins the queue of the fuse port. -/
def fusePush (s : Hw) (why : FuseWhy) (word : Nat) (blow : Option Nat) : Hw :=
  { s with sec := { s.sec with fuse := s.sec.fuse ++ [(why, word, blow)] } }

/-- The selected root is read through the fuse port, after which a block warm reset starts; with none selected it starts at
once (R385, R387). Its event names the register (log 48). -/
def rootReload (s : Hw) : Hw :=
  match rootCode s with
  | .none => warmReset 1 { s with keys := { s.keys with root := .none, rootKey := [] } }
  | c => (List.range 4).foldl (fun s i => fusePush s (.rootReload i) (c.fuseWord + i) none)
      { s with keys := { s.keys with root := .none, rootKey := [] } }

/-- A word of the reloaded root has come. -/
def rootWord (s : Hw) (i : Nat) (data : Word) : Hw :=
  let key := s.keys.rootKey ++ leBytes 8 data.toNat
  if i = 3 then warmReset 1 (rootTake s key) else { s with keys := { s.keys with rootKey := key } }

/-- Event 0x40 of the fuse port: Held (R352, R439). -/
def fuseFatal (s : Hw) (data : BitVec 16) : Hw := raise { s with sec := { s.sec with fuse := [] } } 0xC9 0x40 data

/-- A life-cycle fuse has been blown and read back: the pair must read blown and no other bit changed (R385). -/
def lcBlown (s : Hw) (target : BitVec 3) (second : Bool) (data : Word) : Hw :=
  let want := s.sec.lcBits ||| BitVec.ofNat 5 (2 ^ (target.toNat - 1))
  if fusePairs data != want || !bit data (2 * (target.toNat - 1) + second.toNat) then fuseFatal s 0
  else
    let s := { s with sec := { s.sec with lcBits := want } }
    if !second then s
    else
      let s := note { s with sec := { s.sec with lcResult := 1 } } 0xC9 1 (BitVec.ofNat 16 (lcState s))
      if target = 3 then s else rootReload (zeroizeQuiet s)

/-- A floor position has been blown and read back: the next one, or event 0x16 (R218). -/
def floorBlown (s : Hw) (at_ : Nat) (data : Word) : Hw :=
  if !bit data at_ then fuseFatal s 0
  else
    let s := { s with ucode := { s.ucode with floor := BitVec.ofNat 5 (max s.ucode.floor.toNat (popBits data 16 31)) } }
    if s.ucode.floor.toNat < s.ucode.svn.toNat then fusePush s .floor 19 (some (16 + s.ucode.floor.toNat)) else ucNote s 0x16

/-- The fuse array answers the oldest operation (R438, R439). -/
def fuseResponse (data : Word) (err : Bool) (s : Hw) : Hw :=
  match s.sec.fuse with
  | [] => s
  | (why, word, blow) :: rest =>
    if err then fuseFatal s (0x8000 ||| BitVec.ofNat 16 word)
    else
      let s := { s with sec := { s.sec with fuse := rest } }
      match why with
      | .lifeCycle t second => lcBlown s t second data
      | .rootReload i => rootWord s i data
      | .floor => floorBlown s (blow.getD 0) data

/-- FUSE_RESPONSE (R439). -/
def execFuseResponse (data : Word) (err : Bool) (s : State) : Host.Outcome State Fault Refusal := s.work (fuseResponse data err)

/-- A response is missing past its limit (R439). A read of bring-up counts too; which word it was is a free value. -/
def fuseTimeout (s : Hw) : Hw :=
  match s.sec.fuse with
  | (_, word, _) :: _ => fuseFatal s (0x8000 ||| BitVec.ofNat 16 word)
  | [] =>
    if s.mc.bring.phase = .fuses then
      let (n, s) := drawFree s
      fuseFatal s (0x8000 ||| ((Config.freeWord n).setWidth 5).setWidth 16)
    else s

/-- FUSE_TIMEOUT (R439). -/
def execFuseTimeout (s : State) : Host.Outcome State Fault Refusal := s.work fuseTimeout

/-! ### Life cycle (R382 to R385) -/

/-- LC_CMD.ARM alone: the target is recorded with the port and the time. -/
def lcArm (p : CtlPort) (target : BitVec 3) (s : Hw) : Hw := { s with sec := { s.sec with lcArmed := some (target, p, s.clk.aon) } }

/-- LC_ARM (R384). -/
def execLcArm (port : CtlPort) (target : BitVec 3) (s : State) : Host.Outcome State Fault Refusal :=
  s.cinched port (lcArm port target)

/-- The transitions of R383. -/
def lcAllowed (state : Nat) (target : Nat) : Bool :=
  (state = 0 && target = 1) || (state = 1 && target = 2) || (state = 2 && target = 3) ||
    ((state = 2 || state = 3) && target = 4) || (state < 5 && target = 5)

/-- A transition is under way: its fuses or its root reload (R385). -/
def lcMoving (s : Hw) : Bool := s.sec.fuse.any fun f => f.1 != .floor

/-- The RESULT of a GO (R384), 1 when it is accepted: an ARM in the same write refuses it, then the mode, the debug state, the
transition and the arm are judged in this order (log 49). -/
def lcResult (s : Hw) (p : CtlPort) (target : BitVec 3) (withArm : Bool) : BitVec 4 :=
  if withArm then 5
  else if !(s.mc.mode = .maint || (s.mc.mode = .ftest && lcState s ≤ 1)) then 3
  else if s.sec.debug = .full then 4
  else if !lcAllowed (lcState s) target.toNat || lcMoving s then 2
  else if 4 ≤ target.toNat && lcArmedNow s != some (target, p) then 5
  else 1

/-- LC_CMD.GO: refused with a RESULT, or both fuses of the target bit are blown (R385). The armed target goes either way. -/
def lcGo (p : CtlPort) (target : BitVec 3) (withArm : Bool) (s : Hw) : Hw :=
  let r := lcResult s p target withArm
  let s := { s with sec := { s.sec with lcArmed := none } }
  if r != 1 then { s with sec := { s.sec with lcResult := r } }
  else
    let at_ := 2 * (target.toNat - 1)
    fusePush (fusePush s (.lifeCycle target false) 19 (some at_)) (.lifeCycle target true) 19 (some (at_ + 1))

/-- LC_GO (R385). -/
def execLcGo (port : CtlPort) (target : BitVec 3) (withArm : Bool) (s : State) : Host.Outcome State Fault Refusal :=
  s.cinched port (lcGo port target withArm)

/-! ### Debug (R386, R387) -/

/-- The debug state of a code. -/
def debugOf (code : BitVec 2) : Debug := if code = 0 then .closed else if code = 1 then .diagnostic else .full

/-- The debug state changes: sensors event 0x10 (R386). -/
def debugSet (s : Hw) (code : BitVec 2) : Hw :=
  note { s with sec := { s.sec with debug := debugOf code } } 0xC8 0x10 (code.setWidth 16)

/-- Entry to Full (R387): the key store is zeroized, every unit burnishes, every curve table is cleared, no root is live. -/
def debugFull (s : Hw) : Hw :=
  let s := zeroizeQuiet (debugSet s 2)
  { s with pkb := s.pkb.map fun e => (e.1, { e.2 with curves := [] }) }

/-- The RESULT of DBG_CMD.GO, 1 when it is accepted. -/
def dbgResult (s : Hw) (target : BitVec 2) : BitVec 4 :=
  if s.mc.mode != .maint && s.mc.mode != .ftest then 2
  else if target = 3 then 4
  else if target = 2 && !(lcState s = 0 || lcState s = 1 || lcState s = 4) then 3
  else 1

/-- DBG_CMD.GO (R386, R387). -/
def dbgGo (target : BitVec 2) (s : Hw) : Hw :=
  let r := dbgResult s target
  let old := s.sec.debug
  let s := { s with sec := { s.sec with dbgResult := r } }
  if r != 1 || old = debugOf target then s
  else if target = 2 then debugFull s
  else if old = .full then rootReload (debugSet s target)
  else debugSet s target

/-- DBG_GO (R386). -/
def execDbgGo (port : CtlPort) (target : BitVec 2) (s : State) : Host.Outcome State Fault Refusal :=
  s.cinched port (dbgGo target)

/-! ### Idle (R389, R390) -/

/-- The power state changes: sensors event 0x11 (R403). -/
def powerNote (s : Hw) (p : Power) (data : BitVec 16) : Hw := note { s with sec := { s.sec with power := p } } 0xC8 0x11 data

/-- A PWR_CMD is refused with a RESULT: sensors event 0x12 (R394, R403). -/
def powerRefused (s : Hw) (r : BitVec 4) : Hw := note { s with sec := { s.sec with pwrResult := r } } 0xC8 0x12

/-- No keeper write is outstanding. -/
def keeperWritesQuiet (s : Hw) : Bool := s.kp.out.isEmpty && s.kp.waiting.isEmpty

/-- No keeper access is outstanding. -/
def keeperQuiet (s : Hw) : Bool := keeperWritesQuiet s && s.kp.reads.isEmpty && !bringReads s

/-- The recorder is writing. -/
def recorderWrites (s : Hw) : Bool := recBusy s || (recWrites s && (s.recd.current.isSome || !s.recd.queue.isEmpty))

/-- The quiet conditions of R390. -/
def quiet (s : Hw) : Bool :=
  ctxsFree s && s.rings.all (fun e => e.2.fetched.isEmpty) && keeperQuiet s && !s.cen.busy && s.board.trace.isEmpty &&
    !recorderWrites s && s.flt.all (fun e => !e.2.rstBusy) && s.seam.st = .ready

/-- The modes from which Idle is entered (R389). -/
def idleMode (s : Hw) : Bool := s.mc.mode = .pilot || s.mc.mode = .full || s.mc.mode = .degraded || s.mc.mode = .maint

/-- PWR_CMD.IDLE; a write with both bits is refused. Idle is entered at the end of the core clock: where an LC_CMD, a DBG_CMD
or a wake event falls in the same one, the wake wins and nothing changes (R394, log 159). -/
def idleCommand (withRetain woken : Bool) (s : Hw) : Hw :=
  if withRetain || !idleMode s || !quiet s || s.sec.power != .run then powerRefused s 2
  else if woken then s
  else powerNote (nextClock { s with sec := { s.sec with pwrResult := 1 } }) .idle 1

/-- IDLE (R390). -/
def execIdle (port : CtlPort) (withRetain : Bool) (s : State) (woken : Bool := false) : Host.Outcome State Fault Refusal :=
  s.cinched port (idleCommand withRetain woken)

/-- The quiet conditions have held for IDLE_US (R390); 0 disables it. A wake in the core clock of the entry wins (R394). -/
def autoIdle (woken : Bool) (s : Hw) : Hw :=
  let us := fld s.sec.pwrCfg 0 16
  if us = 0 || !idleMode s || !quiet s || s.sec.power != .run then s
  else
    let s := advanceTo s (s.clk.core + us * clkPerUs s)
    if woken then s else powerNote s .idle 1

/-- AUTO_IDLE (R390). -/
def execAutoIdle (s : State) (woken : Bool := false) : Host.Outcome State Fault Refusal := s.work (autoIdle woken)

/-- WAKE_EVENT (R390). -/
def execWakeEvent (s : State) : Host.Outcome State Fault Refusal := s.work wake

/-! ### Retention (R391 to R394) -/

/-- PWR_CMD.RETAIN: admissions and fetches stop. -/
def retainCommand (s : Hw) : Hw :=
  if (s.mc.mode = .full || s.mc.mode = .degraded || s.mc.mode = .maint) && s.sec.power = .run then
    { s with sec := { s.sec with power := .retaining }, mc := { s.mc with drainAt := s.clk.core } }
  else powerRefused s 2

/-- RETAIN (R391). -/
def execRetain (port : CtlPort) (s : State) : Host.Outcome State Fault Refusal := s.cinched port retainCommand

/-- Step 2 of R391, with every request that was in flight committed and its record acknowledged, and nothing outstanding at
the memory ports (log 54). -/
def retainDrained (s : Hw) : Bool :=
  ctxsFree s && keeperWritesQuiet s && s.seam.st = .ready && s.rm.ready.isEmpty &&
    s.rings.all (fun e => e.2.writes.isEmpty) && s.hns.forwards.isEmpty && s.mm.txns.isEmpty

/-- The trace queue is discarded, each record counted in TRACE_LOST (R391, R451). -/
def traceDiscard (s : Hw) : Hw :=
  { s with board := { s.board with traceLost := satInc s.board.traceLost s.board.trace.length, trace := [] } }

/-- Steps 3 to 5 of R391, once step 2 is reached: the cinch is released, the trace queue discarded, and the time record
issued. -/
def retentionEntry (s : Hw) : Hw :=
  if s.sec.power != .retaining || !retainDrained s then s
  else
    let s := match s.cinch.owner with | some p => releaseCinch s p | none => s
    timeWrite (traceDiscard { s with sec := { s.sec with power := .retWait } })

/-- Step 6 of R391: the time record is acknowledged, and retention-ready and the Seal acknowledgement assert. Steps 3 to 5 have
been taken at a tick, or are taken here. -/
def retentionReady (s : Hw) : Hw :=
  let s := retentionEntry s
  if s.sec.power != .retWait then s
  else
    let s := match s.kp.out.find? fun w => w.why = .time with | some w => kpDurable s w | none => s
    powerNote { s with sec := { s.sec with retReady := true, sealAck := true, pwrResult := 1 } } .retReady 2

/-- RETENTION_READY (R391). -/
def execRetentionReady (s : State) : Host.Outcome State Fault Refusal := s.work retentionReady

/-- RET_DRAIN_MS has passed before step 2: RESULT 3, and admissions resume (R391). -/
def retentionLimit (s : Hw) : Hw :=
  if s.sec.power != .retaining then s
  else
    let s := advanceTo s (s.mc.drainAt + 1000 * max 1 (fld s.sec.pwrCfg 16 16) * clkPerUs s)
    powerRefused { s with sec := { s.sec with power := .run } } 3

/-- RETENTION_DRAIN_LIMIT (R391). -/
def execRetentionDrainLimit (s : State) : Host.Outcome State Fault Refusal := s.work retentionLimit

/-- What vdd_core takes with it (R392): the store's data, every context, the operand memories, the mask generators, and the
census shadows. Retired buffers, marks and everything on vdd_ret stand. -/
def coreLost (s : Hw) : Hw :=
  { s with
    cs := { s.cs with
      bytes := [], bufs := s.cs.bufs.filter fun e => e.2 = .retired, poisoned := [], zeroQ := [], recheck := [], count := []
      holds := [], waiters := [], writeBacks := [] }
    ctxs := [], jobs := []
    pairs := (s.pairs.map fun e => (e.1,
      { e.2 with workerOut := 0, checkerOut := 0, workerAsked := false, checkerAsked := false, entStop := false, seeded := false })).filter
        fun e => e.2 != {}
    pku := (s.pku.map fun e => (e.1, ({
      jobs := e.2.jobs, busyClk := e.2.busyClk, pass := e.2.pass, fail := e.2.fail, cntAttempts := e.2.cntAttempts
      rejects := e.2.rejects } : PkUnit))).filter fun e => e.2 != {}
    mm := { s.mm with txns := [] }
    kp := { s.kp with reads := [] }
    cen := { s.cen with shadows := [], latched := [], complete := false, busy := false, awaiting := 0 }
    sec := { s.sec with power := .retention, coreGood := false }
    tap := { inReset := s.tap.inReset } }

/-- The integrator removes vdd_core after retention-ready: Retention; or both supplies: Off, in which nothing of the block
stands, and which a power-on reset ends (R389, R394). -/
def supplyRemoved (both : Bool) (s : Hw) : Hw :=
  if both then
    let t := powerReset s
    { t with sec := { t.sec with power := .off } }
  else if s.sec.power = .retReady && s.sec.retReady then
    coreLost { s with sec := { s.sec with retentions := satInc s.sec.retentions } }
  else s

/-- SUPPLY_REMOVED (R389): it acts in every mode. -/
def execSupplyRemoved (both : Bool) (s : State) : Host.Outcome State Fault Refusal := s.does (supplyRemoved both)

/-- Core supply good: resume starts (R393), the entropy start-up tests run, a kill of Retention is acted on at step 3, and a
warning that still holds leads to Seal (R394). -/
def coreSupplyGood (s : Hw) : Hw :=
  let s := { s with sec := { s.sec with coreGood := true } }
  if s.sec.power != .retention then s
  else
    let s := { s with sec := { s.sec with
      power := .resuming, resumeAt := s.clk.core, retReady := false, sealAck := false, entStartup := !s.fenced 0x84, entHealthy := false } }
    if s.keys.killLate then
      killEvent { s with keys := { s.keys with killLate := false }, sec := { s.sec with power := .run } }
    else if s.mc.pfw then sealWarned s
    else s

/-- CORE_SUPPLY_GOOD (R393). -/
def execCoreSupplyGood (s : State) : Host.Outcome State Fault Refusal :=
  s.always fun h => if h.mc.por || h.sec.power = .off || h.mc.mode = .held then h else coreSupplyGood h

/-- sb_core_good_i falls: without a warning and outside Retention entry it is taken as one (R441); during a resume vdd_core is
lost again as in Retention (R455). -/
def coreGoodFall (s : Hw) : Hw :=
  let s := { s with sec := { s.sec with coreGood := false } }
  match s.sec.power with
  | .run | .idle => if s.mc.pfw then s else sealWarned s
  | .resuming => coreLost s
  | _ => s

/-- CORE_GOOD_FALL (R441). -/
def execCoreGoodFall (s : State) : Host.Outcome State Fault Refusal := s.work coreGoodFall

/-- Steps 3 to 5 of R393: the Warden's forced difference is judged (R353), the store is clear, the mask generators are seeded,
and 20 µs and 16,384 core clocks after core supply good admissions reopen in the mode held before (log 160). -/
def resumeDone (lockstepOk : Bool) (s : Hw) : Hw :=
  if s.sec.power != .resuming then s
  else if !lockstepOk then raise { s with ward := { s.ward with lockstepOk := false } } 0x83 0x41
  else
    let s := advanceTo s (s.sec.resumeAt + 20 * clkPerUs s + 16384)
    let n := min (2 ^ 32 - 1) (s.clk.core - s.sec.resumeAt)
    powerNote (seedMasks { s with sec := { s.sec with lastResume := BitVec.ofNat 32 n } }) .run 3

/-- RESUME_DONE (R393). -/
def execResumeDone (s : State) (lockstepOk : Bool := true) : Host.Outcome State Fault Refusal := s.work (resumeDone lockstepOk)

/-! ### Port resets (R451) -/

/-- A control port's message that has been received runs on over a reset of the port (R269). -/
def intakeReset (v : Intake) : Intake := if v.state = 0 || v.state = 4 then {} else { v with dsel := 0 }

/-- A control port's approval that is under check or exchange runs on. -/
def apprReset (v : Approval) : Approval := match v.stage with | .checking | .exchanging => v | _ => {}

/-- A port's banked registers return to their reset values (R451). -/
def bankedReset (p : CtlPort) (s : Hw) : Hw :=
  let s : Hw := setWindow ((s.setIntake p (intakeReset (s.intake p))).setAppr p (apprReset (s.appr p))) p 0 0
  let s : Hw := { s with kp := { s.kp with reads := s.kp.reads.map fun r => if r.window = some p then { r with window := none } else r } }
  match p with
  | .ctla =>
    { s with
      viewA := false, dselA := 0, keys := { s.keys with selA := 0 }, cen := { s.cen with vselA := 0 }
      flt := (s.flt.map fun e => (e.1, { e.2 with hselA := 0 })).filter fun e => e.2 != {} }
  | .ctlb =>
    { s with
      viewB := false, dselB := 0, keys := { s.keys with selB := 0 }, cen := { s.cen with vselB := 0 }
      flt := (s.flt.map fun e => (e.1, { e.2 with hselB := 0 })).filter fun e => e.2 != {} }

/-- A control port's reset: its claim, its cinch, its messages, its freeze and its banked registers (R93, R269, R311, R369,
R451). It also returns a fenced port (R349). -/
def ctlReset (p : CtlPort) (s : Hw) : Hw :=
  let s := ctlReleases s p
  let s := { s with sec := match p with | .ctla => { s.sec with ctlaReset := true } | .ctlb => { s.sec with ctlbReset := true } }
  let s := if s.fenced (ctlUnit p) then fenceOver (s.modBlk (ctlUnit p) fun b => { b with fenced := false, rstBusy := false }) else s
  bankedReset p (if s.recd.frozen && s.recd.owner = some p then recThaw s else s)

/-- CTL_PORT_RESET (R451). -/
def execCtlPortReset (port : CtlPort) (s : State) : Host.Outcome State Fault Refusal := s.work (ctlReset port)

/-- A memory master port's reset: out of the pool, and fenced when transactions are outstanding (R451). -/
def mmReset (p : Nat) (s : Hw) : Hw :=
  let busy := s.mm.txns.any fun t => t.port = p
  let s := s.modMmp p fun m => { m with inReset := true }
  if busy then raise s (mmUnit p) 0x41 else s

/-- MM_PORT_RESET (R451). -/
def execMmPortReset (port : BitVec 5) (s : State) : Host.Outcome State Fault Refusal := s.work (mmReset port.toNat)

/-- A reset of another port asserts (R451). -/
def otherReset (w : ResetPort) (s : Hw) : Hw :=
  match w with
  | .doorbell n => s.modDb n.toNat fun d => { d with inReset := true }
  | .keeper =>
    let s := { s with kp := { s.kp with inReset := true } }
    if s.mc.mode = .cold then s else raise s 0x82 0x40
  | .fuse => { s with sec := { s.sec with fzReset := true } }
  | .sideband => { s with sec := { s.sec with sbReset := true } }
  | .alert => { s with sec := { s.sec with alReset := true } }
  | .test => { s with tap := { inReset := true } }
  | .trace => traceDiscard { s with sec := { s.sec with trReset := true } }

/-- PORT_RESET (R451); R428 gives 96 doorbell ports. The SB, AL and TP drivers see their resets in every state. -/
def execPortReset (which : ResetPort) (s : State) : Host.Outcome State Fault Refusal :=
  match which with
  | .doorbell n => s.atPort n.toNat fun h => otherReset (.doorbell n) h
  | .sideband | .alert | .test => s.does (otherReset which)
  | w => s.work (otherReset w)

/-- Every port reset that is low is released (log 50). -/
def portsRelease (s : Hw) : Hw :=
  { s with
    dbs := (s.dbs.map fun e => (e.1, { e.2 with inReset := false })).filter fun e => e.2 != {}
    mm := { s.mm with ports := (s.mm.ports.map fun e => (e.1, { e.2 with inReset := false })).filter fun e => e.2 != {} }
    kp := { s.kp with inReset := false }
    tap := { s.tap with inReset := false }
    sec := { s.sec with
      sbReset := false, alReset := false, fzReset := false, trReset := false, ctlaReset := false, ctlbReset := false }
    hns := { s.hns with links := (s.hns.links.map fun e => (e.1, { e.2 with inReset := false })).filter fun e => e.2 != {} } }

/-- pl_rst_n of a link asserts: the link is DOWN and its flits are lost (R409, R451); a FAILED link stays fenced. -/
def linkReset (k : Nat) (s : Hw) : Hw :=
  let s := s.modLink k fun l => { l with inReset := true }
  if (s.link k).st = .failed then s else linkLost s k .down

/-- PL_PORT_RESET (R451). -/
def execPlPortReset (link : BitVec 3) (s : State) : Host.Outcome State Fault Refusal := s.work (linkReset link.toNat)

/-- pl_phy_up_i changes: the link is held DOWN, or may train (R408, R445). -/
def phyChange (k : Nat) (up : Bool) (s : Hw) : Hw :=
  let s := s.modLink k fun l => { l with phyUp := up }
  if (s.link k).st = .failed then s
  else if up then s.modLink k fun l => if l.st = .down && !l.inReset && !l.waits then { l with st := .training } else l
  else linkLost s k .down

/-- PL_PHY_UP_CHANGE (R445): the level is an input, which an inert block sees when it runs again. -/
def execPlPhyUpChange (link : BitVec 3) (up : Bool) (s : State) : Host.Outcome State Fault Refusal :=
  s.always fun h => if h.inert then h.modLink link.toNat fun l => { l with phyUp := up } else phyChange link.toNat up h

end Sys2Proof.Machine
end

