-- ==== Sys2Proof/Machine/Links.lean ====
section
/-! DEFINITION. The link layer of the harness (R405 to R409): training, flits, replays; and the heartbeats of a mirror pair
(R424, R425). -/

namespace Sys2Proof.Machine

/-- Unit ID of a peer link (R9). -/
def linkUnit (k : Nat) : Nat := 0xB0 + k

/-! ### Training (R405, R408) -/

/-- A HELLO is valid on link k: the same KVER.MAJOR, and the block and link that R405 connects to it (R408). -/
def helloValid (s : Hw) (k : Nat) (d : BitVec 256) : Bool :=
  fld d 16 16 = fld kver 16 16 &&
    (if k = 7 then fld d 4 3 = 7 && fld d 0 3 != s.hns.block.toNat
     else fld d 4 3 = 6 - k && fld d 0 3 = (s.hns.block.toNat + k + 1) % 8)

/-- The data of a HELLO that link k sends (R408). -/
def helloData (s : Hw) (k : Nat) : BitVec 256 :=
  (put 0 3 s.hns.block.toNat ||| put 4 3 k ||| put 16 16 (fld kver 16 16) ||| putb 32 (s.link k).sentSeen).setWidth 256

/-- A link that may train: its PHY is up, it is not in reset, it is neither UP nor FAILED, and no invalid HELLO holds it. -/
def linkTrains (l : Link) : Bool := l.phyUp && !l.inReset && !l.waits && (l.st = .down || l.st = .training)

/-- PL7 is UP again and a link key exists: the pair converges (R426, log 52). -/
def rejoin (s : Hw) : Hw :=
  if s.hns.mirror = .alone && (s.link 7).st = .up && (s.link 7).keyed then
    { s with hns := { s.hns with mirror := .joining, k0 := pairEnds s, heartbeatAt := s.clk.aon } }
  else s

/-- What a link that trains sends every 64 pl_clk (R408). -/
def helloOut (s : Hw) (k : Nat) : Option (BitVec 256) := if linkTrains (s.link k) then some (helloData s k) else none

/-- The link becomes UP: both ends start SEQ at 0 (R408). -/
def linkUp (s : Hw) (k : Nat) : Hw :=
  let s := s.modLink k fun l => { l with st := .up, txSeq := 0, rxSeq := 0, buffer := [], streak := 0 }
  let s := if k = 7 then { s with hns := { s.hns with heartbeatAt := s.clk.aon } } else s
  let s := note s (linkUnit k) 1
  if k = 7 then rejoin s else s

/-- A HELLO arrives (R408). -/
def hello (k : Nat) (d : BitVec 256) (s : Hw) : Hw :=
  if !linkTrains (s.link k) then s
  else if helloValid s k d then
    let s := s.modLink k fun l => { l with st := .training, peer := d.extractLsb' 0 3, sentSeen := true }
    if bit d 32 then linkUp s k else s
  else note (s.modLink k fun l => { l with st := .down, sentSeen := false, waits := true }) (linkUnit k) 2

/-- HELLO_RECEIVED (R408). -/
def execHelloReceived (link : BitVec 3) (data : BitVec 256) (s : State) : Host.Outcome State Fault Refusal :=
  s.work (hello link.toNat data)

/-- 1 ms after an invalid HELLO training restarts (R408). -/
def trainRetry (k : Nat) (s : Hw) : Hw :=
  s.modLink k fun l =>
    if l.waits then { l with waits := false, st := if l.st = .down && l.phyUp && !l.inReset then .training else l.st } else l

/-- LINK_TRAIN_RETRY (R408). -/
def execLinkTrainRetry (link : BitVec 3) (s : State) : Host.Outcome State Fault Refusal := s.work (trainRetry link.toNat)

/-! ### Flits (R406, R407) -/

/-- KIND of a control word. -/
def flitKind (c : Word) : Nat := fld c 0 4
/-- SEQ of a control word. -/
def flitSeq (c : Word) : BitVec 12 := c.extractLsb' 4 12
/-- ACK of a control word. -/
def flitAck (c : Word) : BitVec 12 := c.extractLsb' 16 12

/-- The CRC of a flit holds: CRC-32C of its data, then of control bits [31:0] (R406). -/
def flitCrcOk (d : BitVec 256) (c : Word) : Bool := crc32c 0 (leBytes 32 d.toNat ++ leBytes 4 (fld c 0 32)) = c.extractLsb' 32 32

/-- The control word of a flit: KIND, SEQ, the SEQ of the last flit received in order, NAK, HB and the CRC (R406). -/
def flitControl (d : BitVec 256) (kind : BitVec 4) (seq ack : BitVec 12) (nak hb : Bool) : Word :=
  let low := put 0 4 kind.toNat ||| put 4 12 seq.toNat ||| put 16 12 ack.toNat ||| putb 28 nak ||| putb 29 hb
  low ||| put 32 32 (crc32c 0 (leBytes 32 d.toNat ++ leBytes 4 low.toNat)).toNat

/-- What an UP link sends: the flits that it keeps for replay, and its last IDLE flit (R406, R407). -/
def linkOut (s : Hw) (k : Nat) : List (BitVec 256 × Word) :=
  let l := s.link k
  let ack := l.rxSeq - 1
  let flit := fun (data : Bytes) kind seq nak hb =>
    let d := BitVec.ofNat 256 (leNat data)
    (d, flitControl d kind seq ack nak hb)
  if l.st != .up then []
  else (l.buffer.map fun f => flit f.2.2 f.2.1 f.1 false false) ++
    (match l.idleOut with | some (nak, hb, d) => [flit d 0 0 nak hb] | none => [])

/-- A kind that takes a SEQ (R406). -/
def flitTakesSeq (kind : Nat) : Bool := 2 ≤ kind && kind ≤ 8

/-- An ACK: every flit up to it leaves the sender's buffer, and waiting flits take its room (R407). -/
def linkAck (s : Hw) (k : Nat) (ack : BitVec 12) : Hw :=
  let l := s.link k
  match l.buffer.findIdx? fun f => f.1 = ack with
  | some i => linkPump (s.modLink k fun l => { l with buffer := l.buffer.drop (i + 1), streak := 0 }) k
  | none => s

/-- A replay from ACK + 1: event 0x41; the 16th in a row fails the link (R407, log 46). -/
def linkReplay (s : Hw) (k : Nat) : Hw :=
  let l := s.link k
  if l.st != .up || l.buffer.isEmpty then s
  else
    let s := note (s.modLink k fun l => { l with replays := satInc l.replays, streak := l.streak + 1 }) (linkUnit k) 0x41
    if 16 ≤ l.streak + 1 then raise s (linkUnit k) 0x40 else s

/-- A heartbeat arrives on PL7 (R424). -/
def heartbeatTake (s : Hw) (d : BitVec 256) : Hw :=
  { s with hns := { s.hns with
    peerEpoch := d.extractLsb' 16 16, peerReady := fld d 6 2 = 0, peerDirty := bit d 8, heartbeatAt := s.clk.aon } }

/-- A flit with a good CRC that is next in order, or takes no SEQ, is accepted (R406, R407). -/
def flitAccept (s : Hw) (k : Nat) (d : BitVec 256) (c : Word) : Hw :=
  let kind := flitKind c
  let s := if kind = 0 then s else wake s
  let s := linkAck s k (flitAck c)
  let s := if kind = 0 && bit c 29 && k = 7 then heartbeatTake s d else s
  let s := if flitTakesSeq kind then s.modLink k fun l => { l with rxSeq := l.rxSeq + 1 } else s
  if bit c 28 then linkReplay s k else s

/-- A flit arrives on an UP link: a bad CRC sends a NAK, a flit out of order is discarded, a reserved KIND is a protocol
violation (R406, R407, R409). -/
def flitTake (k : Nat) (d : BitVec 256) (c : Word) (s : Hw) : Hw :=
  if (s.link k).st != .up then s
  else if !flitCrcOk d c then s.modLink k fun l => { l with idleOut := some (true, false, zeros 32) }
  else if 9 ≤ flitKind c then raise s (linkUnit k) 0x42
  else if flitTakesSeq (flitKind c) && flitSeq c != (s.link k).rxSeq then s
  else flitAccept s k d c

/-- FLIT_RECEIVED (R407). -/
def execFlitReceived (link : BitVec 3) (data : BitVec 256) (control : Word) (s : State) : Host.Outcome State Fault Refusal :=
  s.work (flitTake link.toNat data control)

/-- A NAK arrives: the sender replays from its ACK + 1 (R407). -/
def nakTake (k : Nat) (ack : BitVec 12) (s : Hw) : Hw := if (s.link k).st != .up then s else linkReplay (linkAck s k ack) k

/-- NAK_RECEIVED (R407). -/
def execNakReceived (link : BitVec 3) (ack : BitVec 12) (s : State) : Host.Outcome State Fault Refusal :=
  s.work (nakTake link.toNat ack)

/-- REPLAY_TIMER (R407). -/
def execReplayTimer (link : BitVec 3) (s : State) : Host.Outcome State Fault Refusal := s.work fun h => linkReplay h link.toNat

/-! ### Heartbeats (R424, R425) -/

/-- The data of a heartbeat (R424). -/
def heartbeatData (s : Hw) : Bytes :=
  leBytes 32 (put 0 3 s.hns.block.toNat ||| put 3 3 s.mc.mode.code ||| put 6 2 s.seam.st.code ||| putb 8 s.seam.dirty |||
    put 16 16 s.seam.epoch.toNat).toNat

/-- The Warden sends a heartbeat on PL7 in the modes of R424, while its halves agree. -/
def heartbeatSend (s : Hw) : Hw :=
  match s.mc.mode with
  | .pilot | .full | .degraded | .maint | .ftest =>
    if s.ward.lockstepOk && (s.link 7).st = .up then
      s.modLink 7 fun l => { l with idleOut := some (false, true, heartbeatData s) }
    else s
  | _ => s

/-- HEARTBEAT_SEND (R424). -/
def execHeartbeatSend (s : State) : Host.Outcome State Fault Refusal := s.work heartbeatSend

/-- 33 aon_clk periods pass with no heartbeat: ALONE (R425). -/
def heartbeatLoss (s : Hw) : Hw :=
  if s.hns.mirror = .mirrored || s.hns.mirror = .joining then enterAlone (advanceAon s (s.hns.heartbeatAt + 33)) else s

/-- HEARTBEAT_LOSS (R425). -/
def execHeartbeatLoss (s : State) : Host.Outcome State Fault Refusal := s.work heartbeatLoss

end Sys2Proof.Machine
end

