-- ==== Sys2Proof/Machine/MmPort.lean ====
section
/-! DEFINITION. The memory master ports' commands: responses, acknowledgements and timeouts (R432, R433, R352), and the next
piece of a transfer, of a SIGNAL or of a scrub (R26, R125, R160). -/

namespace Sys2Proof.Machine

/-- Work that waits for a tag at a port goes on: public-key units, the microcode fetch, record writes and
fetches, and the lists of forwarded requests. -/
def mmGo (s : Hw) (p : Nat) : Hw :=
  let s := ((s.pku.filter fun e => e.2.port = some p).map (·.1)).foldl (fun s u =>
    let s := pkFetchIssue (s.pkUnit u).plan.length s u
    pkWriteIssue (s.pkUnit u).outputs.length s u) s
  let s := if s.ucode.port = some p then ucGo s else s
  reissueAll (s.hns.forwards.foldl (fun s f => fwdGo s f.link f.id) s)

/-- A port takes answers of the surroundings; a fenced one for what it had outstanding (R349). -/
def mmAnswers (s : Hw) (p : Nat) : Bool := !(s.mmp p).inReset

/-- An answer that fits no transaction violates the protocol (R352); a fenced port takes no notice. -/
def mmViolates (s : Hw) (p : Nat) : Hw := if s.fenced (mmUnit p) then s else raise s (mmUnit p) 0x41

/-- A transaction has its last beat or its acknowledgement: it ends, WINDOW_FAULT when refused (R433). -/
def mmEnd (s : Hw) (t : Txn) : Hw :=
  let s := mmDrop s t
  let s := if t.bad then note s (mmUnit t.port) 0x42 else s
  mmGo (txnEnd s t (if t.bad then some stWindowFault else none)) t.port

/-- A read response beat (R432, R433): its bytes join the transaction's. A beat of no transaction, or whose last mark does
not fit, violates the protocol (R352). -/
def mmRead (p : Nat) (tag : BitVec 7) (data : BitVec 256) (last err : Bool) (s : Hw) : Hw :=
  if !mmAnswers s p then s
  else match mmFind s p false tag with
    | none => mmViolates s p
    | some t =>
      let t' := { t with data := t.data ++ leBytes 32 data.toNat, bad := t.bad || err }
      let whole := t'.data.length = 32 * t.beats
      if last != decide whole then mmViolates s p
      else
        let s := s.modMmp p fun m => { m with rdBeats := satInc m.rdBeats }
        if whole then mmEnd s t'
        else { s with mm := { s.mm with txns := s.mm.txns.map fun x => if x = t then t' else x } }

/-- MM_READ_RESPONSE (R432). -/
def execMmReadResponse (port : BitVec 5) (tag : BitVec 7) (data : BitVec 256) (last err : Bool) (s : State) :
    Host.Outcome State Fault Refusal :=
  s.work (mmRead port.toNat tag data last err)

/-- A write acknowledgement (R433); one of no transaction violates the protocol (R352). -/
def mmWrote (p : Nat) (tag : BitVec 7) (err : Bool) (s : Hw) : Hw :=
  if !mmAnswers s p then s
  else match mmFind s p true tag with
    | none => mmViolates s p
    | some t => mmEnd (s.modMmp p fun m => { m with wrBeats := satInc m.wrBeats t.beats }) { t with bad := err }

/-- MM_WRITE_ACK (R433). -/
def execMmWriteAck (port : BitVec 5) (tag : BitVec 7) (err : Bool) (s : State) : Host.Outcome State Fault Refusal :=
  s.work (mmWrote port.toNat tag err)

/-- MM_CFG.TIMEOUT_US in core clocks; 0 acts as 1. -/
def mmLimit (s : Hw) (p : Nat) : Nat := max 1 (fld (s.mmp p).cfg 0 16) * clkPerUs s

/-- The oldest transaction of a port has waited for its limit: the port is fenced (R352), or, fenced already, waits for it no
longer (R349). -/
def mmTimeout (p : Nat) (s : Hw) : Hw :=
  match leastBy (·.issuedAt) (s.mm.txns.filter fun t => t.port = p) with
  | some t =>
    let s := advanceTo s (t.issuedAt + mmLimit s p)
    if s.fenced (mmUnit p) then mmDrop s t else mmDrop (raise s (mmUnit p) 0x40) t
  | none => s

/-- MM_RESPONSE_TIMEOUT (R352). -/
def execMmResponseTimeout (port : BitVec 5) (s : State) : Host.Outcome State Fault Refusal := s.work (mmTimeout port.toNat)

/-- The next piece of a job of ticket t: a transfer's, a SIGNAL's write, or else a write of the context's scrub. -/
def pieceIssue (c t : Nat) (read : List WordErrors) (s : Hw) : Hw :=
  let scrub := match (s.ctx c).scrubbing with | some k => scrubPiece s c k | none => s
  match s.job (jobKey c t) with
  | some j =>
    match j.op with
    | .xgath _ | .xscat _ | .xload _ _ | .xstore _ _ | .xlib _ _ =>
      if j.phase = .running then xferPiece s (jobKey c t) j read else scrub
    | .signal a v => if j.phase = .queued then signalIssue s (jobKey c t) j a v else scrub
    | _ => scrub
  | none => scrub

/-- XFER_PIECE_ISSUE (R26). -/
def execXferPieceIssue (c : BitVec 9) (t : BitVec 4) (read : List WordErrors) (s : State) : Host.Outcome State Fault Refusal :=
  s.work (pieceIssue c.toNat t.toNat read)

end Sys2Proof.Machine
end

