-- ==== Sys2Proof/Machine/Pairing.lean ====
section
/-! DEFINITION. Pairings (R410 to R413): the approval and its checks, the ceremony, the link keys, and the commit. -/

namespace Sys2Proof.Machine

/-! ### The approval (R410) -/

/-- UNPAIR. -/
def apUnpair (a : Bytes) : Bool := bit (wordAt a 1) 9
/-- COUNTER. -/
def apCounter (a : Bytes) : Word := wordAt a 2
/-- The identity digest recorded for a block of the pair. -/
def apId (a : Bytes) (b : Nat) : Bytes := (a.drop (if apLo a = b then 0x18 else 0x48)).take 48
/-- AUTH_EC followed by AUTH_ML. -/
def apAuthKeys (a : Bytes) : Bytes := (a.drop 0x80).take 2048
/-- h. -/
def apHash (a : Bytes) : Bytes := sha384 (a.take 0x880)

/-- Check 1 of R411. -/
def apForm (a : Bytes) : Bool :=
  a.length = 5581 && fld (wordAt a 0) 0 8 = 1 && fld (wordAt a 0) 8 8 = 0x20 && fld (wordAt a 0) 16 16 = 0 &&
    fld (wordAt a 0) 32 32 = 5581 && !bit (wordAt a 1) 3 && !bit (wordAt a 1) 7 && fld (wordAt a 1) 10 54 = 0 &&
    wordAt a 15 = 0 && apLo a < apHi a

/-- Check 3: the block is one of the two, its identity is recorded, and the link to the other is UP. -/
def apHere (s : Hw) (a : Bytes) : Bool :=
  (apLo a = s.hns.block.toNat || apHi a = s.hns.block.toNat) && apId a s.hns.block.toNat = identityDigest s &&
    (s.link (apLink s a)).st = .up

/-- Check 4: the authority is domain 0's. -/
def apAuthority (s : Hw) (a : Bytes) : Bool :=
  s.keys.slots.any fun e =>
    e.2.st = .full && e.2.alg = 0x70 && e.2.domain = 0 && authDigest (apAuthKeys a) = e.2.key.take 32

/-- Check 5: both signatures verify over h. -/
def apSigned (a : Bytes) : Bool :=
  bothVerify (apHash a) ((apAuthKeys a).take 96) ((apAuthKeys a).drop 96) ((a.drop 0x880).take 96) ((a.drop 0x8E0).take 3309)

/-- The pairing with the other block that the approval describes is in the active set. -/
def apRecorded (s : Hw) (a : Bytes) : Bool :=
  pairValid s.active (apOther s a) && pairMirror s.active (apOther s a) = apMirror a

/-- The pairing is already recorded exactly as asked, under this very COUNTER: a no-op (R411). -/
def apNoop (s : Hw) (a : Bytes) : Bool :=
  apCounter a = domCounter s 0 &&
    (if apUnpair a then !pairValid s.active (apOther s a)
     else apRecorded s a && pairDigest s.active (apOther s a) = apId a (apOther s a))

/-- Check 6. -/
def apFresh (s : Hw) (a : Bytes) : Bool :=
  domCounter s 0 < apCounter a && (reservedCounters s 0).all fun r => r < apCounter a

/-- Check 7. -/
def apFits (s : Hw) (a : Bytes) : Bool :=
  if apUnpair a then apRecorded s a
  else !pairValid s.active (apOther s a) && !(apMirror a && (mirrorPartner s).isSome)

/-- The checks of R411 in order: the status and the check that refuses, if any. -/
def apChecks (s : Hw) (a : Bytes) : Option (BitVec 8 × BitVec 4) :=
  if !apForm a then some (stDescriptorInvalid, 1)
  else if !s.keys.idReady || !s.ucode.active then some (stEngineFenced, 2)
  else if !intakePk s then some (stInputRange, 2)
  else if !apHere s a then some (stKeyDenied, 3)
  else if !apAuthority s a then some (stKeyDenied, 4)
  else if !apSigned a then some (stVerifyFail, 5)
  else if !apNoop s a && !apFresh s a then some (stKeyDenied, 6)
  else if !apNoop s a && !apFits s a then some (stKeyDenied, 7)
  else if s.seam.st != .ready || s.seam.dirty then some (stAborted, 8)
  else none

/-! ### Through a control port (R411) -/

/-- The modes that take an approval. -/
def apMode (s : Hw) : Bool := s.mc.mode = .full || s.mc.mode = .degraded

/-- HNS_APPR_CTL.START: ignored while an approval of this port or a ceremony is in process. -/
def apprStart (p : CtlPort) (s : Hw) : Hw :=
  let v := s.appr p
  if (v.stage != .idle && v.stage != .done) || s.hns.ceremony.isSome then s
  else if apMode s then s.setAppr p { stage := .receiving }
  else s.setAppr p { stage := .done, result := stAborted, reason := 0xD }

/-- HNS_APPR_START (R411). -/
def execHnsApprStart (port : CtlPort) (s : State) : Host.Outcome State Fault Refusal := s.cinched port (apprStart port)

/-- HNS_APPR_ABORT (R411). -/
def execHnsApprAbort (port : CtlPort) (s : State) : Host.Outcome State Fault Refusal :=
  s.cinched port fun h => abandonAppr h port

/-- A whole approval: checked here, then sent on the link to the other block (R411); one that meets a ceremony is aborted
(log 117). -/
def apprJudge (s : Hw) (p : CtlPort) (a : Bytes) : Hw :=
  if s.hns.ceremony.isSome then s.setAppr p { stage := .done, result := stAborted, reason := 8 }
  else match apChecks s a with
  | some (st, r) => s.setAppr p { stage := .done, result := st, reason := r }
  | none =>
    let s : Hw := { s with hns := { s.hns with
      ceremony := some (BitVec.ofNat 3 (apOther s a), a, some p), localPass := true, peerPass := false } }
    linkSend (s.setAppr p { stage := .checking }) (apLink s a) 8 a

/-- A word of the approval arrives; a TOTAL_LEN other than an approval's is refused at check 1 at once (log 53). -/
def apprWord (p : CtlPort) (w : Word) (s : Hw) : Hw :=
  let v := s.appr p
  if v.stage != .receiving then s
  else
    let b := v.bytes ++ leBytes 8 w.toNat
    if fld (wordAt b 0) 32 32 != 5581 then
      s.setAppr p { stage := .done, result := stDescriptorInvalid, reason := 1 }
    else if 5581 ≤ b.length then apprJudge s p (b.take 5581)
    else s.setAppr p { v with bytes := b }

/-- HNS_APPR_DATA (R411). -/
def execHnsApprData (port : CtlPort) (word : Word) (s : State) : Host.Outcome State Fault Refusal :=
  s.cinched port (apprWord port word)

/-! ### Between the blocks (R411, log 41) -/

/-- The other block's verdict on the approval that this one sent, and later its word that its seam is made. -/
def apprReply (s : Hw) (k : Nat) (st : BitVec 8) : Hw :=
  match s.hns.ceremony with
  | some (_, a, some p) =>
    if apLink s a != k then s
    else if s.hns.peerPass then
      if st != stOk then s
      else if s.hns.localMade then ceremonyEnd s stOk 0
      else { s with hns := { s.hns with peerMade := true } }
    else if st = stOk then
      { s with hns := { s.hns with peerPass := true } }.setAppr p { s.appr p with stage := .exchanging }
    else ceremonyEnd s st 9
  | _ => s

/-- The other block has passed an approval; this one makes the same checks and answers (R411). -/
def apprPeer (s : Hw) (k : Nat) (a : Bytes) : Hw :=
  let answer := fun (s : Hw) (st : BitVec 8) => linkSend s k 8 [st]
  if s.hns.ceremony.isSome || !apMode s then answer s stAborted
  else match apChecks s a with
    | some (st, _) => answer s st
    | none =>
      if apLink s a != k then answer s stKeyDenied
      else answer { s with hns := { s.hns with
        ceremony := some (BitVec.ofNat 3 (apOther s a), a, none), localPass := true, peerPass := true } } stOk

/-- A PAIR message of a ceremony arrives: an approval, or one byte of verdict (R411, log 41). -/
def approvalTake (k : Nat) (m : Bytes) (s : Hw) : Hw :=
  if (s.link k).st != .up then s
  else match m with
    | [st] => apprReply s k st
    | _ => apprPeer s k m

/-- APPROVAL_FROM_PEER (R411). -/
def execApprovalFromPeer (link : BitVec 3) (message : Bytes) (s : State) : Host.Outcome State Fault Refusal :=
  s.work (approvalTake link.toNat message)

/-! ### Link keys (R413) -/

/-- Both blocks have passed the approval. -/
def bothPassed (s : Hw) : Bool := s.hns.localPass && s.hns.peerPass

/-- The other end of a link that has, or is making, a pairing: its block and its identity digest. -/
def exchangePeer (s : Hw) (k : Nat) : Option (Nat × Bytes) :=
  let recorded := ((if k = 7 then (mirrorPartner s).toList else (plainPairs s).filter fun b => meshLink s b = k).head?).map
    fun b => (b, pairDigest s.active b)
  match s.hns.ceremony with
  | some (_, a, _) =>
    if bothPassed s && !apUnpair a && apLink s a = k then some (apOther s a, apId a (apOther s a)) else recorded
  | none => recorded

/-- An exchange is due on a link: it is UP and paired, this block has its identity, and the exchange of this link-up has
neither ended nor failed within the last second. -/
def exchangeDue (s : Hw) (k : Nat) : Bool :=
  let l := s.link k
  l.st = .up && !l.retry && !(l.keyed && l.fresh) && s.keys.idReady && (exchangePeer s k).isSome

/-- A message of the exchange: what is sent, the identity public keys, and both identity signatures over the SHA-384 of what
stands before them (log 162). -/
def exchangeSigned (s : Hw) (body : Bytes) : Bytes × Hw :=
  let m := body ++ idecBytes s ++ idmlBytes s
  let h := sha384 m
  let (ec, s) := drbgBytes s 48
  let (ml, s) := drbgBytes s 32
  (m ++ (pkAnswer (pkIn 0x0121 6 (identityEcKey s) [h] ec)).2.2.flatten ++
    (pkAnswer (pkIn 0x0351 24 (identityMlKey s) [h] ml)).2.2.flatten, s)

/-- The other block's message, whose first n bytes are what it sends, is signed by the identity that the pairing names. -/
def exchangeOk (n : Nat) (digest m : Bytes) : Bool :=
  let keys := (m.drop n).take 2048
  let sigs := m.drop (n + 2048)
  m.length = n + 5453 && sha384 keys = digest &&
    bothVerify (sha384 (m.take (n + 2048))) (keys.take 96) (keys.drop 96) (sigs.take 96) (sigs.drop 96)

/-- Step 1: the lower-numbered block forms an ephemeral ML-KEM-768 key pair and an ephemeral X25519 key, and sends ek and u. -/
def exchangeOpen (s : Hw) (k : Nat) : Hw :=
  match exchangePeer s k with
  | some (b, _) =>
    if exchangeDue s k && s.hns.block.toNat < b && (s.link k).exchange.isNone && drbgServes s then
      let (seed, s) := drbgBytes s 64
      let (x, s) := drbgBytes s 32
      let dk := kemKeyGen 3 (seed.take 32) (seed.drop 32)
      let (m, s) := exchangeSigned s (kemEk 3 dk ++ xMul 32 x (xBase 32))
      linkSend (s.modLink k fun l => { l with exchange := some (dk, x, m) }) k 8 m
    else s
  | none => s

/-- Step 4: both ends form kdf(ss_ml ‖ ss_x, "pair-link", T, 64), T over the PAIR flits of the exchange, of 32 B each. The first
half keys the flits from the lower-numbered block; the counts of messages start again (R413, R414). -/
def linkKeyed (s : Hw) (k : Nat) (lower : Bool) (shared opened answered : Bytes) : Hw :=
  let key := kdf shared "pair-link" (sha384 (padTo 32 opened ++ padTo 32 answered)) 64
  let (tx, rx) := if lower then (key.take 32, key.drop 32) else (key.drop 32, key.take 32)
  let s := s.modLink k fun l => { l with
    keyed := true, keyTx := tx, keyRx := rx, fresh := true, exchange := none, txSecure := 0, rxSecure := 0 }
  if k = 7 then rejoin s else s

/-- A signature fails, or a digest does not match: no key, event 0x07, and another try after 1 s (R413). -/
def exchangeFailed (s : Hw) (k : Nat) : Hw :=
  note (s.modLink k fun l => { l with keyed := false, keyTx := [], keyRx := [], exchange := none, retry := true }) (linkUnit k) 7

/-- Steps 2 to 4, on the message of the other block's PAIR flits: the higher-numbered block verifies, encapsulates and answers;
the lower-numbered one verifies and decapsulates (R413). -/
def keyExchanged (k : Nat) (peer : Bytes) (s : Hw) : Hw :=
  let s := exchangeOpen s k
  match exchangeDue s k, exchangePeer s k with
  | true, some (b, digest) =>
    if s.hns.block.toNat < b then
      match (s.link k).exchange with
      | some (dk, x, m) =>
        if exchangeOk 1120 digest peer then
          linkKeyed s k true (kemDecaps 3 dk (peer.take 1088) ++ xMul 32 x ((peer.drop 1088).take 32)) m peer
        else exchangeFailed s k
      | none => s
    else if !drbgServes s then s
    else if exchangeOk 1216 digest peer && kemEkOk 3 (peer.take 1184) then
      let (r, s) := drbgBytes s 32
      let (x, s) := drbgBytes s 32
      let (c, ss) := kemEncaps 3 (peer.take 1184) r
      let (m, s) := exchangeSigned s (c ++ xMul 32 x (xBase 32))
      linkKeyed (linkSend s k 8 m) k false (ss ++ xMul 32 x ((peer.drop 1184).take 32)) peer m
    else exchangeFailed s k
  | _, _ => s

/-- LINK_KEY_EXCHANGE_DONE (R413). -/
def execLinkKeyExchangeDone (link : BitVec 3) (message : Bytes) (s : State) : Host.Outcome State Fault Refusal :=
  s.work (keyExchanged link.toNat message)

/-- LINK_KEY_RETRY (R413): 1 s after a failed exchange. -/
def execLinkKeyRetry (link : BitVec 3) (s : State) : Host.Outcome State Fault Refusal :=
  s.work fun h => h.modLink link.toNat fun l => { l with retry := false }

/-! ### The commit (R412) -/

/-- The words that record the pairing with the other block, or none of it after UNPAIR. -/
def pairWords (s : Hw) (a : Bytes) : List Word :=
  if apUnpair a then List.replicate 7 0
  else (putb 0 true ||| putb 1 (apMirror a)) :: (List.range 6).map fun i => wordAt (apId a (apOther s a)) i

/-- Write the pairing words of a block into the shadow set. -/
def pairingWrite (s : Hw) (a : Bytes) : Hw :=
  let base := 0xB200 + 64 * apOther s a
  { s with shadow := ((pairWords s a).mapIdx fun i w => (i, w)).foldl (fun c e => cfgSet c (base + 8 * e.1) e.2) s.shadow }

/-- Counter record, pairing words and seam of a ceremony that is no no-op (R412). -/
def pairingMake (s : Hw) (a : Bytes) : Hw :=
  let k := apLink s a
  let counter := if domCounter s 0 < apCounter a then apCounter a else domCounter s 0
  let s := kpWrite s 1 (domRecAddr 0) (domainRecord counter (domFloor s 0)) .counter
  let s := { s with keys := { s.keys with counters := tset 0 s.keys.counters 0 counter } }
  let s := mirrorEnter (seamMake (pairingWrite s a) (s.seam.epoch + 1))
  let s := if apUnpair a then s.modLink k fun l => { l with keyed := false, keyTx := [], keyRx := [], exchange := none } else s
  let s := note s (linkUnit k) 6
  if s.hns.mirror = .mirrored then mirrorSend s (setMessage s.active s.seam.epoch) else s

/-- A key commit of domain 0 has begun and not flipped; the pairing's counter record waits for it (log 147). -/
def domain0Busy (s : Hw) : Bool :=
  s.keys.updates.any fun v => umDomain v.message = 0 && (v.stage = .writing || v.stage = .durable)

/-- Both sides have passed, and the link key stands: the pairing is committed (R412). The block to which the approval was sent
then tells the other, whose port shows OK when both seams are made (log 41). -/
def pairingCommit (s : Hw) : Hw :=
  match s.hns.ceremony with
  | some (_, a, p) =>
    if bothPassed s && !s.hns.localMade && (apUnpair a || (s.link (apLink s a)).keyed) && s.seam.st = .ready && !s.seam.dirty &&
        !domain0Busy s then
      let s := if apNoop s a then s else pairingMake s a
      if p.isNone then ceremonyEnd (linkSend s (apLink s a) 8 [stOk]) stOk 0
      else if s.hns.peerMade then ceremonyEnd s stOk 0
      else { s with hns := { s.hns with localMade := true } }
    else s
  | none => s

/-- PAIRING_COMMIT (R412). -/
def execPairingCommit (s : State) : Host.Outcome State Fault Refusal := s.work pairingCommit

end Sys2Proof.Machine
end

