-- ==== Sys2Proof/Machine/PeerWork.lean ====
section
/-! DEFINITION. What peers send: key material (R414, R416, R278), forwarded requests (R418, R419), and the leases, seams and
convergence of a mirror pair (R421, R423, R426). -/

namespace Sys2Proof.Machine

/-! ### Key material (R278, R414, R416, R426) -/

/-- A slot may come over a link: from a plain-paired block, or from the partner while the pair converges (R416, R426). -/
def sharedFrom (s : Hw) (k : Nat) : Bool :=
  if k = 7 then s.hns.mirror = .joining || s.hns.mirror = .mirrored else (plainPairs s).any fun b => meshLink s b = k

/-- The update message that stands for a copied slot: DELIVER, or DESTROY for a slot that is EMPTY (log 41). -/
def sharedMessage (slot : Nat) (counter attr limit : Word) : Bytes :=
  leBytes 8 (put 0 8 1 ||| put 8 8 (if fld attr 34 2 = 2 then kDeliver else kDestroy)).toNat ++
    leBytes 8 (put 0 12 (fld attr 16 12) ||| put 12 17 slot).toNat ++ leBytes 8 counter.toNat ++ zeros 48 ++
    leBytes 8 attr.toNat ++ leBytes 8 limit.toNat

/-- A copied slot is committed under steps 3 and 4 of R273 when its counter exceeds the slot's (R416). -/
def sharedSlot (s : Hw) (k slot : Nat) (counter attr limit : Word) (key : Bytes) : Hw :=
  if (s.link k).st != .up || !(s.link k).keyed || !sharedFrom s k || !slotExists slot || fld attr 50 14 != key.length ||
      counter ≤ (s.slot slot).updCounter then s
  else
    let v := { slotOfWords attr limit with key := key }
    let u : Update :=
      { id := updNextId s, source := .shared, message := sharedMessage slot counter attr limit, stage := .waiting
        staged := if fld attr 34 2 = 2 then v else {}, since := s.clk.core }
    updStaged (updReserve { s with keys := { s.keys with updates := s.keys.updates ++ [u] } } u) u.id

/-- SHARED_SLOT_COPY (R416). -/
def execSharedSlotCopy (link : BitVec 3) (slot : BitVec 17) (counter attr limit : Word) (key : Bytes) (s : State) :
    Host.Outcome State Fault Refusal := s.work fun h => sharedSlot h link.toNat slot.toNat counter attr limit key

/-- An update that the partner leads arrives: the message, then the formed key of a GENERATE or ENROL (R278). -/
def partnerUpdate (s : Hw) (m : Bytes) : Hw :=
  let n := umTotal m
  let id := updNextId s
  let s := updAccept s .partner (m.take n)
  match updOf s id with
  | some u => setUpd s { u with formed := m.drop n }
  | none => s

/-- The payload of a SECURE message, by its first byte (log 41). -/
def secureTake (s : Hw) (k : Nat) (m : Bytes) : Hw :=
  match m with
  | 5 :: b => if k = 7 && s.hns.mirror = .mirrored then partnerUpdate s b else s
  | 8 :: b => sharedSlot s k (leNat (b.take 8)) (wordAt b 1) (wordAt b 2) (wordAt b 3) (b.drop 32)
  | _ => s

/-- A SECURE message is opened under the link key, its tag checked before any byte is used: a tag that fails fences the link
(R414). -/
def secureOpen (k : Nat) (c tag : Bytes) (s : Hw) : Hw :=
  let l := s.link k
  if l.st != .up || !l.keyed then s
  else
    let iv := beBytes 12 l.rxSecure
    let s := s.modLink k fun l => { l with rxSecure := l.rxSecure + 1 }
    if gcmTag l.keyRx iv [] c = tag then secureTake s k (gcmOut l.keyRx iv c) else raise s (linkUnit k) 0x42

/-- SECURE_MESSAGE (R414). -/
def execSecureMessage (link : BitVec 3) (sealed tag : Bytes) (s : State) : Host.Outcome State Fault Refusal :=
  s.work (secureOpen link.toNat sealed tag)

/-! ### Forwarded requests (R418, R419) -/

/-- A request of a peer is known here: it waits, or it runs. -/
def peerKnows (s : Hw) (link : BitVec 3) (id : BitVec 8) : Bool :=
  (s.hns.arrivals.any fun a => a.link = link && a.id = id) || (peerCtx s link id).isSome

/-- A forwarded descriptor arrives and waits for admission (R418), with the deadline that is left of it (R419). -/
def forwardArrival (link : BitVec 3) (id : BitVec 8) (domain : BitVec 12) (remain : BitVec 32) (d : Block) (s : Hw) : Hw :=
  if (s.link link.toNat).st != .up || s.mc.mode = .seal || peerKnows s link id then s
  else
    let a : Arrival :=
      { link := link, id := id, domain := domain, desc := d, t0 := s.clk.core
        deadline := if remain = 0 then none else some (s.clk.core + remain.toNat) }
    let s := admitArrive s domain.toNat
    wake { s with hns := { s.hns with arrivals := s.hns.arrivals ++ [a] } }

/-- FORWARD_ARRIVAL (R418). -/
def execForwardArrival (link : BitVec 3) (id : BitVec 8) (domain : BitVec 12) (remain : BitVec 32) (descriptor : Block)
    (s : State) : Host.Outcome State Fault Refusal := s.work (forwardArrival link id domain remain descriptor)

/-- DATA flits of a forwarded request arrive on an UP link. -/
def forwardTake (link : BitVec 3) (id : BitVec 8) (m : Bytes) (ends : Bool) (s : Hw) : Hw :=
  if (s.link link.toNat).st != .up then s else forwardData s link id m ends

/-- FORWARD_DATA (R418). -/
def execForwardData (link : BitVec 3) (id : BitVec 8) (data : Bytes) (end_ : Bool) (s : State) :
    Host.Outcome State Fault Refusal := s.work (forwardTake link id data end_)

/-- A completion comes home: its record is ready, with FORWARDED, and commits in ring order (R419). -/
def forwardCompletion (link : BitVec 3) (id : BitVec 8) (r : CplRecord) (s : Hw) : Hw :=
  match fwdOf s link.toNat id.toNat with
  | none => s
  | some f =>
    let s := { s with hns := { s.hns with
      forwards := s.hns.forwards.filter fun g => !(g.link = f.link && g.id = f.id) } }
    let s := s.modRing f.ring.toNat fun r => { r with inFlight := r.inFlight - 1 }
    let rec' := { r with
      flags := r.flags ||| 0x20, epoch := f.req.epoch, tag := descTag f.req.desc, notifyNow := descFlag f.req.desc 1 }
    readyPut s (.never f.ring f.req.k rec' f.req.deadline (some (f.req.admittedAt, reqMask s f.req)))

/-- FORWARD_COMPLETION (R419). -/
def execForwardCompletion (link : BitVec 3) (id : BitVec 8) (status flags : BitVec 8) (bytes invocation : Word)
    (attempts : BitVec 8) (s : State) : Host.Outcome State Fault Refusal :=
  s.work (forwardCompletion link id
    { status := status, flags := flags, epoch := 0, tag := 0, bytes := bytes, invocation := invocation, duration := 0
      attempts := attempts, notifyNow := false })

/-- The block that a request came from withdraws it (R419): it is withdrawn under R64, and its completion is discarded. -/
def forwardWithdrawal (link : BitVec 3) (id : BitVec 8) (s : Hw) : Hw :=
  let s := { s with hns := { s.hns with arrivals := s.hns.arrivals.filter fun a => !(a.link = link && a.id = id) } }
  match peerCtx s link id with
  | some c => withdraw s c stTimeout
  | none => s

/-- FORWARD_WITHDRAWAL (R419). -/
def execForwardWithdrawal (link : BitVec 3) (id : BitVec 8) (s : State) : Host.Outcome State Fault Refusal :=
  s.work (forwardWithdrawal link id)

/-! ### Leases of a mirror pair (R421) -/

/-- A slot whose leases the pair grants. -/
def leaseSlot (s : Hw) (slot : Nat) : Bool :=
  slotExists slot && !slotWide slot && (s.slot slot).st = .full && countedAlg (s.slot slot).alg.toNat

/-- Write the lease entry of a lease that the other block owns: END is at least `e`. -/
def otherLease (s : Hw) (slot e : Nat) : Hw :=
  let s := s.setSlot slot { s.slot slot with endLease := max (s.slot slot).endLease e }
  kpWrite s 1 (leaseAddr slot) (leaseEntry slot (s.slot slot) (s.slot slot).endLease) (.lease [])

/-- A follower's request reaches the leader, which takes the next lease, writes its own entry and sends the grant. -/
def leaseAsked (slot : Nat) (s : Hw) : Hw :=
  if s.hns.mirror = .mirrored && mirrorRank s = 0 && leaseSlot s slot && kpLive s then
    let v := s.slot slot
    let e := v.endLease + leaseSize v.alg.toNat
    mirrorSend (otherLease s slot e) (grantMessage slot e true)
  else s

/-- MIRROR_LEASE_REQUEST (R421). -/
def execMirrorLeaseRequest (slot : BitVec 17) (s : State) : Host.Outcome State Fault Refusal := s.work (leaseAsked slot.toNat)

/-- A grant arrives: the block writes its own lease entry with the same END. -/
def leaseGranted (slot lease : Nat) (own : Bool) (s : Hw) : Hw :=
  if s.hns.mirror = .mirrored && leaseSlot s slot then
    let e := (lease + 1) * leaseSize (s.slot slot).alg.toNat
    if own then writeLease s slot e else otherLease s slot e
  else s

/-- MIRROR_LEASE_GRANT (R421). -/
def execMirrorLeaseGrant (slot : BitVec 17) (lease : BitVec 33) (own : Bool) (s : State) : Host.Outcome State Fault Refusal :=
  s.work (leaseGranted slot.toNat lease.toNat own)

/-! ### Seams of a mirror pair (R423) -/

/-- A word of a set by its key is a pairing word (R412). -/
def pairingKey (k : Nat) : Bool := 0x1640 ≤ k && k < 0x1680

/-- The set that an image of the mirror link holds: its shadowed words, with this block's own pairing words
(R423, log 47). -/
def imageSet (s : Hw) (image : Bytes) : CfgSet :=
  let theirs := (imageHolds image).filter fun e => isShadowed (8 * e.1) && !pairingKey e.1
  let own := s.active.filter fun e => pairingKey e.1
  (theirs ++ own).foldl (fun c e => tset 0 c e.1 e.2) []

/-- The partner's new active set arrives in image form and is seamed with its EPOCH, whatever the shadow holds (R300, R423). -/
def mirrorSeam (epoch : BitVec 16) (image : Bytes) (s : Hw) : Hw :=
  if (s.hns.mirror = .mirrored || s.hns.mirror = .joining) && (s.link 7).st = .up && s.seam.st = .ready then
    let s := if s.seam.dirty then { s with seam := { s.seam with editLost := true } } else s
    seamMake { s with shadow := imageSet s image } epoch
  else s

/-- MIRROR_SEAM_IMAGE (R423). -/
def execMirrorSeamImage (epoch : BitVec 16) (image : Bytes) (s : State) : Host.Outcome State Fault Refusal :=
  s.work (mirrorSeam epoch image)

/-! ### Convergence (R426) -/

/-- A lease END takes the larger of the two, and a raised one is written (R426 step 3). -/
def endRaise (s : Hw) (slot e : Nat) : Hw := if leaseSlot s slot && (s.slot slot).endLease < e then otherLease s slot e else s

/-- What the partner sends of itself while the pair converges (R426): its domains' counters and floors, the update counters of
its slots, its lease ENDs, and the digest of its active set. -/
structure Converging where
  counters : List (Nat × Word)
  floors : List (Nat × Word)
  slots : List (Nat × Word)
  ends : List (Nat × Nat)
  digest : Bytes
deriving DecidableEq, Repr

/-- The digest of the active set's image by which the blocks of a pair compare their sets: without the pairing words, which
differ by block (R426 step 4, log 47). -/
def setDigest (s : Hw) : Bytes := sha384 (imageBytes (s.active.filter fun e => !pairingKey e.1) s.seam.epoch)

/-- What this block sends of itself (R426 steps 1 to 4, log 41). -/
def convergeMessages (s : Hw) : List Bytes :=
  let pairs := fun (l : List (Nat × Word)) => l.flatMap fun e => leBytes 8 e.1 ++ leBytes 8 e.2.toNat
  [7 :: pairs s.keys.counters, 9 :: pairs s.keys.floors,
    10 :: pairs ((s.keys.slots.map fun e => (e.1, e.2.updCounter)).filter fun e => e.2 != 0),
    11 :: pairs ((s.keys.slots.map fun e => (e.1, BitVec.ofNat 64 e.2.endLease)).filter fun e => e.2 != 0), 12 :: setDigest s]

/-- The update counter of a slot's record on the partner. -/
def Converging.counterOf (v : Converging) (slot : Nat) : Word := ((v.slots.find? fun e => e.1 = slot).map (·.2)).getD 0

/-- Nothing of the partner remains to be taken: no slot of it is ahead, and a follower has its leader's set (R426 steps 2, 4). -/
def convergeTaken (s : Hw) (v : Converging) : Bool :=
  (v.slots.all fun e => e.2 ≤ (s.slot e.1).updCounter) && (mirrorRank s = 0 || v.digest = setDigest s)

/-- Send every slot whose record is ahead of the partner's (R426 step 2). -/
def slotsSend (s : Hw) (v : Converging) : Hw :=
  (s.keys.slots.filter fun e => v.counterOf e.1 < e.2.updCounter).foldl
    (fun s e => secureSend s 7 (slotMessage e.1 e.2 e.2.updCounter)) s

/-- The convergence of R426, at its last step: each side has sent what the other lacks, counters, floors and lease ENDs take the
larger of the two, a leader whose set differs sends it, and the pair is MIRRORED: event 0x05. -/
def converged (v : Converging) (s : Hw) : Hw :=
  if s.hns.mirror = .joining && (s.link 7).st = .up && (s.link 7).keyed && convergeTaken s v then
    let s := slotsSend ((convergeMessages s).foldl mirrorSend s) v
    let s := v.counters.foldl (fun s e => if e.1 < 4096 then raiseCounter s e.1 e.2 else s) s
    let s := v.floors.foldl (fun s e => if e.1 < 4096 then raiseDomFloor s e.1 e.2 else s) s
    let s := v.ends.foldl (fun s e => endRaise s e.1 e.2) s
    let s := if mirrorRank s = 0 && v.digest != setDigest s then mirrorSend s (setMessage s.active s.seam.epoch) else s
    note { s with hns := { s.hns with mirror := .mirrored, k0 := [] } } (linkUnit 7) 5
  else s

/-- CONVERGENCE_DONE (R426). -/
def execConvergenceDone (counters floors slots : List (Nat × Word)) (s : State) (ends : List (Nat × Nat) := [])
    (digest : Bytes := []) :
    Host.Outcome State Fault Refusal := s.work (converged ⟨counters, floors, slots, ends, digest⟩)

end Sys2Proof.Machine
end

