-- ==== Sys2Proof/Machine/RegWrite.lean ====
section
/-! DEFINITION. A control port's write of a register that has no behaviour of its own (R5, R306, R307): which registers those
are, which of them need the cinch, and what each keeps of the word. A register with a command of its own is written by that
command. -/

namespace Sys2Proof.Machine

/-- Pick the bank of a port. -/
def portPick {α : Type} (p : CtlPort) (a b : α) : α := match p with | .ctla => a | .ctlb => b

/-- What writing a register does, and whether the write needs the cinch. -/
structure RegWrite where
  cinch : Bool
  act : Hw → Hw

/-! ### Units -/

/-- A write at a fault block (R343, R346, R359). -/
def fltWrite (p : CtlPort) (u o : Nat) (v : Word) : Option RegWrite :=
  match o with
  | 0x00 => some ⟨false, fun s => if !bit v 2 && !bit v 3 then s else (nextClock s).modBlk u fun b =>
      let b := if bit v 2 then serviced b else b
      if bit v 3 then { b with info := false } else b⟩
  | 0x18 => some ⟨false, fun s => s.modBlk u fun b =>
      match p with
      | .ctla => { b with hselA := v.extractLsb' 0 3 }
      | .ctlb => { b with hselB := v.extractLsb' 0 3 }⟩
  | 0x20 => some ⟨true, fun s => s.modBlk u fun b => { b with irqCorr := bit v 8 }⟩
  | 0x30 => some ⟨true, injArm u v⟩
  | _ => none

/-- A write of CPH_CFG (R139, R168): CHECK_DIS only in Factory Test. -/
def pairWrite (n : Nat) (v : Word) (s : Hw) : Hw :=
  s.modPair n fun q =>
    { q with cfg := putb 1 (bit v 1) ||| putb 0 (if s.mc.mode = .ftest then bit v 0 else bit q.cfg 0) }

/-- A write of FLT_ERR_HOLD (R358): a LEVEL written during a pulse waits for its end. -/
def errHoldWrite (v : Word) (s : Hw) : Hw :=
  let w := { s.ward with errLatch := bit v 1 }
  { s with ward := if w.errPulse then { w with levelWrite := some (bit v 0) } else { w with errLevel := bit v 0 } }

/-- A write at a port's trap window, with a claim (R90): w0, CTX, DOM and EPOCH ignore it. -/
def trapWrite (p : CtlPort) (o : Nat) (v : Word) (s : Hw) : Hw :=
  match s.claim p with
  | none => s
  | some k =>
    let c := k.ctx
    if 0x100 ≤ o && o < 0x200 then s.modCtx c fun x => x.rset (BitVec.ofNat 5 ((o - 0x100) / 8)) v
    else if 0x200 ≤ o && o < 0x248 then
      let s := s.modCtx c fun x => specWrite x ((o - 0x200) / 8) v
      if o = 0x200 then s.setClaim p (some { k with lcWritten := true }) else s
    else s.modCtx c fun x => { x with scratch := mwrite x.scratch (o - 0x1000) (leBytes 8 v.toNat) }

/-! ### The block's registers -/

/-- The registers at fixed offsets that a write changes and no other command does. -/
def fixedWrite (p : CtlPort) (off : Nat) (v : Word) : Option RegWrite :=
  match off with
  | 0x1018 => some ⟨true, fun s => { s with cinch := { s.cinch with lease := v &&& 0x3fff#64 } }⟩
  | 0x1020 => some ⟨false, fun s => if bit v 0 then { nextClock s with cinch := { s.cinch with broken := false } } else s⟩
  | 0x1038 => some ⟨false, fun s => if bit v 9 then { nextClock s with seam := { s.seam with editLost := false } } else s⟩
  | 0x1040 => some ⟨false, fun s => portPick p { s with viewA := bit v 0 } { s with viewB := bit v 0 }⟩
  | 0x2010 => some ⟨true, fun s => { s with mc := { s.mc with cfg := v &&& 0xffff#64 } }⟩
  | 0x3030 => some ⟨true, fun s => { s with sec := { s.sec with pwrCfg := v &&& 0xffffffff#64 } }⟩
  | 0x3090 => some ⟨false, fun s => if v.extractLsb' 16 6 = 0 then s
      else { nextClock s with sec := { s.sec with trips := s.sec.trips &&& ~~~(v.extractLsb' 16 6) } }⟩
  | 0x7FC0 => some ⟨false, errHoldWrite v⟩
  | 0x8008 => some ⟨true, fun s => { s with cen := { s.cen with cfg := v &&& 0x3ffff#64 } }⟩
  | 0x8020 => some ⟨false, fun s =>
      { s with cen := portPick p { s.cen with vselA := v.extractLsb' 0 24 } { s.cen with vselB := v.extractLsb' 0 24 } }⟩
  | 0x9000 => some ⟨false, fun s => if !bit v 5 && !bit v 3 then s else
      { nextClock s with recd := { s.recd with lost := s.recd.lost && !bit v 5, autoThaw := s.recd.autoThaw && !bit v 3 } }⟩
  | 0xA000 => some ⟨true, fun s => { s with kp := { s.kp with cfg := v &&& 0xffff0000ffff#64 } }⟩
  | 0xC010 => some ⟨true, fun s => s.setIntake p { s.intake p with rcptAddr := v &&& ~~~(0x3f#64) }⟩
  | 0xC020 => some ⟨false, fun s => s.setIntake p { s.intake p with dsel := v.extractLsb' 0 12 }⟩
  | 0xC410 => some ⟨false, fun s =>
      { s with keys := portPick p { s.keys with selA := v.extractLsb' 0 17 } { s.keys with selB := v.extractLsb' 0 17 } }⟩
  | 0xD000 => some ⟨true, fun s => { s with ucode := { s.ucode with addr := v &&& ~~~(0x3f#64) } }⟩
  | 0xE008 => some ⟨true, fun s => { s with board := { s.board with ctl := v &&& 1#64 } }⟩
  | 0x10000 => some ⟨true, fun s => { s with trapq := { s.trapq with cfg := v &&& 0x1ffff#64 } }⟩
  | 0x50020 => some ⟨false, fun s => portPick p { s with dselA := v.extractLsb' 0 12 } { s with dselB := v.extractLsb' 0 12 }⟩
  | 0xE0000 => some ⟨true, fun s => { s with awlLoad := bit v 0 }⟩
  | 0xF0000 => some ⟨true, fun s => { s with rm := { s.rm with cfg := v &&& 0xffff#64 } }⟩
  | _ => none

/-- What a write at an offset does; none where nothing is written. -/
def regWriteOf (p : CtlPort) (off : Nat) (v : Word) : Option RegWrite :=
  if shadowMask off != 0 then some ⟨true, shadowPut off v⟩
  else if 0x4000 ≤ off && off < 0x7FC0 then
    (if unitExists ((off - 0x4000) / 0x40) then fltWrite p ((off - 0x4000) / 0x40) (off % 0x40) v else none)
  else if 0xF000 ≤ off && off < 0xF800 then
    some ⟨true, fun s =>
      let e := tmod {} s.board.entries ((off - 0xF000) / 8) fun e => { e with own := v &&& 0x8000000000000fff#64 }
      { s with board := { s.board with entries := e } }⟩
  else if (0x10100 ≤ off && off < 0x10248) || (0x11000 ≤ off && off < 0x12000) then
    some ⟨false, trapWrite p (off - 0x10000) v⟩
  else if 0x20000 ≤ off && off < 0x30000 && off % 0x1000 = 0 then some ⟨true, pairWrite ((off - 0x20000) / 0x1000) v⟩
  else if 0x60000 ≤ off && off < 0x62000 && off % 0x100 = 0 then
    some ⟨true, fun s => s.modMmp ((off - 0x60000) / 0x100) fun m => { m with cfg := v &&& 0xffff#64 }⟩
  else fixedWrite p off v

/-- Command registers whose header says "cinch needed" (R307): a write by the holder that sets a command bit is that command's
own row, and one that sets none does nothing. -/
def cinchCommand (off : Nat) : Bool :=
  [0x1010, 0x1030, 0x2008, 0x3008, 0x3018, 0x3028, 0xA008, 0xB018, 0xB020, 0xC000, 0xC008, 0xD008, 0xD018, 0xE010].contains off ||
    (0x200000 ≤ off && off < 0x600000 && off % 0x40 = 0x38)

/-- A register write (R306, R307): a narrow or misaligned access is refused, a read too, and a write that needs the cinch is
ignored without it. With `read`, the access is a read, which changes nothing unless it is refused (log 28). -/
def execRegisterWrite (port : CtlPort) (offset : BitVec 24) (be : BitVec 8) (value : Word) (s : State) (read : Bool := false) :
    Host.Outcome State Fault Refusal :=
  if be != 0xff#8 || offset.toNat % 8 != 0 then s.opened port (accessRefused port offset.toNat)
  else if read then s.opened port id
  else match regWriteOf port offset.toNat value with
    | some w => if w.cinch then s.cinched port w.act else s.opened port w.act
    | none => if cinchCommand offset.toNat then s.cinched port id else s.opened port id

end Sys2Proof.Machine
end

