-- ==== Sys2Proof/Machine/Dispatch.lean ====
section
/-! DEFINITION. The meaning of a command: one arm for each row of the table, in its order. -/

namespace Sys2Proof.Machine

/-- The command's effect on everything but the queue. -/
def exec (i : Instr) (s : State) : Host.Outcome State Fault Refusal :=
  match i with
  | .add c rd ra rb => Sys2Proof.Machine.execAdd c rd ra rb s
  | .sub c rd ra rb => Sys2Proof.Machine.execSub c rd ra rb s
  | .and c rd ra rb => Sys2Proof.Machine.execAnd c rd ra rb s
  | .or c rd ra rb => Sys2Proof.Machine.execOr c rd ra rb s
  | .xor c rd ra rb => Sys2Proof.Machine.execXor c rd ra rb s
  | .andn c rd ra rb => Sys2Proof.Machine.execAndn c rd ra rb s
  | .shl c rd ra rb => Sys2Proof.Machine.execShl c rd ra rb s
  | .shr c rd ra rb => Sys2Proof.Machine.execShr c rd ra rb s
  | .sar c rd ra rb => Sys2Proof.Machine.execSar c rd ra rb s
  | .ror c rd ra rb => Sys2Proof.Machine.execRor c rd ra rb s
  | .rol c rd ra rb => Sys2Proof.Machine.execRol c rd ra rb s
  | .neg c rd ra => Sys2Proof.Machine.execNeg c rd ra s
  | .cmp c ra rb => Sys2Proof.Machine.execCmp c ra rb s
  | .bswap c rd ra => Sys2Proof.Machine.execBswap c rd ra s
  | .clz c rd ra => Sys2Proof.Machine.execClz c rd ra s
  | .popc c rd ra => Sys2Proof.Machine.execPopc c rd ra s
  | .nop c => Sys2Proof.Machine.execNop c s
  | .addi c rd ra imm => Sys2Proof.Machine.execAddi c rd ra imm s
  | .andi c rd ra imm => Sys2Proof.Machine.execAndi c rd ra imm s
  | .ori c rd ra imm => Sys2Proof.Machine.execOri c rd ra imm s
  | .xori c rd ra imm => Sys2Proof.Machine.execXori c rd ra imm s
  | .cmpi c ra imm => Sys2Proof.Machine.execCmpi c ra imm s
  | .shi c rd ra kind amount => Sys2Proof.Machine.execShi c rd ra kind amount s
  | .movi c rd hw imm => Sys2Proof.Machine.execMovi c rd hw imm s
  | .movk c rd hw imm => Sys2Proof.Machine.execMovk c rd hw imm s
  | .mul c rd ra rb => Sys2Proof.Machine.execMul c rd ra rb s
  | .mulhu c rd ra rb => Sys2Proof.Machine.execMulhu c rd ra rb s
  | .mulhs c rd ra rb => Sys2Proof.Machine.execMulhs c rd ra rb s
  | .div c rd rc ra rb => Sys2Proof.Machine.execDiv c rd rc ra rb s
  | .divu c rd rc ra rb => Sys2Proof.Machine.execDivu c rd rc ra rb s
  | .mfs c rd num => Sys2Proof.Machine.execMfs c rd num s
  | .movs c num ra => Sys2Proof.Machine.execMovs c num ra s
  | .ld c rd rb mode sz sx adr read => Sys2Proof.Machine.execLd c rd rb mode sz sx adr read s
  | .st c rd rb mode sz sx adr => Sys2Proof.Machine.execSt c rd rb mode sz sx adr s
  | .ldw c rd rb mode sz sx adr read => Sys2Proof.Machine.execLdw c rd rb mode sz sx adr read s
  | .stw c rd rb mode sz sx adr => Sys2Proof.Machine.execStw c rd rb mode sz sx adr s
  | .bcc c cond off => Sys2Proof.Machine.execBcc c cond off s
  | .jal c rd off => Sys2Proof.Machine.execJal c rd off s
  | .jr c rd ra => Sys2Proof.Machine.execJr c rd ra s
  | .rep c src ra imm => Sys2Proof.Machine.execRep c src ra imm s
  | .wait c rd ra rb any => Sys2Proof.Machine.execWait c rd ra rb any s
  | .waitEnd c => Sys2Proof.Machine.execWaitEnd c s
  | .tstat c rd rc ra => Sys2Proof.Machine.execTstat c rd rc ra s
  | .ciph c rd ra rb => Sys2Proof.Machine.execCiph c rd ra rb s
  | .dgst c rd ra rb => Sys2Proof.Machine.execDgst c rd ra rb s
  | .pk c rd ra rb => Sys2Proof.Machine.execPk c rd ra rb s
  | .kchk c rd ra rb => Sys2Proof.Machine.execKchk c rd ra rb s
  | .kint c rd ra rb => Sys2Proof.Machine.execKint c rd ra rb s
  | .katt c rd ra rb => Sys2Proof.Machine.execKatt c rd ra rb s
  | .ndraw c rd rc ra rb => Sys2Proof.Machine.execNdraw c rd rc ra rb s
  | .xgath c rd ra rb => Sys2Proof.Machine.execXgath c rd ra rb s
  | .xscat c rd ra rb => Sys2Proof.Machine.execXscat c rd ra rb s
  | .xload c rd ra rb => Sys2Proof.Machine.execXload c rd ra rb s
  | .xstore c rd ra rb => Sys2Proof.Machine.execXstore c rd ra rb s
  | .xlib c rd ra rb => Sys2Proof.Machine.execXlib c rd ra rb s
  | .cmpct c rd rc ra rb len => Sys2Proof.Machine.execCmpct c rd rc ra rb len s
  | .cmpctDone c t read => Sys2Proof.Machine.execCmpctDone c t s read
  | .alloc c rd rc ra rb => Sys2Proof.Machine.execAlloc c rd rc ra rb s
  | .free c rd rc rb => Sys2Proof.Machine.execFree c rd rc rb s
  | .join c rd rb => Sys2Proof.Machine.execJoin c rd rb s
  | .post c reg ra status => Sys2Proof.Machine.execPost c reg ra status s
  | .signal c rd rc ra rb => Sys2Proof.Machine.execSignal c rd rc ra rb s
  | .jobPassedToEngine c t => Sys2Proof.Machine.execJobPassedToEngine c t s
  | .engineQueueAccept c => Sys2Proof.Machine.execEngineQueueAccept c s
  | .bufferAllocated c t => Sys2Proof.Machine.execBufferAllocated c t s
  | .allocWaitExpiry c t => Sys2Proof.Machine.execAllocWaitExpiry c t s
  | .bufferZeroed buf readBack => Sys2Proof.Machine.execBufferZeroed buf readBack s
  | .stitch kind bench agree read => Sys2Proof.Machine.execStitch kind bench agree read s
  | .tagDecision c t agree read => Sys2Proof.Machine.execTagDecision c t s agree read
  | .scrubComplete c t => Sys2Proof.Machine.execScrubComplete c t s
  | .scrubStop c t => Sys2Proof.Machine.execScrubStop c t s
  | .maskReseedRequest bench checker => Sys2Proof.Machine.execMaskReseedRequest bench checker s
  | .maskReseedArrival bench checker => Sys2Proof.Machine.execMaskReseedArrival bench checker s
  | .reseedDeadline bench checker => Sys2Proof.Machine.execReseedDeadline bench checker s
  | .digestAbsorb e read => Sys2Proof.Machine.execDigestAbsorb e read s
  | .digestClose c t read => Sys2Proof.Machine.execDigestClose c t s read
  | .pkJobTake unit => Sys2Proof.Machine.execPkJobTake unit s
  | .pkRelease unit agree => Sys2Proof.Machine.execPkRelease unit agree s
  | .pkResultWritten unit => Sys2Proof.Machine.execPkResultWritten unit s
  | .burnishEnd unit clean => Sys2Proof.Machine.execBurnishEnd unit clean s
  | .curveSegmentEnd unit => Sys2Proof.Machine.execCurveSegmentEnd unit s
  | .ucodeVerifyEnd agree => Sys2Proof.Machine.execUcodeVerifyEnd s agree
  | .identityReady => Sys2Proof.Machine.execIdentityReady s
  | .mmReadResponse port tag data last err => Sys2Proof.Machine.execMmReadResponse port tag data last err s
  | .mmWriteAck port tag err => Sys2Proof.Machine.execMmWriteAck port tag err s
  | .mmResponseTimeout port => Sys2Proof.Machine.execMmResponseTimeout port s
  | .xferPieceIssue c t read => Sys2Proof.Machine.execXferPieceIssue c t read s
  | .submissionDoorbell port message => Sys2Proof.Machine.execSubmissionDoorbell port message s
  | .consumeDoorbell port message => Sys2Proof.Machine.execConsumeDoorbell port message s
  | .descriptorFetch ring => Sys2Proof.Machine.execDescriptorFetch ring s
  | .descriptorArrival ring => Sys2Proof.Machine.execDescriptorArrival ring s
  | .admission => Sys2Proof.Machine.execAdmission s
  | .recordCommit => Sys2Proof.Machine.execRecordCommit s
  | .recordWriteAck ring k => Sys2Proof.Machine.execRecordWriteAck ring k s
  | .recordWriteFail ring k => Sys2Proof.Machine.execRecordWriteFail ring k s
  | .deadlineTimeout target => Sys2Proof.Machine.execDeadlineTimeout target s
  | .notifyTimer ring => Sys2Proof.Machine.execNotifyTimer ring s
  | .notificationSend port => Sys2Proof.Machine.execNotificationSend port s
  | .contextQuiesced c => Sys2Proof.Machine.execContextQuiesced c s
  | .ringReset port ring withRestart => Sys2Proof.Machine.execRingReset port ring withRestart s
  | .ringRestart port ring => Sys2Proof.Machine.execRingRestart port ring s
  | .trapqClaim port both => Sys2Proof.Machine.execTrapqClaim port both s
  | .advance port => Sys2Proof.Machine.execAdvance port s
  | .finish port => Sys2Proof.Machine.execFinish port s
  | .retry port => Sys2Proof.Machine.execRetry port s
  | .abort port => Sys2Proof.Machine.execAbort port s
  | .trapqPcWrite port pc => Sys2Proof.Machine.execTrapqPcWrite port pc s
  | .trapDeadlineExpiry c => Sys2Proof.Machine.execTrapDeadlineExpiry c s
  | .cinchTicketRead port both => Sys2Proof.Machine.execCinchTicketRead port both s
  | .noteWr port note => Sys2Proof.Machine.execNoteWr port note s
  | .renew port => Sys2Proof.Machine.execRenew port s
  | .release port => Sys2Proof.Machine.execRelease port s
  | .cinchLeaseExpiry => Sys2Proof.Machine.execCinchLeaseExpiry s
  | .shadowWrite port offset value => Sys2Proof.Machine.execShadowWrite port offset value s
  | .go port withDiscard => Sys2Proof.Machine.execGo port withDiscard s
  | .discard port => Sys2Proof.Machine.execDiscard port s
  | .seamDrainEnd => Sys2Proof.Machine.execSeamDrainEnd s
  | .seamCopyEnd => Sys2Proof.Machine.execSeamCopyEnd s
  | .configImageAck => Sys2Proof.Machine.execConfigImageAck s
  | .configPointerAck => Sys2Proof.Machine.execConfigPointerAck s
  | .maint port alone => Sys2Proof.Machine.execMaint port alone s
  | .resume port alone => Sys2Proof.Machine.execResume port s alone
  | .ftest port alone => Sys2Proof.Machine.execFtest port s alone
  | .seal port alone => Sys2Proof.Machine.execSeal port s alone
  | .maintDrainEnd => Sys2Proof.Machine.execMaintDrainEnd s
  | .maintDrainLimit => Sys2Proof.Machine.execMaintDrainLimit s
  | .powerFailWarning => Sys2Proof.Machine.execPowerFailWarning s
  | .sealReached => Sys2Proof.Machine.execSealReached s
  | .sealTimeout => Sys2Proof.Machine.execSealTimeout s
  | .porRelease block idcode kill => Sys2Proof.Machine.execPorRelease block idcode kill s
  | .porAssert => Sys2Proof.Machine.execPorAssert s
  | .fuseReadDone words lockstepOk => Sys2Proof.Machine.execFuseReadDone words lockstepOk s
  | .keeperReadResponse tag err => Sys2Proof.Machine.execKeeperReadResponse tag err s
  | .configImageRead currentOk otherOk => Sys2Proof.Machine.execConfigImageRead currentOk otherOk s
  | .restoreRecord slot => Sys2Proof.Machine.execRestoreRecord slot s
  | .pilotEntry => Sys2Proof.Machine.execPilotEntry s
  | .pilotEnd => Sys2Proof.Machine.execPilotEnd s
  | .entropyStartupPass => Sys2Proof.Machine.execEntropyStartupPass s
  | .entropyHealthFail startup adaptive source => Sys2Proof.Machine.execEntropyHealthFail startup adaptive source s
  | .drbgReseed => Sys2Proof.Machine.execDrbgReseed s
  | .leaseDurable block => Sys2Proof.Machine.execLeaseDurable block s
  | .chargeWaitExpiry slot => Sys2Proof.Machine.execChargeWaitExpiry slot s
  | .keeperAckTimeout => Sys2Proof.Machine.execKeeperAckTimeout s
  | .format port => Sys2Proof.Machine.execFormat port s
  | .formatComplete => Sys2Proof.Machine.execFormatComplete s
  | .patrolRead bank positions flipped => Sys2Proof.Machine.execPatrolRead bank positions flipped s
  | .correctedWriteBack buf word => Sys2Proof.Machine.execCorrectedWriteBack buf word s
  | .start port => Sys2Proof.Machine.execStart port s
  | .updAbort port => Sys2Proof.Machine.execUpdAbort port s
  | .updData port word => Sys2Proof.Machine.execUpdData port word s
  | .updateVerified id => Sys2Proof.Machine.execUpdateVerified id s
  | .updateStaged id => Sys2Proof.Machine.execUpdateStaged id s
  | .updateFlip id => Sys2Proof.Machine.execUpdateFlip id s
  | .stagingWaitExpiry id => Sys2Proof.Machine.execStagingWaitExpiry id s
  | .partnerUpdateAck id => Sys2Proof.Machine.execPartnerUpdateAck id s
  | .enrolReceipt id => Sys2Proof.Machine.execEnrolReceipt id s
  | .hardwareEvent unit event detail => Sys2Proof.Machine.execHardwareEvent unit event detail s
  | .correctedEvent unit event data => Sys2Proof.Machine.execCorrectedEvent unit event data s
  | .fatalEvent unit event data => Sys2Proof.Machine.execFatalEvent unit event data s
  | .errPulseEnd => Sys2Proof.Machine.execErrPulseEnd s
  | .pend port unit => Sys2Proof.Machine.execPend port unit s
  | .histClr port unit => Sys2Proof.Machine.execHistClr port unit s
  | .unitRst port unit => Sys2Proof.Machine.execUnitRst port unit s
  | .unitResetDone unit passed => Sys2Proof.Machine.execUnitResetDone unit passed s
  | .warm port => Sys2Proof.Machine.execWarm port s
  | .blkRst => Sys2Proof.Machine.execBlkRst s
  | .warmBringupStart => Sys2Proof.Machine.execWarmBringupStart s
  | .arm port unit value => Sys2Proof.Machine.execArm port unit value s
  | .faultInjection unit => Sys2Proof.Machine.execFaultInjection unit s
  | .load port => Sys2Proof.Machine.execLoad port s
  | .raiseFloor port => Sys2Proof.Machine.execRaiseFloor port s
  | .clear port => Sys2Proof.Machine.execClear port s
  | .dgbClearEntry port index => Sys2Proof.Machine.execDgbClearEntry port index s
  | .dgbClearAll port => Sys2Proof.Machine.execDgbClearAll port s
  | .traceRecordSent => Sys2Proof.Machine.execTraceRecordSent s
  | .cenTriggerGo => Sys2Proof.Machine.execCenTriggerGo s
  | .censusPeriod => Sys2Proof.Machine.execCensusPeriod s
  | .censusMarker link initiator seq => Sys2Proof.Machine.execCensusMarker link initiator seq s
  | .censusLatch offset => Sys2Proof.Machine.execCensusLatch offset s
  | .censusComplete => Sys2Proof.Machine.execCensusComplete s
  | .censusDoneReceived link peer seq => Sys2Proof.Machine.execCensusDoneReceived link peer seq s
  | .censusPartialTimeout => Sys2Proof.Machine.execCensusPartialTimeout s
  | .freeze port => Sys2Proof.Machine.execFreeze port s
  | .thaw port => Sys2Proof.Machine.execThaw port s
  | .flush port => Sys2Proof.Machine.execFlush port s
  | .checkpointTimer => Sys2Proof.Machine.execCheckpointTimer s
  | .tokenRefill code => Sys2Proof.Machine.execTokenRefill code s
  | .freezeAutoThaw => Sys2Proof.Machine.execFreezeAutoThaw s
  | .recorderUnitAck err => Sys2Proof.Machine.execRecorderUnitAck err s
  | .recorderStop ownState => Sys2Proof.Machine.execRecorderStop ownState s
  | .tombstoneAck err => Sys2Proof.Machine.execTombstoneAck err s
  | .recRdFetch port page unit => Sys2Proof.Machine.execRecRdFetch port page unit s
  | .temperatureSample celsius => Sys2Proof.Machine.execTemperatureSample celsius s
  | .timeRecordTimer => Sys2Proof.Machine.execTimeRecordTimer s
  | .lcArm port target => Sys2Proof.Machine.execLcArm port target s
  | .lcGo port target withArm => Sys2Proof.Machine.execLcGo port target withArm s
  | .dbgGo port target => Sys2Proof.Machine.execDbgGo port target s
  | .idle port withRetain woken => Sys2Proof.Machine.execIdle port withRetain s woken
  | .retain port => Sys2Proof.Machine.execRetain port s
  | .autoIdle woken => Sys2Proof.Machine.execAutoIdle s woken
  | .wakeEvent => Sys2Proof.Machine.execWakeEvent s
  | .retentionReady => Sys2Proof.Machine.execRetentionReady s
  | .retentionDrainLimit => Sys2Proof.Machine.execRetentionDrainLimit s
  | .coreSupplyGood => Sys2Proof.Machine.execCoreSupplyGood s
  | .resumeDone lockstepOk => Sys2Proof.Machine.execResumeDone s lockstepOk
  | .coreGoodFall => Sys2Proof.Machine.execCoreGoodFall s
  | .killLine => Sys2Proof.Machine.execKillLine s
  | .tgenStep data => Sys2Proof.Machine.execTgenStep s data
  | .killAckRelease => Sys2Proof.Machine.execKillAckRelease s
  | .detectorTrip detector data => Sys2Proof.Machine.execDetectorTrip detector data s
  | .fuseResponse data err => Sys2Proof.Machine.execFuseResponse data err s
  | .fuseTimeout => Sys2Proof.Machine.execFuseTimeout s
  | .ctlPortReset port => Sys2Proof.Machine.execCtlPortReset port s
  | .mmPortReset port => Sys2Proof.Machine.execMmPortReset port s
  | .portReset which => Sys2Proof.Machine.execPortReset which s
  | .helloReceived link data => Sys2Proof.Machine.execHelloReceived link data s
  | .linkTrainRetry link => Sys2Proof.Machine.execLinkTrainRetry link s
  | .flitReceived link data control => Sys2Proof.Machine.execFlitReceived link data control s
  | .nakReceived link ack => Sys2Proof.Machine.execNakReceived link ack s
  | .replayTimer link => Sys2Proof.Machine.execReplayTimer link s
  | .heartbeatSend => Sys2Proof.Machine.execHeartbeatSend s
  | .heartbeatLoss => Sys2Proof.Machine.execHeartbeatLoss s
  | .hnsApprStart port => Sys2Proof.Machine.execHnsApprStart port s
  | .hnsApprAbort port => Sys2Proof.Machine.execHnsApprAbort port s
  | .hnsApprData port word => Sys2Proof.Machine.execHnsApprData port word s
  | .approvalFromPeer link message => Sys2Proof.Machine.execApprovalFromPeer link message s
  | .pairingCommit => Sys2Proof.Machine.execPairingCommit s
  | .linkKeyExchangeDone link message => Sys2Proof.Machine.execLinkKeyExchangeDone link message s
  | .linkKeyRetry link => Sys2Proof.Machine.execLinkKeyRetry link s
  | .secureMessage link sealed tag => Sys2Proof.Machine.execSecureMessage link sealed tag s
  | .sharedSlotCopy link slot counter attr limit key => Sys2Proof.Machine.execSharedSlotCopy link slot counter attr limit key s
  | .forwardArrival link id domain remain descriptor => Sys2Proof.Machine.execForwardArrival link id domain remain descriptor s
  | .forwardData link id data end_ => Sys2Proof.Machine.execForwardData link id data end_ s
  | .forwardCompletion link id status flags bytes invocation attempts => Sys2Proof.Machine.execForwardCompletion link id status flags bytes invocation attempts s
  | .forwardWithdrawal link id => Sys2Proof.Machine.execForwardWithdrawal link id s
  | .mirrorLeaseRequest slot => Sys2Proof.Machine.execMirrorLeaseRequest slot s
  | .mirrorLeaseGrant slot lease own => Sys2Proof.Machine.execMirrorLeaseGrant slot lease own s
  | .mirrorSeamImage epoch image => Sys2Proof.Machine.execMirrorSeamImage epoch image s
  | .convergenceDone counters floors slots ends digest => Sys2Proof.Machine.execConvergenceDone counters floors slots s ends digest
  | .registerWrite port offset be value read => Sys2Proof.Machine.execRegisterWrite port offset be value s read
  | .reservedOpcode c word => Sys2Proof.Machine.execReservedOpcode c word s
  | .keeperWriteAck tag err => Sys2Proof.Machine.execKeeperWriteAck tag err s
  | .maskStall kind bench => Sys2Proof.Machine.execMaskStall kind bench s
  | .supplyRemoved both => Sys2Proof.Machine.execSupplyRemoved both s
  | .plPortReset link => Sys2Proof.Machine.execPlPortReset link s
  | .plPhyUpChange link up => Sys2Proof.Machine.execPlPhyUpChange link up s
  | .powerFailWarningClear => Sys2Proof.Machine.execPowerFailWarningClear s

end Sys2Proof.Machine
end

