-- ==== Sys2Proof/Machine/Pins.lean ====
section
/-! DEFINITION. The pins: the test port (R388, R443, R457), the outputs and their clamp (R442, R453), and what a control
port answers (R430). -/

namespace Sys2Proof.Machine

/-! ### The clamp (R453) -/

/-- The outputs that stand at a level from one command to the next. A channel whose item leaves in the step that forms it
has its valid high in that step alone, and none here. -/
inductive OutPin where
  | ctlReqReady (p : CtlPort)
  | dbInReady (n : BitVec 7)
  | dbOutValid (n : BitVec 7)
  | fzValid
  | trValid
  | tdo
  | errO
  | irq (u : BitVec 8)
  | irqAny
  | killAck
  | sealAck
  | retReady
  | idle
deriving DecidableEq, Repr

/-- The SB and AL drivers lie on vdd_ret (R452); every other output is driven from vdd_core logic. -/
def OutPin.clamps : OutPin → Bool
  | .ctlReqReady _ | .dbInReady _ | .dbOutValid _ | .fzValid | .trValid | .tdo => true
  | _ => false

/-- The interrupt level of a unit (R347, R442). -/
def irqLevel (s : Hw) (u : Nat) : Bool := (s.blk u).irq && !s.sec.alReset

/-- The level that the logic drives, before any clamp. -/
def OutPin.driven (s : Hw) : OutPin → Bool
  | .ctlReqReady p => ctlServes s p && !s.mc.por
  | .dbInReady n => dbReady s n.toNat
  | .dbOutValid n => !(tget {} s.dbs n.toNat).out.isEmpty && !(tget {} s.dbs n.toNat).inReset
  | .fzValid => !s.sec.fuse.isEmpty && !s.sec.fzReset
  | .trValid => !s.board.trace.isEmpty && !s.sec.trReset
  | .tdo => s.tap.tdo
  | .errO => (s.ward.errPulse || s.ward.errLevel || s.mc.mode = .held) && !s.sec.alReset
  | .irq u => irqLevel s u.toNat
  | .irqAny => (List.range 255).any (irqLevel s)
  | .killAck => s.keys.killAck && !s.sec.sbReset
  | .sealAck => s.sec.sealAck && !s.sec.sbReset
  | .retReady => s.sec.retReady && !s.sec.sbReset
  | .idle => s.sec.power = .idle && !s.sec.sbReset

/-- The level of an output: a clamped one holds its reset value, which is low for each (R453). -/
def OutPin.level (s : Hw) (o : OutPin) : Bool := if o.clamps && clamped s then false else o.driven s

/-- What the trace port sends of its oldest record: 10 beats of 64 bits, word 0 first, with tr_sop_o and tr_eop_o (R444). -/
def traceOut (s : Hw) : List (Word × Bool × Bool) :=
  if s.sec.trReset then [] else (s.board.trace.headD []).mapIdx fun i w => (w, i = 0, i = 9)

/-- ctl_rsp_refused_o of an access (R430): refused under R306, ignored for want of the cinch, or a write in Held. -/
def ctlRefused (s : Hw) (p : CtlPort) (write needsCinch : Bool) (off : Nat) (be : BitVec 8) : Bool :=
  be != 0xff#8 || off % 8 != 0 || (write && (s.mc.mode = .held || (needsCinch && !holdsCinch s p)))

/-! ### The test port (R388, R443) -/

/-- The TAP controller after a rising edge of tck (IEEE 1149.1). -/
def TapCtl.next (tms : Bool) : TapCtl → TapCtl
  | .testLogicReset => if tms then .testLogicReset else .runTestIdle
  | .runTestIdle => if tms then .selectDr else .runTestIdle
  | .selectDr => if tms then .selectIr else .captureDr
  | .captureDr => if tms then .exit1Dr else .shiftDr
  | .shiftDr => if tms then .exit1Dr else .shiftDr
  | .exit1Dr => if tms then .updateDr else .pauseDr
  | .pauseDr => if tms then .exit2Dr else .pauseDr
  | .exit2Dr => if tms then .updateDr else .shiftDr
  | .updateDr => if tms then .selectDr else .runTestIdle
  | .selectIr => if tms then .testLogicReset else .captureIr
  | .captureIr => if tms then .exit1Ir else .shiftIr
  | .shiftIr => if tms then .exit1Ir else .shiftIr
  | .exit1Ir => if tms then .updateIr else .pauseIr
  | .pauseIr => if tms then .exit2Ir else .pauseIr
  | .exit2Ir => if tms then .updateIr else .shiftIr
  | .updateIr => if tms then .selectDr else .runTestIdle

/-- The instrument that the bits of the instruction register select; what selects none is BYPASS (log 153). -/
def tapInstr (bits : List Bool) : TapInstr :=
  match Config.tapCode bits with
  | (0, _) => .idcode
  | (1, n) => .register (BitVec.ofNat 24 (8 * n))
  | (2, n) => .store (BitVec.ofNat 13 (n / 512)) (BitVec.ofNat 9 n)
  | (3, n) => .program (n % 2 = 1) (BitVec.ofNat 18 (n / 2))
  | (4, n) => .scratch (n / 512) (BitVec.ofNat 9 n)
  | (5, n) => .operand (BitVec.ofNat 4 (n / 16384)) (BitVec.ofNat 14 n)
  | _ => .bypass

/-- The registers that the test port reads in Diagnostic (R388). -/
def tapDiagnostic (off : Nat) : Bool :=
  off ≤ 0x40 || (0x2000 ≤ off && off < 0x2028) || (0x3000 ≤ off && off < 0x3040) || off = 0x3080 || (0x3090 ≤ off && off < 0x30A0) ||
    (0x4000 ≤ off && off < 0x7FC0) || (0x7FD0 ≤ off && off < 0x7FF0) ||
    [0x1020, 0x1038, 0x8010, 0x8028, 0x9000, 0x9018, 0xA010, 0xA020, 0xB000, 0xB028, 0xC018, 0xC400, 0xD010, 0xE000, 0x10008,
      0x50000, 0x50008, 0x50010].contains off ||
    (0x20000 ≤ off && off < 0x30000 && (off % 0x1000 = 8 || (0x18 ≤ off % 0x1000 && off % 0x1000 < 0x38))) ||
    (0x30000 ≤ off && off < 0x38000 && off % 0x400 < 0x20) || (0x38000 ≤ off && off < 0x40000 && off % 0x1000 < 0x20) ||
    (0x40000 ≤ off && off < 0x50000 && off % 0x1000 < 0x30) ||
    (0x60000 ≤ off && off < 0x62000 && (off % 0x100 = 8 || off % 0x100 = 0x10)) || (0x70000 ≤ off && off < 0x70300)

/-- What the test port may read in the present debug state (R388). -/
def tapAllows (s : Hw) (i : TapInstr) : Bool :=
  match i, s.sec.debug with
  | .bypass, _ | .idcode, _ => true
  | .register off, .diagnostic => tapDiagnostic off.toNat
  | _, .full => true
  | _, _ => false

/-- The n bits of a number, least significant first. -/
def bitsOfNat (n v : Nat) : List Bool := (List.range n).map v.testBit

/-- What an instrument captures: IDCODE the tie-off, a register CTLA's copy (R457), a memory its 8 B; one that the debug state
does not permit gives zeros. -/
def tapCapture (s : Hw) (i : TapInstr) : List Bool :=
  let word := fun (w : Nat) => bitsOfNat 64 (if tapAllows s i then w else 0)
  match i with
  | .bypass => [false]
  | .idcode => bitsOfNat 32 s.hns.idcode.toNat
  | .register off => word (readReg s .ctla off.toNat).toNat
  | .store b w => word (leNat (mread s.cs.bytes (4096 * b.toNat + 8 * w.toNat) 8))
  | .program act w => word (cfgWord (if act then s.active else s.shadow) (0x600000 + 8 * w.toNat)).toNat
  | .scratch c w => word (leNat (mread (s.ctx c).scratch (8 * w.toNat) 8))
  | .operand u w => word (leNat (mread (s.pkUnit u.toNat).mem (8 * w.toNat) 8))

/-- The TAP is held in Test-Logic-Reset: by its reset, in Retention and in Off (R443, R451). -/
def tapHeld (s : Hw) : Bool := s.tap.inReset || s.sec.power = .retention || s.sec.power = .off

/-- A capture of a register or of a memory is an access, which wakes the block from Idle (R390). -/
def tapWakes (t : Tap) : Bool :=
  t.ctl = .captureDr && (match t.instr with | .bypass | .idcode => false | _ => true)

/-- A rising edge of tck (IEEE 1149.1): what the present controller state does, and the next state. In Test-Logic-Reset
IDCODE is selected. -/
def tapClock (tms tdi : Bool) (s : Hw) : Hw :=
  if tapHeld s then s
  else
    let s := if tapWakes s.tap then wake s else s
    let t := s.tap
    let next := t.ctl.next tms
    let t := match t.ctl with
      | .captureDr => { t with dr := tapCapture s t.instr }
      | .shiftDr => { t with dr := t.dr.drop 1 ++ [tdi] }
      | .captureIr => { t with ir := [] }
      | .shiftIr => { t with ir := t.ir ++ [tdi] }
      | .updateIr => { t with instr := tapInstr t.ir }
      | _ => t
    let t := if next = .testLogicReset then { t with instr := .idcode } else t
    { s with tap := { t with ctl := next, tdo := next = .shiftDr && t.dr.headD false } }

/-- What the test port does in one core clock. -/
def tapTick (s : Hw) : Hw :=
  let n := s.clk.core
  if Config.tckEdge n then tapClock (Config.tms n) (Config.tdi n) s else s

end Sys2Proof.Machine
end

