-- ==== Sys2Proof/Machine/Tick.lean ====
section
/-! DEFINITION. What passes of its own accord while no command waits: one core clock (log 2). -/

namespace Sys2Proof.Machine

/-- Every exchange of link keys that is due, and that this block opens, opens (R413). -/
def linksOpen (s : Hw) : Hw := (List.range 8).foldl exchangeOpen s

/-- One core clock with no command: the clocks count, the recorder puts out its next unit (R365), the test port sees
an edge of tck or none (log 153), Retention entry goes on when it can (R391), an exchange of link
keys that is due opens (R413), doorbell ports that are ready take what was held back (R435), and port resets that were low are released (log 50). -/
def tick (s : Hw) : Hw :=
  let edge := Config.aonEdge s.clk.core
  let s := aonPass { s with clk := { s.clk with core := s.clk.core + 1 } } edge.toNat
  portsRelease (recPump (tapTick (heldPass (if s.inert then s else linksOpen (retentionEntry s)))))

/-- The tick as the step of an empty queue. -/
def State.idle (s : State) : Host.Outcome State Fault Refusal := s.does tick

end Sys2Proof.Machine
end

