-- ==== Sys2Proof/WellFormed.lean ====
section
/-! DEFINITION. Well-formed commands: those whose operands name something the block has. Widths bound every other operand. -/

namespace Sys2Proof

/-- Doorbell ports (R428). -/
abbrev doorbellPorts : Nat := 96
/-- Key slots: 65,536 narrow and 1,024 wide (R231). -/
abbrev keySlots : Nat := 0x10400

/-- A port reset names a port that exists. -/
def ResetPort.exists_ : ResetPort → Bool
  | .doorbell n => n.toNat < doorbellPorts
  | .keeper | .fuse | .sideband | .alert | .test | .trace => true

/-- A coded word has 36 symbols (R281). -/
def symbolExists (p : BitVec 6) : Bool := p.toNat < 36

/-- A read names symbols that its words have. -/
def readOk (l : List WordErrors) : Bool := l.all fun e => e.positions.all symbolExists

/-- A command is well-formed: its doorbell port (R428), symbol positions (R281), slot (R231, R421), detector (R398) exists,
and a fuse reading has the 22 words of R438. -/
def Instr.wf : Instr → Bool
  | .submissionDoorbell port _ => port < doorbellPorts
  | .consumeDoorbell port _ => port < doorbellPorts
  | .notificationSend port => port < doorbellPorts
  | .fuseReadDone words _ => words.length = 22
  | .restoreRecord slot => slot.toNat < keySlots
  | .chargeWaitExpiry slot => slot.toNat < keySlots
  | .patrolRead _ positions flipped => positions.all symbolExists && symbolExists flipped
  | .ld _ _ _ _ _ _ _ read => readOk read
  | .ldw _ _ _ _ _ _ _ read => readOk read
  | .stitch _ _ _ read => readOk read
  | .digestAbsorb _ read => readOk read
  | .digestClose _ _ read => readOk read
  | .cmpctDone _ _ read => readOk read
  | .tagDecision _ _ _ read => readOk read
  | .xferPieceIssue _ _ read => readOk read
  | .detectorTrip detector _ => detector.toNat < 6
  | .portReset which => which.exists_
  | .sharedSlotCopy _ slot _ _ _ _ => slot.toNat < keySlots
  | .mirrorLeaseRequest slot => slot.toNat < 0x10000
  | .mirrorLeaseGrant slot _ _ => slot.toNat < 0x10000
  | .add .. | .sub .. | .and .. | .or .. | .xor .. | .andn .. | .shl .. | .shr .. | .sar .. | .ror .. | .rol ..
  | .neg .. | .cmp .. | .bswap .. | .clz .. | .popc .. | .nop .. | .addi .. | .andi .. | .ori .. | .xori ..
  | .cmpi .. | .shi .. | .movi .. | .movk .. | .mul .. | .mulhu .. | .mulhs .. | .div .. | .divu .. | .mfs ..
  | .movs .. | .st .. | .stw .. | .bcc .. | .jal .. | .jr .. | .rep .. | .wait .. | .waitEnd ..
  | .tstat .. | .ciph .. | .dgst .. | .pk .. | .kchk .. | .kint .. | .katt .. | .ndraw .. | .xgath .. | .xscat ..
  | .xload .. | .xstore .. | .xlib .. | .cmpct .. | .alloc .. | .free .. | .join .. | .post ..
  | .signal .. | .jobPassedToEngine .. | .engineQueueAccept .. | .bufferAllocated .. | .allocWaitExpiry ..
  | .bufferZeroed .. | .scrubComplete .. | .scrubStop .. | .maskReseedRequest ..
  | .maskReseedArrival .. | .reseedDeadline .. | .pkJobTake .. | .pkRelease ..
  | .pkResultWritten .. | .burnishEnd .. | .curveSegmentEnd .. | .ucodeVerifyEnd .. | .identityReady
  | .mmReadResponse .. | .mmWriteAck .. | .mmResponseTimeout .. | .descriptorFetch ..
  | .descriptorArrival .. | .admission | .recordCommit | .recordWriteAck .. | .recordWriteFail ..
  | .deadlineTimeout .. | .notifyTimer .. | .contextQuiesced .. | .ringReset .. | .ringRestart .. | .trapqClaim ..
  | .advance .. | .finish .. | .retry .. | .abort .. | .trapqPcWrite .. | .trapDeadlineExpiry ..
  | .cinchTicketRead .. | .noteWr .. | .renew .. | .release .. | .cinchLeaseExpiry | .shadowWrite .. | .go ..
  | .discard .. | .seamDrainEnd | .seamCopyEnd | .configImageAck | .configPointerAck | .maint .. | .resume ..
  | .ftest .. | .seal .. | .maintDrainEnd | .maintDrainLimit | .powerFailWarning | .sealReached | .sealTimeout
  | .porRelease .. | .porAssert | .keeperReadResponse .. | .configImageRead .. | .pilotEntry | .pilotEnd
  | .entropyStartupPass | .entropyHealthFail .. | .drbgReseed | .leaseDurable .. | .keeperAckTimeout | .format ..
  | .formatComplete | .correctedWriteBack .. | .start .. | .updAbort .. | .updData .. | .updateVerified ..
  | .updateStaged .. | .updateFlip .. | .stagingWaitExpiry .. | .partnerUpdateAck .. | .enrolReceipt ..
  | .hardwareEvent .. | .correctedEvent .. | .fatalEvent .. | .errPulseEnd | .pend .. | .histClr .. | .unitRst ..
  | .unitResetDone .. | .warm .. | .blkRst | .warmBringupStart | .arm .. | .faultInjection .. | .load ..
  | .raiseFloor .. | .clear .. | .dgbClearEntry .. | .dgbClearAll .. | .traceRecordSent | .cenTriggerGo
  | .censusPeriod | .censusMarker .. | .censusLatch .. | .censusComplete | .censusDoneReceived ..
  | .censusPartialTimeout | .freeze .. | .thaw .. | .flush .. | .checkpointTimer | .tokenRefill ..
  | .freezeAutoThaw | .recorderUnitAck .. | .recorderStop .. | .tombstoneAck .. | .recRdFetch ..
  | .temperatureSample .. | .timeRecordTimer | .lcArm .. | .lcGo .. | .dbgGo .. | .idle .. | .retain .. | .autoIdle ..
  | .wakeEvent | .retentionReady | .retentionDrainLimit | .coreSupplyGood | .resumeDone .. | .coreGoodFall | .killLine
  | .tgenStep .. | .killAckRelease | .fuseResponse .. | .fuseTimeout | .ctlPortReset .. | .mmPortReset ..
  | .helloReceived .. | .linkTrainRetry .. | .flitReceived .. | .nakReceived .. | .replayTimer .. | .heartbeatSend
  | .heartbeatLoss | .hnsApprStart .. | .hnsApprAbort .. | .hnsApprData .. | .approvalFromPeer .. | .pairingCommit
  | .linkKeyExchangeDone .. | .linkKeyRetry .. | .secureMessage .. | .forwardArrival .. | .forwardData ..
  | .forwardCompletion .. | .forwardWithdrawal .. | .mirrorSeamImage .. | .convergenceDone .. | .registerWrite ..
  | .reservedOpcode .. | .keeperWriteAck .. | .maskStall .. | .supplyRemoved .. | .plPortReset ..
  | .plPhyUpChange .. | .powerFailWarningClear => true

end Sys2Proof
end

