-- ==== Sys2Proof/Safety.lean ====
section
/-! DEFINITION. The words that statements about the block are written in: what it is to complete, when a context issues, when
a control port's write takes effect, and what a memory access reaches. -/

namespace Sys2Proof.Machine

/-- A command answers a next state whose block has a property, and the queue stands. -/
def Completes (i : Instr) (s : State) (P : Hw → Prop) : Prop :=
  ∃ h, exec i s = .next { hw := h, pending := s.pending } ∧ P h

/-- The next state of a command whose block is h. -/
def State.to (s : State) (h : Hw) : Host.Outcome State Fault Refusal := .next { hw := h, pending := s.pending }

/-! ### Contexts -/

/-- Context c fetches its next instruction (R67, R69, R70, R96, R352): the block takes commands, the context is READY with a
request that has neither posted nor been withdrawn, its step limit is not reached, its program counter lies in its program, and
the word there is not lost. -/
structure Fetches (h : Hw) (c : Nat) : Prop where
  awake : h.inert = false
  ready : (h.ctx c).st = .ready
  request : (h.ctx c).req.isSome = true
  unposted : (h.ctx c).posted = none
  wanted : (h.ctx c).withdrawn = none
  recorded : (h.ctx c).noRecord = false
  steps : (h.ctx c).retired < stepLimit h c
  code : (h.ctx c).pc.toNat < codeBytes h c
  word : h.libBad.contains ((h.ctx c).epoch, fetchWord h c) = false

/-- Context c issues its next instruction: it fetches it, and a repeat that is running has iterations left (R84). -/
structure Issues (h : Hw) (c : Nat) : Prop extends Fetches h c where
  repeats : ∀ r, (h.ctx c).rep = some r → r.remain ≠ 0

/-- The context of c as an instruction leaves it that does not jump, from the values it has written (R84, R85): outside a
repeat the program counter moves to the next word; inside one, LC takes the iterations left unless the instruction wrote LC,
and the counter moves after the last. -/
def Ctx.past (x : Ctx) (wroteLc : Bool) : Ctx :=
  match x.rep with
  | none => { x with pc := x.pc + 4, retired := x.retired + 1 }
  | some r =>
    let left : BitVec 32 := if r.remain = 0 then 0 else r.remain - 1
    { x with
      lc := if wroteLc then x.lc else left.zeroExtend 64
      rep := if left = 0 then none else some { r with remain := left }
      pc := if left = 0 then x.pc + 4 else x.pc
      retired := x.retired + 1 }

/-- The next state of an instruction of context c that leaves the context as x and changes nothing else. -/
def State.leaves (s : State) (c : BitVec 9) (x : Ctx) : Host.Outcome State Fault Refusal := s.to (s.hw.setCtx c.toNat x)

/-- The next state of a repeatable instruction of context c that writes v to RD and flags f, and nothing else. -/
def State.result (s : State) (c : BitVec 9) (rd : BitVec 5) (v : Word) (f : Flags) : Host.Outcome State Fault Refusal :=
  s.leaves c (({ (s.hw.ctx c.toNat).rset rd v with flags := f }).past false)

/-- Every record that is ready to commit stands on the ready list (R55). -/
def Hw.Settled (s : Hw) : Prop := ∀ c, recordReady (s.ctx c) = true → Ready.context c ∈ s.rm.ready

/-- Record r has joined the ready list (R55): behind every record on it but those at its end that became ready in the same core
clock and commit after r. -/
def Joins (s h : Hw) (r : Ready) : Prop :=
  let after (q : Ready) : Prop := s.rm.readyAt = h.clk.core ∧ q ∈ s.rm.readyNew ∧ readyBefore r q = true
  ∃ front behind, s.rm.ready = front ++ behind ∧ h.rm.ready = front ++ r :: behind ∧ (∀ q ∈ behind, after q) ∧
    ∀ q, front.getLast? = some q → ¬after q

/-- Ticket t of context c has job j, in a block that takes commands; the request of the context runs, neither posted nor
withdrawn, and no other record has become ready unseen. -/
structure Works (h : Hw) (c t : Nat) (j : Job) : Prop where
  awake : h.inert = false
  ticket : t < 16
  job : h.job (jobKey c t) = some j
  used : (h.ctx c).st ≠ .free
  unposted : (h.ctx c).posted = none
  wanted : (h.ctx c).withdrawn = none
  settled : h.Settled

/-- Ticket t of context c is DONE with a status, in the block that a command has left. -/
def Hw.Done (h : Hw) (c t : Nat) (status : BitVec 8) : Prop :=
  ((h.ctx c).tk t).st = .done ∧ ((h.ctx c).tk t).status = status

/-! ### Control ports -/

/-- A control port's write reaches its register: the block takes commands, and the port is neither fenced nor in its reset, nor
are its outputs clamped (R349, R451, R453). -/
structure Serves (h : Hw) (p : CtlPort) : Prop where
  awake : h.inert = false
  port : ctlServes h p = true

/-- A control port's write of a register that needs the cinch takes effect (R307). -/
structure Masters (h : Hw) (p : CtlPort) : Prop extends Serves h p where
  cinch : h.cinch.owner = some p

/-- The next state of an event that takes effect: its effect, and records that have become ready join the ready list (R55). -/
def State.events (s : State) (f : Hw → Hw) : Host.Outcome State Fault Refusal := s.to (settleAll (f s.hw))

/-- The next state of a control-port write that takes effect: an idle block wakes (R390), the write has its effect, and
records that have become ready join the ready list. -/
def State.writes (s : State) (f : Hw → Hw) : Host.Outcome State Fault Refusal := s.to (settleAll (f (wake s.hw)))

/-! ### Memory master ports -/

/-- An access of domain d goes out: a window of the active set grants it with attributes `attr`, and it binds to port p,
which has a tag (R25, R26, R432, R434). -/
structure Reaches (h : Hw) (d addr : Nat) (write : Bool) (p : Nat) (attr : BitVec 4) : Prop where
  window : winCheck h.active d addr write = some attr
  port : mmBind h = some p
  tag : (mmTag h p write).isSome = true

end Sys2Proof.Machine
end

