-- ==== Sys2Proof/Certificates/Slice0/Obligations.lean ====
section
/-! DEFINITION. The statements about the block, each as a proposition. -/

open Sys2Proof Sys2Proof.Machine

/-! ### Programs: integer instructions (R78, R85, R87, R101 to R104) -/

/-- Sums, differences, comparison and no operation (R101, R102): ADD, SUB, NEG, CMP, NOP, ADDI and CMPI give the sum
or difference modulo 2^64, Z and N of the result, C as the carry or borrow, V when the signed result does not fit,
and change nothing else but LC, the repeat and the program counter as R85 has it. -/
def Obligations.SumsAndDifferences : Prop :=
  ∀ (s : State) (c : BitVec 9) (rd ra rb : BitVec 5) (imm : BitVec 16), Issues s.hw c.toNat →
    let x := s.hw.ctx c.toNat
    let a := x.rget ra
    let b := x.rget rb
    let i : Word := imm.signExtend 64
    let fits (n : Int) : Prop := -(2 ^ 63) ≤ n ∧ n < 2 ^ 63
    exec (.add c rd ra rb) s = s.result c rd (a + b) { x.flags with
      z := decide (a + b = 0), n := (a + b).msb, c := decide (2 ^ 64 ≤ a.toNat + b.toNat)
      v := !decide (fits (a.toInt + b.toInt)) } ∧
    exec (.sub c rd ra rb) s = s.result c rd (a - b) { x.flags with
      z := decide (a - b = 0), n := (a - b).msb, c := decide (a.toNat < b.toNat)
      v := !decide (fits (a.toInt - b.toInt)) } ∧
    exec (.neg c rd ra) s = s.result c rd (-a) { x.flags with
      z := decide (a = 0), n := (-a).msb, v := decide (a = BitVec.intMin 64) } ∧
    exec (.addi c rd ra imm) s = s.result c rd (a + i) { x.flags with
      z := decide (a + i = 0), n := (a + i).msb, c := decide (2 ^ 64 ≤ a.toNat + i.toNat)
      v := !decide (fits (a.toInt + imm.toInt)) } ∧
    exec (.cmp c ra rb) s = s.result c 0 0 { x.flags with z := decide (a = b) } ∧
    exec (.cmpi c ra imm) s = s.result c 0 0 { x.flags with z := decide (a = i) } ∧
    exec (.nop c) s = s.result c 0 0 x.flags

/-- Logic, byte reversal and counting (R101, R102): AND, OR, XOR, ANDN, ANDI, ORI, XORI, BSWAP, CLZ and POPC give the
value the table names, Z and N of it, and clear C and V. -/
def Obligations.LogicResults : Prop :=
  ∀ (s : State) (c : BitVec 9) (rd ra rb : BitVec 5) (imm : BitVec 16), Issues s.hw c.toNat →
    let x := s.hw.ctx c.toNat
    let a := x.rget ra
    let b := x.rget rb
    let i : Word := imm.zeroExtend 64
    let logic (i : Instr) (r : Word) : Prop := exec i s = s.result c rd r { x.flags with
      z := decide (r = 0), n := r.msb, c := false, v := false }
    logic (.and c rd ra rb) (a &&& b) ∧
    logic (.or c rd ra rb) (a ||| b) ∧
    logic (.xor c rd ra rb) (a ^^^ b) ∧
    logic (.andn c rd ra rb) (a &&& ~~~b) ∧
    logic (.andi c rd ra imm) (a &&& i) ∧
    logic (.ori c rd ra imm) (a ||| i) ∧
    logic (.xori c rd ra imm) (a ^^^ i) ∧
    (∃ r : Word, (∀ k < 8, r.extractLsb' (8 * k) 8 = a.extractLsb' (8 * (7 - k)) 8) ∧ logic (.bswap c rd ra) r) ∧
    (∃ r : Word, r.toNat ≤ 64 ∧ (∀ k < 64, 64 - r.toNat ≤ k → a.getLsbD k = false) ∧
      (r.toNat < 64 → a.getLsbD (63 - r.toNat) = true) ∧ logic (.clz c rd ra) r) ∧
    (∃ r : Word, r.toNat = ((List.range 64).filter fun k => a.getLsbD k).length ∧ logic (.popc c rd ra) r)

/-- Shifts and rotates (R87, R101, R102): SHL, SHR, SAR, ROR, ROL and SHI shift by an unsigned 64-bit register
amount, or by an immediate, and write Z and N alone. A left shift multiplies by 2^n modulo 2^64, the right shifts
divide and round down, a rotate moves bit k + n mod 64 to bit k, or the other way. -/
def Obligations.ShiftResults : Prop :=
  ∀ (s : State) (c : BitVec 9) (rd ra rb : BitVec 5) (amount : BitVec 6), Issues s.hw c.toNat →
    let x := s.hw.ctx c.toNat
    let a := x.rget ra
    let n := (x.rget rb).toNat
    let m := amount.toNat
    let shifted (i : Instr) (r : Word) : Prop := exec i s = s.result c rd r { x.flags with z := decide (r = 0), n := r.msb }
    let right (r : Word) (n : Nat) : Prop := ∀ k < 64, r.getLsbD k = a.getLsbD ((k + n) % 64)
    let left (r : Word) (n : Nat) : Prop := ∀ k < 64, r.getLsbD ((k + n) % 64) = a.getLsbD k
    shifted (.shl c rd ra rb) (BitVec.ofNat 64 (a.toNat * 2 ^ n)) ∧
    shifted (.shr c rd ra rb) (BitVec.ofNat 64 (a.toNat / 2 ^ n)) ∧
    shifted (.sar c rd ra rb) (BitVec.ofInt 64 (a.toInt / 2 ^ n)) ∧
    (∃ r, right r n ∧ shifted (.ror c rd ra rb) r) ∧
    (∃ r, left r n ∧ shifted (.rol c rd ra rb) r) ∧
    shifted (.shi c rd ra 0 amount) (BitVec.ofNat 64 (a.toNat * 2 ^ m)) ∧
    shifted (.shi c rd ra 1 amount) (BitVec.ofNat 64 (a.toNat / 2 ^ m)) ∧
    shifted (.shi c rd ra 2 amount) (BitVec.ofInt 64 (a.toInt / 2 ^ m)) ∧
    (∃ r, right r m ∧ shifted (.shi c rd ra 3 amount) r)

/-- Products and divisions (R87, R88, R103): MUL, MULHU and MULHS give the low half, the high half of the unsigned
and that of the signed 128-bit product; Z and N come from the result, C stands, V says for MUL that the signed
product needs more than 64 bits and is 0 for the others. DIV truncates toward zero and gives the remainder the sign
of the dividend, the most negative dividend by -1 giving itself with V set; DIVU is unsigned; RC takes the remainder
before RD takes the quotient, Z and N describe the quotient, DZ is cleared, C stands. By zero the quotient is all
ones, the remainder the dividend, DZ is set and V cleared; with CFG.DZTRAP set the divide has then retired and its
context is TRAPPED with a record of class 3. -/
def Obligations.ProductsAndDivisions : Prop :=
  ∀ (s : State) (c : BitVec 9) (rd rc ra rb : BitVec 5), Issues s.hw c.toNat →
    let x := s.hw.ctx c.toNat
    let a := x.rget ra
    let b := x.rget rb
    let wraps : Bool := decide (a = BitVec.intMin 64 ∧ b = -1)
    let product (i : Instr) (r : Word) (v : Bool) : Prop :=
      exec i s = s.result c rd r { x.flags with z := decide (r = 0), n := r.msb, v := v }
    let divided (q r : Word) (v zero : Bool) : Ctx := { (x.rset rc r).rset rd q with flags := { x.flags with
      z := decide (q = 0), n := q.msb, v := v, dz := zero } }
    let byZero := divided (BitVec.allOnes 64) a false true
    product (.mul c rd ra rb) (BitVec.ofInt 64 (a.toInt * b.toInt))
      (!decide (-(2 ^ 63) ≤ a.toInt * b.toInt ∧ a.toInt * b.toInt < 2 ^ 63)) ∧
    product (.mulhu c rd ra rb) (BitVec.ofNat 64 (a.toNat * b.toNat / 2 ^ 64)) false ∧
    product (.mulhs c rd ra rb) (BitVec.ofInt 64 (a.toInt * b.toInt / 2 ^ 64)) false ∧
    (b ≠ 0 →
      exec (.div c rd rc ra rb) s = s.leaves c ((divided (BitVec.ofInt 64 (a.toInt.tdiv b.toInt))
        (BitVec.ofInt 64 (a.toInt.tmod b.toInt)) wraps false).past false) ∧
      exec (.divu c rd rc ra rb) s = s.leaves c ((divided (BitVec.ofNat 64 (a.toNat / b.toNat))
        (BitVec.ofNat 64 (a.toNat % b.toNat)) false false).past false)) ∧
    (b = 0 → ∀ i, i = .div c rd rc ra rb ∨ i = .divu c rd rc ra rb →
      (x.dztrap = false → exec i s = s.leaves c (byZero.past false)) ∧
      (x.dztrap = true → Completes i s fun h =>
        h.ctx c.toNat = { byZero with retired := byZero.retired + 1, st := .trapped } ∧
        ∃ r, h.trapq.queue = s.hw.trapq.queue ++ [r] ∧ r.ctx = c.toNat ∧ r.cls = 3 ∧ r.pc = x.pc.setWidth 32))

/-- Immediate moves (R102): MOVI writes an immediate halfword and zeros, MOVK an immediate halfword and keeps the
rest; no flag changes. -/
def Obligations.ImmediateMoves : Prop :=
  ∀ (s : State) (c : BitVec 9) (rd : BitVec 5) (hw : BitVec 2) (imm : BitVec 16), Issues s.hw c.toNat →
    let x := s.hw.ctx c.toNat
    exec (.movi c rd hw imm) s = s.result c rd (BitVec.ofNat 64 (imm.toNat * 2 ^ (16 * hw.toNat))) x.flags ∧
    ∃ r : Word, (∀ k : Nat, k < 4 → r.extractLsb' (16 * k) 16 =
        if k = hw.toNat then imm else (x.rget rd).extractLsb' (16 * k) 16) ∧
      exec (.movk c rd hw imm) s = s.result c rd r x.flags

/-- Special registers (R77, R104): MFS reads LC, MBASE, MLEN, BRW, FLAGS, CTX, DOM, EPOCH and CFG by their numbers,
with zeros above their widths, and MOVS writes all of them but CTX, DOM and EPOCH, a write of which raises the access
trap and ends the request; a reserved number raises the reserved-special trap, its record of class 2 in the trap
queue; only MOVS to FLAGS changes a flag. An iteration that writes LC keeps the value it wrote (R85). -/
def Obligations.SpecialRegisters : Prop :=
  ∀ (s : State) (c : BitVec 9) (rd ra num : BitVec 5), Issues s.hw c.toNat →
    let x := s.hw.ctx c.toNat
    let a := x.rget ra
    let f := x.flags
    let reads (n : BitVec 5) (v : Word) : Prop := exec (.mfs c rd n) s = s.result c rd v x.flags
    let writes (n : BitVec 5) (y : Ctx) : Prop := exec (.movs c n ra) s = s.leaves c (y.past (n = 0))
    reads 0 x.lc ∧ reads 1 x.mbase ∧ reads 2 x.mlen ∧ reads 3 (x.brw.zeroExtend 64) ∧
    (∃ w : Word, (∀ k < 64, w.getLsbD k = [f.z, f.n, f.c, f.v, f.dz, f.t].getD k false) ∧ reads 4 w) ∧
    (x.rep = none → reads 5 (c.zeroExtend 64) ∧
      ∀ q, x.req = some q → reads 6 (q.domain.zeroExtend 64) ∧ reads 7 (q.epoch.zeroExtend 64)) ∧
    reads 8 (if x.dztrap then 1 else 0) ∧
    writes 0 { x with lc := a } ∧ writes 1 { x with mbase := a } ∧ writes 2 { x with mlen := a } ∧
    writes 3 { x with brw := a.setWidth 5 } ∧
    writes 4 { x with flags := ⟨a.getLsbD 0, a.getLsbD 1, a.getLsbD 2, a.getLsbD 3, a.getLsbD 4, a.getLsbD 5⟩ } ∧
    writes 8 { x with dztrap := a.getLsbD 0 } ∧
    (5 ≤ num.toNat → num.toNat ≤ 7 → x.committed = false → Completes (.movs c num ra) s fun h =>
      (h.ctx c.toNat).withdrawn = some 0x17 ∧ (h.ctx c.toNat).st = .quiescing ∧ (h.ctx c.toNat).regs = x.regs ∧
        (h.ctx c.toNat).flags = f) ∧
    (9 ≤ num.toNat → ∀ i, i = .mfs c rd num ∨ i = .movs c num ra → Completes i s fun h =>
      h.ctx c.toNat = { x with st := .trapped } ∧ (∀ n, n ≠ c.toNat → h.ctx n = s.hw.ctx n) ∧
      ∃ r, h.trapq.queue = s.hw.trapq.queue ++ [r] ∧ r.ctx = c.toNat ∧ r.cls = 2 ∧ r.pc = x.pc.setWidth 32)

/-- The addressing modes (R79, R105): what each of the five modes makes of its base, and of the base register
afterwards; a modulo access without a region and a bit-reversed one without a width raise the access trap (5), a
modulo access that would straddle its region the alignment trap (6). -/
def Obligations.AddressingModes : Prop :=
  ∀ (x : Ctx) (rb : BitVec 5) (adr : BitVec 10) (n : Nat),
    let wb := x.rget rb
    let size := BitVec.ofNat 64 n
    let inside := (wb - x.mbase).toNat % x.mlen.toNat
    effective x rb 0 adr n = .ok ⟨wb + adr.signExtend 64, none⟩ ∧
    effective x rb 1 adr n = .ok ⟨wb + x.rget (adr.extractLsb' 5 5) * size, none⟩ ∧
    effective x rb 2 adr n = .ok ⟨wb, some (wb + size)⟩ ∧
    (x.mlen = 0 → effective x rb 3 adr n = .error 5) ∧
    (x.mlen ≠ 0 → x.mlen.toNat < inside + n → effective x rb 3 adr n = .error 6) ∧
    (x.mlen ≠ 0 → inside + n ≤ x.mlen.toNat →
      effective x rb 3 adr n = .ok ⟨x.mbase + BitVec.ofNat 64 inside,
        some (x.mbase + BitVec.ofNat 64 ((wb - x.mbase + size).toNat % x.mlen.toNat))⟩) ∧
    (x.brw = 0 ∨ 16 < x.brw.toNat → effective x rb 4 adr n = .error 5) ∧
    (x.brw ≠ 0 → x.brw.toNat ≤ 16 → ∃ r : Word,
      (∀ k < x.brw.toNat, r.getLsbD (x.brw.toNat - 1 - k) = wb.getLsbD k) ∧ r.toNat < 2 ^ x.brw.toNat ∧
      effective x rb 4 adr n = .ok ⟨x.mbase + r * size, some (wb + 1)⟩)

/-- Loads (R71, R72, R105, R106): LD of 1, 2, 4 or 8 B and LDW of 32 B from scratch or from the request descriptor
write the little-endian value, zero- or sign-extended, the base register first; with no handle touched nothing
outside the context changes. -/
def Obligations.LoadResults : Prop :=
  ∀ (s : State) (c : BitVec 9) (rd rb : BitVec 5) (mode : BitVec 3) (adr : BitVec 10) (sz : BitVec 2) (sx : Bool)
    (read : List WordErrors) (e : Eff) (bytes : Bytes),
    Issues s.hw c.toNat → s.hw.Settled → modeReserved mode adr = false →
    let x := s.hw.ctx c.toNat
    let based := match e.base with | some v => x.rset rb v | none => x
    let reads (n : Nat) : Prop := effective x rb mode adr n = .ok e ∧ e.ea.toNat % n = 0 ∧
      (e.ea.toNat + n ≤ 0x1000 ∧ bytes = mread x.scratch e.ea.toNat n ∨
        ∃ r, x.req = some r ∧ 0x1000 ≤ e.ea.toNat ∧ e.ea.toNat + n ≤ 0x1040 ∧
          bytes = ((leBytes 64 r.desc.toNat).drop (e.ea.toNat - 0x1000)).take n)
    (reads (2 ^ sz.toNat) →
      exec (.ld c rd rb mode sz sx adr read) s = s.leaves c ((based.rset rd
        (if sx then (BitVec.ofNat (8 * 2 ^ sz.toNat) (leNat bytes)).signExtend 64
          else BitVec.ofNat 64 (leNat bytes))).past false)) ∧
    (rd.toNat % 4 = 0 → reads 32 →
      exec (.ldw c rd rb mode 0 false adr read) s = s.leaves c
        (((((based.rset rd (BitVec.ofNat 64 (leNat (bytes.take 8)))).rset (rd + 1)
          (BitVec.ofNat 64 (leNat ((bytes.drop 8).take 8)))).rset (rd + 2)
          (BitVec.ofNat 64 (leNat ((bytes.drop 16).take 8)))).rset (rd + 3)
          (BitVec.ofNat 64 (leNat (bytes.drop 24)))).past false))

/-- Stores to scratch (R71, R72, R105, R106): ST writes the low bytes of RD, STW those of RD to RD + 3, as they stand
before the base register is updated, to the bytes from the effective address on; every other byte of scratch, every
other context and all else of the block stand. -/
def Obligations.ScratchStores : Prop :=
  ∀ (s : State) (c : BitVec 9) (rd rb : BitVec 5) (mode : BitVec 3) (adr : BitVec 10) (sz : BitVec 2) (e : Eff),
    Issues s.hw c.toNat → modeReserved mode adr = false → Memory.wf (s.hw.ctx c.toNat).scratch = true →
    let x := s.hw.ctx c.toNat
    let based := match e.base with | some v => x.rset rb v | none => x
    let stores (i : Instr) (n : Nat) (byte : Nat → Byte) : Prop :=
      effective x rb mode adr n = .ok e → e.ea.toNat % n = 0 → e.ea.toNat + n ≤ 0x1000 →
      ∃ m, exec i s = s.leaves c (({ based with scratch := m }).past false) ∧ Memory.wf m = true ∧
        (∀ k < n, mget m (e.ea.toNat + k) = byte k) ∧
        ∀ a, a < e.ea.toNat ∨ e.ea.toNat + n ≤ a → mget m a = mget x.scratch a
    stores (.st c rd rb mode sz false adr) (2 ^ sz.toNat) (fun k => (x.rget rd).extractLsb' (8 * k) 8) ∧
    (rd.toNat % 4 = 0 → stores (.stw c rd rb mode 0 false adr) 32
      fun k => (x.rget (rd + BitVec.ofNat 5 (k / 8))).extractLsb' (8 * (k % 8)) 8)

/-- Stores to a handle (R71, R285): ST and STW write their bytes to the places of the buffers that the handle maps
and no other byte of the central store; the context's scratch stands. -/
def Obligations.HandleStores : Prop :=
  ∀ (s : State) (c : BitVec 9) (rd rb : BitVec 5) (mode : BitVec 3) (adr : BitVec 10) (sz : BitVec 2) (e : Eff) (k o : Nat),
    Issues s.hw c.toNat → modeReserved mode adr = false →
    let x := s.hw.ctx c.toNat
    let based := match e.base with | some v => x.rset rb v | none => x
    let stores (i : Instr) (n : Nat) (byte : Nat → Byte) : Prop :=
      effective x rb mode adr n = .ok e → accessPlace x e.ea n true = .ok (.handle k o) →
      Completes i s fun h =>
        (o / 4096 < (x.hnd k).bufs.length →
          ∀ i < n, mget h.cs.bytes (hndAddr (x.hnd k) (o + i)) = byte i) ∧
        h.ctx c.toNat = based.past false ∧ (∀ a, a ≠ c.toNat → h.ctx a = s.hw.ctx a) ∧
        (∀ a, (∀ i < n, a ≠ hndAddr (x.hnd k) (o + i)) → mget h.cs.bytes a = mget s.hw.cs.bytes a) ∧
        h.rings = s.hw.rings ∧ h.jobs = s.hw.jobs ∧ h.keys = s.hw.keys ∧ h.flt = s.hw.flt ∧ h.mm = s.hw.mm ∧
        h.active = s.hw.active ∧ h.cs.bufs = s.hw.cs.bufs
    stores (.st c rd rb mode sz false adr) (2 ^ sz.toNat) (fun i => (x.rget rd).extractLsb' (8 * i) 8) ∧
    (rd.toNat % 4 = 0 → stores (.stw c rd rb mode 0 false adr) 32
      fun i => (x.rget (rd + BitVec.ofNat 5 (i / 8))).extractLsb' (8 * (i % 8)) 8)

/-! ### Programs: control (R67, R78, R80, R82, R84 to R86, R88 to R90, R99, R107 to R109) -/

/-- Branches and jumps (R107, R108): BCC goes to the byte offset PC + 4 × OFF22 when its condition holds and to the
next word when it does not; JAL and JR leave the address of the next word in RD, JR reading RA before and clearing
bits 1 and 0. None writes a flag. A fetch outside the program runs nothing: the access trap ends the request
ILLEGAL_PROGRAM. -/
def Obligations.BranchesAndJumps : Prop :=
  (∀ (s : State) (c : BitVec 9) (rd ra : BitVec 5) (cond : BitVec 4) (off : BitVec 22) (off21 : BitVec 21),
    Issues s.hw c.toNat → (s.hw.ctx c.toNat).rep = none →
    let x := s.hw.ctx c.toNat
    let f := x.flags
    let goes (i : Instr) (y : Ctx) (pc : Word) : Prop :=
      exec i s = s.leaves c { y with pc := pc, retired := x.retired + 1 }
    let holds : Prop := [True, f.z = true, f.z = false, f.c = true, f.c = false, f.n = true, f.n = false, f.v = true,
      f.c = false ∧ f.z = false, f.c = true ∨ f.z = true, f.n = f.v, f.n ≠ f.v, f.z = false ∧ f.n = f.v,
      f.z = true ∨ f.n ≠ f.v, f.t = true, f.t = false].getD cond.toNat False
    (holds → goes (.bcc c cond off) x (BitVec.ofInt 64 (x.pc.toInt + 4 * off.toInt))) ∧
    (¬holds → goes (.bcc c cond off) x (x.pc + 4)) ∧
    goes (.jal c rd off21) (x.rset rd (x.pc + 4)) (BitVec.ofInt 64 (x.pc.toInt + 4 * off21.toInt)) ∧
    goes (.jr c rd ra) (x.rset rd (x.pc + 4)) (x.rget ra &&& ~~~3#64)) ∧
  (∀ (s : State) (c : BitVec 9) (rd ra rb : BitVec 5) (cond : BitVec 4) (off : BitVec 22) (off21 : BitVec 21) (i : Instr),
    let x := s.hw.ctx c.toNat
    s.hw.inert = false → x.st = .ready → x.req.isSome = true → x.posted = none → x.withdrawn = none → x.noRecord = false →
    x.committed = false → x.retired < stepLimit s.hw c.toNat → codeBytes s.hw c.toNat ≤ x.pc.toNat →
    i = .bcc c cond off ∨ i = .jal c rd off21 ∨ i = .jr c rd ra ∨ i = .add c rd ra rb →
    Completes i s fun h => (h.ctx c.toNat).withdrawn = some 0x17 ∧ (h.ctx c.toNat).st = .quiescing ∧
      (h.ctx c.toNat).regs = x.regs ∧ (h.ctx c.toNat).flags = x.flags ∧ (h.ctx c.toNat).pc = x.pc)

/-- The repeat prefix (R84, R109): REP copies the 32-bit count from its immediate, a register or LC and moves on to
the instruction it repeats; the reserved source 3, RA given to a source other than 1 and an immediate given to one
other than 0 raise the reserved-opcode trap; with a count of 0 the next repeatable instruction is skipped without
effect. -/
def Obligations.RepeatPrefix : Prop :=
  ∀ (s : State) (c : BitVec 9) (src : BitVec 2) (ra rd rb : BitVec 5) (imm : BitVec 16),
    let x := s.hw.ctx c.toNat
    let repeats (i : Instr) (n : BitVec 32) : Prop :=
      exec i s = s.leaves c { x with rep := some { remain := n }, pc := x.pc + 4, retired := x.retired + 1 }
    (Issues s.hw c.toNat → x.rep = none →
      repeats (.rep c 0 0 imm) (BitVec.ofNat 32 imm.toNat) ∧
      repeats (.rep c 1 ra 0) (BitVec.ofNat 32 (x.rget ra).toNat) ∧
      repeats (.rep c 2 0 0) (BitVec.ofNat 32 x.lc.toNat)) ∧
    (Issues s.hw c.toNat → src = 3 ∨ src ≠ 1 ∧ ra ≠ 0 ∨ src ≠ 0 ∧ imm ≠ 0 → Completes (.rep c src ra imm) s fun h =>
      h.ctx c.toNat = { x with st := .trapped } ∧
      ∃ r, h.trapq.queue = s.hw.trapq.queue ++ [r] ∧ r.ctx = c.toNat ∧ r.cls = 1 ∧ r.pc = x.pc.setWidth 32) ∧
    (∀ r, Fetches s.hw c.toNat → x.rep = some r → r.remain = 0 →
      exec (.add c rd ra rb) s = s.leaves c { x with rep := none, pc := x.pc + 4 })

/-- Waiting (R78, R82): with its condition met WAIT ends at once, the DONE tickets of its set in RD, Z set, and T
told by its verdict tickets; with none met and every ticket of the set taken it holds its context WAITING; WAIT_END
then ends it when the condition is met, or at its timeout with Z clear. TSTAT hands over a DONE ticket's status and
result and frees it (R80). Where the rules leave a choice, it states the model's, of log entry 10. -/
def Obligations.WaitsAndTickets : Prop :=
  ∀ (s : State) (c : BitVec 9) (rd rc ra rb : BitVec 5) (any : Bool),
    let x := s.hw.ctx c.toNat
    let set : BitVec 16 := (x.rget rb).setWidth 16
    let time := (x.rget ra).toNat
    let met (set : BitVec 16) : Prop := if any then ∃ t < 16, set.getLsbD t = true ∧ (x.tk t).st = .done
      else ∀ t < 16, set.getLsbD t = true → (x.tk t).st = .done
    let verdicts (set : BitVec 16) : Prop := ∃ t < 16, set.getLsbD t = true ∧ (x.tk t).st = .done ∧ (x.tk t).verdict = true
    let accepted (set : BitVec 16) : Prop := ∀ t < 16, set.getLsbD t = true → (x.tk t).st = .done →
      (x.tk t).verdict = true → (x.tk t).status = 0
    let ended (set : BitVec 16) (y : Ctx) : Prop := ∃ m : BitVec 16, ∃ z t : Bool,
      (∀ k < 16, m.getLsbD k = (set.getLsbD k && decide ((x.tk k).st = .done))) ∧ (z = true ↔ met set) ∧
      (met set → verdicts set → (t = true ↔ accepted set)) ∧ (¬(met set ∧ verdicts set) → t = x.flags.t) ∧
      y = { x.rset rd (m.zeroExtend 64) with flags := { x.flags with z := z, t := t } }
    (Issues s.hw c.toNat → x.rep = none → set ≠ 0 → (∀ t < 16, set.getLsbD t = true → (x.tk t).st ≠ .free) →
      (met set → ∃ y, ended set y ∧ exec (.wait c rd ra rb any) s = s.leaves c (y.past false)) ∧
      (¬met set → exec (.wait c rd ra rb any) s = s.leaves c (({ x with
        st := .waiting, hold := .wait rd set any (if time = 0 then none else some (s.hw.clk.core + time)) }).past false))) ∧
    (s.hw.inert = false → x.st = .waiting → ∀ set t, x.hold = .wait rd set any (some t) → ∃ y, ended set y ∧
      Completes (.waitEnd c) s fun h =>
        h.ctx c.toNat = { y with st := .ready, hold := .none } ∧ h.jobs = s.hw.jobs ∧
        (¬met set → h.clk.core = max s.hw.clk.core t)) ∧
    (Issues s.hw c.toNat → x.rep = none → ∀ t < 16, (x.rget ra).toNat % 16 = t → (x.tk t).st = .done →
      exec (.tstat c rd rc ra) s = s.leaves c (((((x.rset rc (x.tk t).result).rset rd
        ((x.tk t).status.zeroExtend 64)).setTk t {}).past false)))

/-- Traps (R71, R72, R77, R80, R86, R88 to R90, R99): a misaligned load or store, an access outside every region, a
write of CTX, DOM or EPOCH and a repeat of a branch end the request ILLEGAL_PROGRAM; so does an engine instruction
when all 16 tickets are taken; a word that encodes no instruction stops its context in TRAPPED, nothing retired, and
puts a record of class 1 with its program counter, word and repeat at the end of the trap queue, its deadline
DEADLINE_US from now. -/
def Obligations.TrapsAndProgramFaults : Prop :=
  (∀ (s : State) (c : BitVec 9) (i : Instr), Issues s.hw c.toNat → (s.hw.ctx c.toNat).committed = false →
    let x := s.hw.ctx c.toNat
    ((∃ rd rb adr sz sx read, i = .ld c rd rb 0 sz sx adr read ∧
        ((x.rget rb + adr.signExtend 64).toNat % 2 ^ sz.toNat ≠ 0 ∨
          (x.rget rb + adr.signExtend 64).toNat % 2 ^ sz.toNat = 0 ∧
            0x1040 ≤ (x.rget rb + adr.signExtend 64).toNat ∧ (x.rget rb + adr.signExtend 64).toNat < 0x10000000)) ∨
      (∃ rd rb adr sz, i = .st c rd rb 0 sz false adr ∧ (x.rget rb + adr.signExtend 64).toNat % 2 ^ sz.toNat ≠ 0) ∨
      (∃ num ra, i = .movs c num ra ∧ 5 ≤ num.toNat ∧ num.toNat ≤ 7) ∨
      (∃ cond off, i = .bcc c cond off ∧ x.rep.isSome = true)) →
    Completes i s fun h => (h.ctx c.toNat).withdrawn = some 0x17 ∧ (h.ctx c.toNat).st = .quiescing ∧
      (h.ctx c.toNat).regs = x.regs ∧ (h.ctx c.toNat).pc = x.pc ∧ mayIssue h c.toNat = false) ∧
  (∀ (s : State) (c : BitVec 9) (word : BitVec 32), Fetches s.hw c.toNat →
    let x := s.hw.ctx c.toNat
    (awlDecode 0 word [] = none → Completes (.reservedOpcode c word) s fun h =>
      h.ctx c.toNat = { x with st := .trapped } ∧ (∀ a, a ≠ c.toNat → h.ctx a = s.hw.ctx a) ∧
      ∃ r, h.trapq = { s.hw.trapq with queue := s.hw.trapq.queue ++ [r] } ∧ r.ctx = c.toNat ∧ r.cls = 1 ∧
        r.pc = x.pc.setWidth 32 ∧ r.word = word ∧ r.repActive = x.rep.isSome ∧
        r.deadline = s.hw.clk.core + max 1 (fld s.hw.trapq.cfg 0 16) * clkPerUs s.hw) ∧
    ((awlDecode 0 word []).isSome = true → exec (.reservedOpcode c word) s = s.to s.hw)) ∧
  (∀ (s : State) (c : BitVec 9) (rd rc ra rb : BitVec 5) (len : BitVec 6) (reg : Bool) (status : BitVec 8) (i : Instr),
    Issues s.hw c.toNat → (s.hw.ctx c.toNat).rep = none → (s.hw.ctx c.toNat).committed = false →
    (∀ t < 16, ((s.hw.ctx c.toNat).tk t).st ≠ .free) →
    i = .cmpct c rd rc ra rb len ∨ i = .join c rd rb ∨ i = .signal c rd rc ra rb ∨ i = .post c reg ra status →
    Completes i s fun h => (h.ctx c.toNat).withdrawn = some 0x17 ∧ (h.ctx c.toNat).st = .quiescing ∧
      (h.ctx c.toNat).regs = (s.hw.ctx c.toNat).regs)

/-! ### Programs: engine instructions (R80, R81, R96, R112 to R126) -/

/-- Engine instructions (R80, R81, R96, R112, R113): with a ticket free, its parameter block inside scratch and
aligned, its engine kind in ENGINE_MASK and its operands well formed, each engine instruction takes the
lowest-numbered FREE ticket, writes its number to RD, whatever its AFTER set, and puts one job in the router, which
knows how every ticket of the set stands. The job waits there while a ticket of the set is PENDING; where its
engine's queue has room it goes on as the router passes it on (JOB_PASSED_TO_ENGINE), at once when nothing keeps it
back, and the program counter moves on. Up to there only the ticket, RD, and the context's streams, cursors and
handles can change, a gather's and a scatter's cursor by the span, a handle as ALLOC and FREE say, and for a CIPH the
hold that its domain has reserved. -/
def Obligations.EngineInstructionsTakeATicket : Prop :=
  ∀ (s : State) (c : BitVec 9) (rd rc ra rb : BitVec 5) (len : BitVec 6) (t : Nat),
    Issues s.hw c.toNat → s.hw.Settled →
    let x := s.hw.ctx c.toNat
    let set : BitVec 16 := (x.rget rb).setWidth 16
    let a := (x.rget ra).toNat
    let block (n : Nat) : Block := BitVec.ofNat 512 (leNat (mread x.scratch a n))
    let w0 (n : Nat) := wordOf (block n) 0
    let w1 (n : Nat) := wordOf (block n) 1
    let kind (k : Nat) : Prop := bit (libMask (s.hw.cfgOf c.toNat) x.entry.toNat) k = true
    let inScratch (n : Nat) : Prop := a + n ≤ 0x1000 ∧ a % n = 0
    let opens (b : Block) : Table Nat := if pbFirst b then
        tmod 0 s.hw.cs.holds x.domain (· + if cbDir b && taggedMode (cbMode b) && !cbRel b then holdNeed x else 0)
      else s.hw.cs.holds
    let entersWith (holds : Table Nat) (i : Instr) (op : JobOp) (more : Ctx → Prop) : Prop :=
      ∃ (j : Job) (y : Ctx) (v : Bool),
      j.op = op ∧ j.phase = .after ∧ more y ∧
      (∀ u < 16, set.getLsbD u = true →
        ⟨BitVec.ofNat 4 u, if (x.tk u).st = .done then some (x.tk u).status else none⟩ ∈ j.preds) ∧
      y = { (x.setTk t { st := .pending, verdict := v }).rset rd (BitVec.ofNat 64 t) with
        cstreams := y.cstreams, dstreams := y.dstreams, inCursor := y.inCursor, outCursor := y.outCursor
        handles := y.handles } ∧
      let entered : Hw := { s.hw with
        ctxs := (s.hw.setCtx c.toNat y).ctxs
        jobs := tput (16 * c.toNat + t) j s.hw.jobs
        jobSeq := s.hw.jobSeq + 1
        cs := { s.hw.cs with holds := holds } }
      ((∃ u < 16, set.getLsbD u = true ∧ (x.tk u).st = .pending) →
        exec i s = s.to (entered.setCtx c.toNat (y.past false))) ∧
      ((∀ n, queueFull s.hw c.toNat n op = false) →
        ∃ h, exec (.jobPassedToEngine c (BitVec.ofNat 4 t)) { s with hw := entered } = s.to h ∧
          exec i s = s.to (h.setCtx c.toNat ((h.ctx c.toNat).past false)))
    let enters := entersWith s.hw.cs.holds
    let same (y : Ctx) : Prop := y.inCursor = x.inCursor ∧ y.outCursor = x.outCursor ∧ y.handles = x.handles
    x.rep = none → t < 16 → (x.tk t).st = .free → (∀ u < t, (x.tk u).st ≠ .free) →
    (∀ u < 16, set.getLsbD u = true → (x.tk u).st ≠ .free) →
    (inScratch 64 → kind (if cbMode (block 64) = 0x10 then 1 else 0) → (ciphIssue s.hw c.toNat set (block 64)).2 = none →
      entersWith (opens (block 64)) (.ciph c rd ra rb) (.ciph (block 64)) same) ∧
    (inScratch 64 → kind (if digKeyed (dbAlg (block 64)) then 3 else 2) → (dgstIssue s.hw c.toNat set (block 64)).2 = none →
      enters (.dgst c rd ra rb) (.dgst (block 64)) same) ∧
    (inScratch 64 → kind 4 → pkIssue s.hw c.toNat set (block 64) = none →
      enters (.pk c rd ra rb) (.pk (block 64)) same) ∧
    (inScratch 16 → keyReserved (w0 16) = false → rgBad (w1 16) = false → 1 ≤ fld (w0 16) 20 4 → fld (w0 16) 20 4 ≤ 6 →
      (algKnown (fld (w0 16) 24 8) = true ∨ fld (w0 16) 24 8 = 0x70) → enters (.kchk c rd ra rb) (.kchk (w0 16)) same) ∧
    (inScratch 16 → x.domain = 0 → keyReserved (w0 16) = false → rgPayloadBad (w1 16) = false →
      enters (.kint c rd ra rb) (.kint (w1 16)) same) ∧
    (inScratch 16 → keyReserved (w0 16) = false → rgBad (w1 16) = false → fld (w0 16) 20 12 = 0 →
      3629 ≤ rgLen (w1 16) → enters (.katt c rd ra rb) (.katt ((w0 16).extractLsb' 0 17) (w1 16)) same) ∧
    (rc.toNat < 4 → enters (.ndraw c rd rc ra rb) (.ndraw ((x.rget ra).setWidth 17) rc.toNat) same) ∧
    (inScratch 16 → rgPayloadBad (w1 16) = false →
      enters (.xgath c rd ra rb) (.xgath (w1 16)) (fun y => y.handles = x.handles ∧ y.outCursor = x.outCursor ∧
        y.inCursor = x.inCursor + min (rgLen (w1 16)) (x.length - x.inCursor)) ∧
      enters (.xscat c rd ra rb) (.xscat (w1 16)) (fun y => y.handles = x.handles ∧ y.inCursor = x.inCursor ∧
        y.outCursor = x.outCursor + rgLen (w1 16)) ∧
      enters (.xload c rd ra rb) (.xload (w0 16) (w1 16)) same ∧
      enters (.xstore c rd ra rb) (.xstore (w0 16) (w1 16)) same ∧
      (x.domain = 0 → (w0 16).toNat % 8 = 0 → enters (.xlib c rd ra rb) (.xlib (w0 16) (w1 16)) same)) ∧
    enters (.cmpct c rd rc ra rb len) (.cmpct (x.rget ra) (x.rget rc) (len.toNat + 1)) same ∧
    (rc.toNat < 16 → (x.hnd rc.toNat).st = .closed → ∀ n : Nat, 1 ≤ n → n ≤ 1024 → (x.rget ra).toNat % 2 ^ 32 = n →
      enters (.alloc c rd rc ra rb) (.alloc rc.toNat n) fun y =>
        y.handles = (x.setHnd rc.toNat { st := .allocating }).handles ∧ y.inCursor = x.inCursor ∧
          y.outCursor = x.outCursor) ∧
    (rc.toNat < 16 → (x.hnd rc.toNat).st = .live ∨ (x.hnd rc.toNat).st = .allocating →
      enters (.free c rd rc rb) (.free rc.toNat) fun y =>
        y.handles = (x.setHnd rc.toNat { x.hnd rc.toNat with st := .freeing }).handles ∧ y.inCursor = x.inCursor ∧
          y.outCursor = x.outCursor) ∧
    enters (.join c rd rb) .join same ∧
    ((x.rget ra).toNat % 8 = 0 → enters (.signal c rd rc ra rb) (.signal (x.rget ra) (x.rget rc)) same)

/-- Posts and engine queues (R55, R81, R83, R126): POST takes a ticket and gives the request its status, from the
instruction or from a register, the reserved statuses 0x1A to 0x7F becoming ILLEGAL_PROGRAM; with no other ticket
PENDING and no stream open the record joins the ready list in R55's order; an instruction held for a full queue
issues again when ENGINE_QUEUE_ACCEPT comes. -/
def Obligations.PostsAndQueues : Prop :=
  (∀ (s : State) (c : BitVec 9) (reg : Bool) (ra : BitVec 5) (status : BitVec 8) (t : Nat),
    Issues s.hw c.toNat → s.hw.Settled →
    let x := s.hw.ctx c.toNat
    let given : BitVec 8 := if reg then (x.rget ra).setWidth 8 else status
    x.rep = none → t < 16 → (x.tk t).st = .free → (∀ u < t, (x.tk u).st ≠ .free) →
    queueFull s.hw c.toNat 0 .post = false → x.cstreams = [] → x.scrubbing = none → x.committed = false →
    Completes (.post c reg ra status) s fun h =>
      h.ctx c.toNat = ({ x.setTk t { st := .pending } with
        posted := some (if 0x1A ≤ given.toNat ∧ given.toNat ≤ 0x7F then 0x17 else given) }).past false ∧
      mayIssue h c.toNat = false ∧
      (x.tickets.filter (fun e => e.2.st = .pending) = [] → Joins s.hw h (.context c.toNat) ∨
        Ready.context c.toNat ∈ s.hw.rm.ready) ∧
      h.jobs = s.hw.jobs ∧ h.cs = s.hw.cs) ∧
  (∀ (s : State) (c : BitVec 9) (rd rc ra rb : BitVec 5) (reg : Bool) (status : BitVec 8) (len : BitVec 6) (i : Instr),
    i = .ciph c rd ra rb ∨ i = .dgst c rd ra rb ∨ i = .pk c rd ra rb ∨ i = .kchk c rd ra rb ∨ i = .kint c rd ra rb ∨
      i = .katt c rd ra rb ∨ i = .ndraw c rd rc ra rb ∧ rc.toNat < 4 ∨ i = .xgath c rd ra rb ∨ i = .xscat c rd ra rb ∨
      i = .xload c rd ra rb ∨ i = .xstore c rd ra rb ∨ i = .xlib c rd ra rb ∨ i = .cmpct c rd rc ra rb len ∨
      i = .alloc c rd rc ra rb ∧ rc.toNat < 16 ∨ i = .free c rd rc rb ∧ rc.toNat < 16 ∨ i = .join c rd rb ∨
      i = .post c reg ra status ∨ i = .signal c rd rc ra rb →
    let x := s.hw.ctx c.toNat
    s.hw.inert = false → x.st = .waiting → x.hold = .queue i →
    ∃ h, exec i { s with hw := s.hw.setCtx c.toNat { x with st := .ready, hold := .none } } =
        .next { hw := h, pending := s.pending } ∧
      exec (.engineQueueAccept c) s = s.to (settleAll h))

/-! ### Jobs of the router and buffers (R30, R37, R73, R80, R113, R123, R124) -/

/-- The router and the comparison (R28, R113, R121 to R124, R207): once its predecessors are DONE and OK a JOIN
completes OK, and a FREE whose handle no other job names closes the handle; a KCHK completes with what the checks of
R28 say; a PK without a key that its domain may run and its bench serves stands in the bench's queue, and a load or a
store of a range inside its handle, or a comparison in scratch, is under way; a job with a predecessor that was not
OK does no work and completes with that status and result 0; the constant-time comparison completes, 20 core clocks
after its start, OK when the bytes are equal and VERIFY_FAIL when they are not. Where the rules leave a choice, it
states the model's, of log entry 10. -/
def Obligations.RouterPassesJobs : Prop :=
  (∀ (s : State) (c : BitVec 9) (t : BitVec 4) (j : Job), Works s.hw c.toNat t.toNat j → j.phase = .after →
    (∀ p ∈ j.preds, p.status.isSome = true) →
    let x := s.hw.ctx c.toNat
    (j.op = .join → (∀ p ∈ j.preds, p.status = some 0) →
      queueFull s.hw c.toNat j.stream .join = false → Completes (.jobPassedToEngine c t) s fun h =>
        h.Done c.toNat t.toNat 0 ∧ ((h.ctx c.toNat).tk t.toNat).result = 0 ∧ (∀ a, a ≠ c.toNat → h.ctx a = s.hw.ctx a)) ∧
    (∀ k, j.op = .free k → (∀ p ∈ j.preds, p.status = some 0) → handleNamed s.hw c.toNat (jobKey c.toNat t.toNat) k = false →
      queueFull s.hw c.toNat j.stream j.op = false →
      Completes (.jobPassedToEngine c t) s fun h => h.Done c.toNat t.toNat 0 ∧ (h.ctx c.toNat).hnd k = {} ∧
        (∀ b ∈ (x.hnd k).bufs, b ∈ h.cs.zeroQ) ∧ (∀ n, n ≠ k → (h.ctx c.toNat).hnd n = x.hnd n)) ∧
    (∀ st p, (∃ r, j.op = .xgath r) ∨ (∃ b, j.op = .pk b) ∨ (∃ w, j.op = .kchk w) ∨ (∃ a v, j.op = .signal a v) →
      p ∈ j.preds → p.status = some st → st ≠ 0 → (∀ q ∈ j.preds, q.status = some 0 ∨ q.status = some st) →
      Completes (.jobPassedToEngine c t) s fun h =>
        h.Done c.toNat t.toNat st ∧ ((h.ctx c.toNat).tk t.toNat).result = 0 ∧ h.mm = s.hw.mm ∧ h.pku = s.hw.pku) ∧
    ((∀ p ∈ j.preds, p.status = some 0) → queueFull s.hw c.toNat j.stream j.op = false →
      let key := jobKey c.toNat t.toNat
      let goesOn (k : Job) : Prop := Completes (.jobPassedToEngine c t) s fun h => h.job key = some k ∧
        h.ctx c.toNat = x ∧ h.mm = s.hw.mm ∧ h.keys = s.hw.keys ∧ h.cs = s.hw.cs
      (∀ w, j.op = .kchk w → Completes (.jobPassedToEngine c t) s fun h =>
        h.Done c.toNat t.toNat ((keyCheck s.hw (s.hw.cfgOf c.toNat) x.domain (fld w 0 17)
          { uses := [fld w 20 4], algs := [fld w 24 8], words := none, secret := false
            enc := fld w 20 4 = 1 || fld w 20 4 = 6 }).getD 0) ∧ h.keys = s.hw.keys ∧ h.mm = s.hw.mm) ∧
      (∀ b, j.op = .pk b → kbKeyed b = false → pkFlags (s.hw.cfgOf c.toNat) x.domain b = none →
        pkBenchServes s.hw (benchOf c.toNat) = true →
        goesOn { j with phase := .queued, seq := s.hw.jobSeq + 1, since := s.hw.clk.core }) ∧
      (∀ a r, j.op = .xload a r ∨ j.op = .xstore a r → rgInside x r = true → 0 < rgLen r → j.pos = 0 → j.pieces = [] →
        j.stopped = false → goesOn { j with phase := .running, seq := s.hw.jobSeq + 1 }) ∧
      (∀ a b n, j.op = .cmpct a b n → 1 ≤ n → a.toNat + n ≤ 0x1000 → b.toNat + n ≤ 0x1000 →
        goesOn { j with phase := .running, since := s.hw.clk.core }))) ∧
  (∀ (s : State) (c : BitVec 9) (t : BitVec 4) (j : Job) (a b : Word) (n : Nat), Works s.hw c.toNat t.toNat j →
    j.phase = .running → j.op = .cmpct a b n → a.toNat + n ≤ 0x1000 → b.toNat + n ≤ 0x1000 →
    let bytes (a : Word) := mread (s.hw.ctx c.toNat).scratch a.toNat n
    Completes (.cmpctDone c t []) s fun h =>
      h.Done c.toNat t.toNat (if bytes a = bytes b then 0x0 else 0x1) ∧ h.clk.core = max s.hw.clk.core (j.since + 20) ∧
      (h.ctx c.toNat).scratch = (s.hw.ctx c.toNat).scratch ∧ h.cs.bytes = s.hw.cs.bytes)

/-- Buffers (R30, R37, R73, R286, R287): a waiting ALLOC that can be served takes n buffers that were free, and its
handle is live with them; one whose wait ends completes QUOTA with its handle closed; the zeroer leaves a buffer all
zero, and free unless a read-back that was due fails. -/
def Obligations.BuffersComeAndGo : Prop :=
  ∀ (s : State) (c : BitVec 9) (t : BitVec 4) (j : Job) (k n : Nat) (b : BitVec 13) (readBack : Bool),
    let x := s.hw.ctx c.toNat
    let key := jobKey c.toNat t.toNat
    let state (h : Hw) (b : Nat) := tget BufState.free h.cs.bufs b
    (Works s.hw c.toNat t.toNat j → j.op = .alloc k n → j.phase = .allocating → (x.hnd k).st = .allocating →
      (Completes (.allocWaitExpiry c t) s fun h => h.Done c.toNat t.toNat 0x13 ∧ (h.ctx c.toNat).hnd k = {} ∧
          h.cs.bufs = s.hw.cs.bufs) ∧
      (canAllocate s.hw (s.hw.cfgOf c.toNat) x.domain n (allocFirst s.hw key) = true →
        Completes (.bufferAllocated c t) s fun h => h.Done c.toNat t.toNat 0 ∧
          ∃ l : List Nat, l.length = n ∧ (h.ctx c.toNat).hnd k = { st := .live, count := n, bufs := l } ∧
            (∀ b ∈ l, state s.hw b = .free ∧ state h b = .owned (BitVec.ofNat 12 x.domain)) ∧
            ∀ b, b ∉ l → state h b = state s.hw b)) ∧
    (s.hw.inert = false → b.toNat ∈ s.hw.cs.zeroQ.take 8 →
      Completes (.bufferZeroed b readBack) s fun h =>
        (∀ a, a / 4096 = b.toNat → mget h.cs.bytes a = 0) ∧
        (∀ a, a / 4096 ≠ b.toNat → mget h.cs.bytes a = mget s.hw.cs.bytes a) ∧
        state h b.toNat = (if b.toNat ∈ s.hw.cs.recheck ∧ readBack = false then .retired else .free) ∧
        (∀ n, n ≠ b.toNat → state h n = state s.hw n) ∧ b.toNat ∉ h.cs.zeroQ ∧ h.ctxs = s.hw.ctxs ∧ h.jobs = s.hw.jobs)

/-! ### Cipher engine (R137 to R144, R155, R158, R160, R161, R167) -/

/-- A stitch (R138, R144, R145, R155): a pair that serves, whose checker agrees, takes the next 64 B of the one job
that it has, in its first core clock: the stream takes the input, 64 B of DST are written and no other byte of the
central store, the pair counts the stitch and is free for another 4 core clocks later, and each of a cipher pair's
two mask generators counts an output for every core clock in which its pipe newly holds work; a disagreement outside
Factory Test's CHECK_DIS fences the pair. Where the rules leave a choice, it states the model's, of log entry 33. -/
def Obligations.StitchesAdvance : Prop :=
  ∀ (s : State) (c : BitVec 9) (t : BitVec 4) (j : Job) (b : Block) (kind : PairKind) (bench : BitVec 3),
    let key := jobKey c.toNat t.toNat
    let p := pairKey kind bench
    let x := s.hw.ctx c.toNat
    let v := s.hw.pair p
    let src := rgSub (pbSrc b) j.pos (rgLen (pbSrc b) - j.pos)
    let dst := rgSub (pbDst b) j.pos 64
    let at' := max (max s.hw.clk.core v.nextAt) j.readyAt
    let held := if cbMode b = 7 then 1440 else if chained b then 120 else 33
    let whole := if cbMode b = 7 then 2880 else held
    let given (n : Nat) := min (2 ^ 20) (n + min held (at' + whole - max at' v.pipeUntil))
    Works s.hw c.toNat t.toNat j → s.hw.jobs = [(key, j)] → j.op = .ciph b → j.phase = .running → (cbMode b = 3 → cbDir b = true) →
    pairOf (benchOf c.toNat) (cbMode b) = p → j.pos + 64 < rgLen (pbSrc b) → rgLen (pbDst b) = rgLen (pbSrc b) →
    rgScr dst = false → srcHeld x j b = false → s.hw.cs.poisoned = [] → s.hw.out (pairUnit p) = false → v.entStop = false →
    (kind = .cipher → v.workerOut < 2 ^ 20 ∧ v.checkerOut < 2 ^ 20) → s.hw.fenced 0x84 = false →
    (s.hw.blk (pairUnit p)).flip = false →
    Completes (.stitch kind bench true []) s (fun h =>
      h.clk.core = at' ∧ (h.pair p).nextAt = at' + 4 ∧
      h.job key = some { j with pos := j.pos + 64, readyAt := if held = 33 then j.readyAt else at' + whole } ∧
      (h.pair p).stitches = satInc v.stitches ∧
      ((h.ctx c.toNat).cs j.stream).msg = (x.cs j.stream).msg ++ (rgRead s.hw c.toNat src).take 64 ∧
      (∀ a, (∀ i < 64, a ≠ hndAddr (x.hnd (rgHnd dst)) (rgOff dst + i)) → mget h.cs.bytes a = mget s.hw.cs.bytes a) ∧
      (kind = .cipher → (h.pair p).workerOut = given v.workerOut ∧ (h.pair p).checkerOut = given v.checkerOut) ∧
      (kind = .stream → (h.pair p).workerOut = v.workerOut) ∧ h.digs = s.hw.digs ∧ h.keys = s.hw.keys) ∧
    (v.cfg.getLsbD 0 = false →
      Completes (.stitch kind bench false []) s fun h => h.fenced (pairUnit p) = true)

/-- Tags and scrubs (R116, R134, R135, R158, R160, R161, R167): a LAST encryption writes its tag and ends OK with the
length of DST; a MAC or tag check ends OK or VERIFY_FAIL and is counted; a tagged decryption that holds its plaintext
ends OK and lifts the hold, or ends TAG_FAIL with every held byte zero; the scrub of a failed release ends, once
nothing of it is outstanding, TAG_FAIL_SCRUBBED or, when a piece was refused, TAG_FAIL_UNSCRUBBED, and is counted and
recorded. -/
def Obligations.TagsAndScrubs : Prop :=
  (∀ (s : State) (c : BitVec 9) (t : BitVec 4) (j : Job) (b : Block) (r : Word),
    let key := jobKey c.toNat t.toNat
    let x := s.hw.ctx c.toNat
    let v := x.cs j.stream
    let p := pairOf (benchOf c.toNat) (cbMode b)
    let tag := rgRead s.hw c.toNat (cbTag b)
    Works s.hw c.toNat t.toNat j → s.hw.jobs = [(key, j)] → j.op = .ciph b → j.phase = .closing → ciphTagged b = true →
    s.hw.cs.poisoned = [] →
    s.hw.out (pairUnit p) = false → (s.hw.pair p).entStop = false →
    (cbDir b = false → Completes (.tagDecision c t true []) s fun h => h.Done c.toNat t.toNat 0 ∧
      ((h.ctx c.toNat).tk t.toNat).result = BitVec.ofNat 64 (rgLen (pbDst b)) ∧ (h.ctx c.toNat).cs j.stream = {} ∧
      h.keys.slots = s.hw.keys.slots) ∧
    (cbDir b = true → taggedMode (cbMode b) = false → v.holds = false →
      Completes (.tagDecision c t true []) s fun h =>
        h.Done c.toNat t.toNat (if ciphTagOk v tag then 0x0 else 0x1) ∧
        (ciphTagOk v tag = true → (h.pair p).pass = satInc (s.hw.pair p).pass) ∧
        (ciphTagOk v tag = false → (h.pair p).fail = satInc (s.hw.pair p).fail) ∧
        h.cs.bytes = s.hw.cs.bytes) ∧
    (cbDir b = true → taggedMode (cbMode b) = true → v.holds = true → v.rel = false → v.undecided = true → v.held = [r] →
      rgScr r = false →
      Completes (.tagDecision c t true []) s fun h =>
        h.Done c.toNat t.toNat (if ciphTagOk v tag then 0x0 else 0x2) ∧
        (ciphTagOk v tag = true → h.cs.bytes = s.hw.cs.bytes ∧ (h.ctx c.toNat).cs j.stream = {}) ∧
        (ciphTagOk v tag = false → ∀ i < rgLen r, mget h.cs.bytes (hndAddr (x.hnd (rgHnd r)) (rgOff r + i)) = 0))) ∧
  (∀ (s : State) (c : BitVec 9) (t : BitVec 4) (j : Job) (k : Scrub),
    let x := s.hw.ctx c.toNat
    Works s.hw c.toNat t.toNat j → x.scrubbing = some k → k.ticket = some t.toNat → k.post = false → k.out = 0 →
    k.status = 0x3 → k.stopStatus = 0x4 → scrubBlocked s.hw c.toNat = false →
    (k.refused = false → x.scrub = [] → Completes (.scrubComplete c t) s fun h => h.Done c.toNat t.toNat 0x3 ∧
      (h.ctx c.toNat).scrubbing = none ∧ (h.ctx c.toNat).scrubbed = true ∧
      (h.pair k.pair).scrubbed = satInc (s.hw.pair k.pair).scrubbed ∧ h.mm = s.hw.mm) ∧
    (k.refused = true → Completes (.scrubStop c t) s fun h => h.Done c.toNat t.toNat 0x4 ∧
      (h.ctx c.toNat).scrubbing = none ∧ (h.ctx c.toNat).unscrubbed = true ∧
      (h.pair k.pair).unscrubbed = satInc (s.hw.pair k.pair).unscrubbed ∧ h.mm = s.hw.mm))

/-- Mask generators (R140 to R142, R167, R168, R396): at 2^18 outputs a generator asks; the one that stands at the
highest count, while the source serves and the DRBG waits for nothing, has its fresh bits next, its count is 0, and
its pair, once both generators run, serves again; at 2^20 it stops, and with the source fenced the pair stops for
entropy; a stall of a cipher pair that has lasted more than 1,024 core clocks is reported once, and where nothing
stalls nothing happens. Where the rules leave a choice, it states the model's, of log entries 33 and 77. -/
def Obligations.MaskGeneratorsReseed : Prop :=
  ∀ (s : State) (bench : BitVec 3) (checker : Bool),
    let p := bench.toNat
    let v := s.hw.pair p
    let out (v : Pair) := if checker then v.checkerOut else v.workerOut
    let other (v : Pair) := if checker then v.workerOut else v.checkerOut
    let asked (v : Pair) := if checker then v.checkerAsked else v.workerAsked
    s.hw.inert = false →
    Completes (.maskReseedRequest bench checker) s (fun h => out (h.pair p) = max (2 ^ 18) (out v) ∧
      asked (h.pair p) = true ∧ other (h.pair p) = other v ∧ h.sec = s.hw.sec ∧ h.flt = s.hw.flt) ∧
    (s.hw.fenced 0x84 = false → s.hw.sec.entHealthy = true → drbgDue s.hw = false → asked v = true →
      (∀ q < 8, ((s.hw.pair q).workerAsked = true → (s.hw.pair q).workerOut ≤ out v) ∧
        ((s.hw.pair q).checkerAsked = true → (s.hw.pair q).checkerOut ≤ out v)) →
      Completes (.maskReseedArrival bench checker) s fun h =>
      out (h.pair p) = 0 ∧ asked (h.pair p) = false ∧ other (h.pair p) = other v ∧
      (((if checker then v.workerAsked else v.checkerAsked) = false ∨ v.seeded = true) → (h.pair p).seeded = true ∧
        (other v < 2 ^ 20 → (h.pair p).entStop = false ∧ (h.pair p).stallFrom = none)) ∧
      h.sec.entOutputs = satInc s.hw.sec.entOutputs) ∧
    (s.hw.fenced 0x84 = false → Completes (.reseedDeadline bench checker) s fun h =>
      out (h.pair p) = 2 ^ 20 ∧ asked (h.pair p) = true ∧ other (h.pair p) = other v ∧ h.sec = s.hw.sec) ∧
    (s.hw.fenced 0x84 = true → out v < 2 ^ 20 → Completes (.reseedDeadline bench checker) s fun h =>
      (h.pair p).entStop = true ∧ out (h.pair p) = 2 ^ 20) ∧
    (∀ t, v.stallFrom = some t → v.stallSaid = false → Completes (.maskStall .cipher bench) s fun h =>
      h.clk.core = max s.hw.clk.core (t + 1025) ∧ h.pair p = { v with stallSaid := true } ∧ h.jobs = s.hw.jobs ∧
      h.flt = (note { s.hw with clk := h.clk } (pairUnit p) 4).flt ∧ h.sec = s.hw.sec) ∧
    (∀ kind, s.hw.jobs = [] → (s.hw.pair (pairKey kind bench)).stallFrom = none →
      exec (.maskStall kind bench) s = s.events id)

/-! ### Digest engines and board (R170 to R188, R444) -/

/-- Digests and board (R119, R170, R171, R173, R182, R184, R186 to R188, R444): an engine that serves takes the next
1 KiB of the one job it has and counts it; a LAST job whose input is absorbed writes its result to OUT, or compares
it with the expected bytes and ends OK or VERIFY_FAIL, with the length of SRC as its result; its engine counts a
comparison; a clear of a board entry, or of all, by the cinch's holder leaves its data zero, its sequence number two
on and its ownership as it was; a trace record that has left is gone from the queue. -/
def Obligations.DigestsAndBoard : Prop :=
  (∀ (s : State) (c : BitVec 9) (t : BitVec 4) (j : Job) (b : Block) (e : DigestEngine),
    let key := jobKey c.toNat t.toNat
    let x := s.hw.ctx c.toNat
    let v := x.ds j.stream
    let n := digNum e
    Works s.hw c.toNat t.toNat j → s.hw.jobs = [(key, j)] → j.op = .dgst b → j.phase = .running → v.claimed = [] →
    v.engine = n → j.pos + 1024 < rgLen (pbSrc b) → rgHeld x (pbSrc b) = false → s.hw.cs.poisoned = [] →
    s.hw.out (digUnit n) = false →
    Completes (.digestAbsorb e []) s fun h =>
      h.job key = some { j with pos := j.pos + 1024 } ∧
      (h.dig n).bytes = satInc (s.hw.dig n).bytes 1024 ∧
      ((h.ctx c.toNat).ds j.stream).msg = v.msg ++ rgRead s.hw c.toNat (rgSub (pbSrc b) j.pos 1024) ∧
      h.cs = s.hw.cs ∧ h.pairs = s.hw.pairs ∧ h.board = s.hw.board) ∧
  (∀ (s : State) (c : BitVec 9) (t : BitVec 4) (j : Job) (b : Block),
    let x := s.hw.ctx c.toNat
    let v := x.ds j.stream
    let result := digResult v (digOutLen b)
    Works s.hw c.toNat t.toNat j → j.op = .dgst b → j.phase = .closing → pbLast b = true → dbBoard b = false →
    s.hw.cs.poisoned = [] →
    (dbCheck b = false → Completes (.digestClose c t []) s fun h => h.Done c.toNat t.toNat 0 ∧
      ((h.ctx c.toNat).tk t.toNat).result = BitVec.ofNat 64 (rgLen (pbSrc b)) ∧ (h.ctx c.toNat).ds j.stream = {} ∧
      (∀ m, rgScr (dbOut b) = true → m < rgOff (dbOut b) ∨ rgOff (dbOut b) + result.length ≤ m →
        mget (h.ctx c.toNat).scratch m = mget x.scratch m) ∧
      (rgScr (dbOut b) = true →
        mread (h.ctx c.toNat).scratch (rgOff (dbOut b)) result.length = result) ∧
      (rgScr (dbOut b) = true → h.cs.bytes = s.hw.cs.bytes)) ∧
    (dbCheck b = true →
      let ok := rgRead s.hw c.toNat (dbExpect b) = result
      Completes (.digestClose c t []) s fun h =>
        h.Done c.toNat t.toNat (if ok then 0x0 else 0x1) ∧ (h.ctx c.toNat).scratch = x.scratch ∧
        h.cs.bytes = s.hw.cs.bytes ∧
        (ok → (h.dig v.engine).pass = satInc (s.hw.dig v.engine).pass) ∧
        (¬ok → (h.dig v.engine).fail = satInc (s.hw.dig v.engine).fail))) ∧
  (∀ (s : State) (p : CtlPort) (k : BitVec 8) (r : List Word) (q : List (List Word)),
    let entry (h : Hw) (n : Nat) : BoardEntry := tget {} h.board.entries n
    let cleared (h : Hw) (n : Nat) : Prop := entry h n =
      { seq := (entry s.hw n).seq + 2, own := (entry s.hw n).own }
    (Masters s.hw p → bit s.hw.board.ctl 0 = false →
      Completes (.dgbClearEntry p k) s (fun h => cleared h k.toNat ∧ (∀ n, n ≠ k.toNat → entry h n = entry s.hw n) ∧
        h.board.posts = s.hw.board.posts + 1 ∧ h.board.trace = s.hw.board.trace) ∧
      Completes (.dgbClearAll p) s (fun h => (∀ n < 256, cleared h n) ∧ h.board.posts = s.hw.board.posts + 256)) ∧
    (s.hw.inert = false → s.hw.board.trace = r :: q → Completes .traceRecordSent s fun h =>
      h.board = { s.hw.board with trace := q } ∧ h.flt = s.hw.flt))

/-! ### Public-key units, curves, microcode and identity (R196, R207, R210, R212 to R218, R221 to R229, R246) -/

/-- Taking a job (R207, R221, R246): a free unit of a bench that serves takes the one job that waits there, here one
without a key or a draw, whose operands and results lie in windows: the unit works for the job, it fetches or, with
nothing to fetch, computes, and the job runs. While the identity is still to be computed the lowest-numbered unit in
service takes that first. -/
def Obligations.UnitsTakeJobs : Prop :=
  (∀ (s : State) (unit : BitVec 4), s.hw.inert = false → (s.hw.pkUnit unit.toNat).phase = .free →
    pkuServes s.hw unit.toNat = true → s.hw.mc.mode ≠ .maint → s.hw.mc.mode ≠ .seal → identityDue s.hw = true →
    ucUnit s.hw = some unit.toNat → Completes (.pkJobTake unit) s fun h =>
      (h.pkUnit unit.toNat).work = some .identity ∧ (h.pkUnit unit.toNat).phase = .compute ∧
      (∀ n, n ≠ unit.toNat → h.pkUnit n = s.hw.pkUnit n) ∧ h.jobs = s.hw.jobs ∧ h.keys = s.hw.keys) ∧
  ∀ (s : State) (c : BitVec 9) (t : BitVec 4) (j : Job) (b : Block) (unit : BitVec 4) (p : Nat),
    let key := jobKey c.toNat t.toNat
    let x := s.hw.ctx c.toNat
    let u := unit.toNat
    let cfg := s.hw.cfgOf c.toNat
    let inside (addr n : Nat) (write : Bool) : Prop :=
      ∀ q ∈ piecesOf addr n, (winCheck cfg x.domain q.1 write).isSome = true
    Works s.hw c.toNat t.toNat j → s.hw.jobs = [(key, j)] → j.op = .pk b → j.phase = .queued → j.data = [] →
    unit.getLsbD 0 = false → u / 2 = benchOf c.toNat → (s.hw.pkUnit u).phase = .free → pkuServes s.hw u = true →
    s.hw.mc.mode = .full → (s.hw.pkb' (u / 2)).curves = [] → s.hw.keys.updates = [] → identityDue s.hw = false →
    x.domain < 4096 → kbKeyed b = false → pkDraws (kbOp b) = false → pkLoaded (kbOp b) = false → kbOp b < 65536 →
    (∀ o ∈ pkOuts (kbOp b) (kbWords b), inside (kbOut b o.1).toNat o.2 true) →
    (∀ a ∈ pkSources b, inside a.1 a.2 false) → mmBind s.hw = some p →
    Completes (.pkJobTake unit) s fun h =>
      (h.pkUnit u).work = some (.job key) ∧ ((h.pkUnit u).phase = .fetch ∨ (h.pkUnit u).phase = .compute) ∧
      (h.pkUnit u).domain.toNat = x.domain ∧ (h.pkUnit u).op.toNat = kbOp b ∧ (h.pkUnit u).port = some p ∧
      h.job key = some { j with phase := .running } ∧ h.keys = s.hw.keys ∧ h.cs = s.hw.cs

/-- Release, results and burnish (R196, R210, R219, R222 to R226): a verification whose two computations, in the two
halves of operand memory, agree ends with its status and the unit burnishes, its operand memory zero; where they
disagree the job ends ENGINE_FENCED and the unit is fenced; a job whose results are all written ends OK; after the
burnish, in Held too, the unit is free, or fenced when the read-back was not zero. -/
def Obligations.UnitsReleaseAndBurnish : Prop :=
  ∀ (s : State) (c : BitVec 9) (t : BitVec 4) (j : Job) (unit : BitVec 4),
    let key := jobKey c.toNat t.toNat
    let u := unit.toNat
    let v := s.hw.pkUnit u
    let burnishes (h : Hw) : Prop := (h.pkUnit u).phase = .burnish ∧ (h.pkUnit u).mem = [] ∧ (h.pkUnit u).outputs = [] ∧
      (h.pkUnit u).rand = [] ∧ (h.pkUnit u).jobs = satInc v.jobs
    (∀ b, Works s.hw c.toNat t.toNat j → s.hw.jobs = [(key, j)] → j.op = .pk b → v.work = some (.job key) →
      v.killed = false → pkDsaSign v.op.toNat = false → s.hw.out (pkuUnit u) = false →
      (v.phase = .compute → pkOuts (kbOp b) (kbWords b) = [] → (s.hw.blk (pkuUnit u)).flip = false →
        pkAnswer (v.pkIn true) = pkAnswer (v.pkIn false) →
        Completes (.pkRelease unit true) s fun h => burnishes h ∧ h.Done c.toNat t.toNat (pkAnswer (v.pkIn false)).1 ∧
          ((h.ctx c.toNat).tk t.toNat).result = 0) ∧
      (∀ agree, v.phase = .compute → agree = false ∨ pkAnswer (v.pkIn true) ≠ pkAnswer (v.pkIn false) →
        Completes (.pkRelease unit agree) s fun h => h.Done c.toNat t.toNat 0x14 ∧
        h.fenced (pkuUnit u) = true) ∧
      (v.phase = .write → v.writeOut = 0 → v.outputs = [] → v.refused = false →
        Completes (.pkResultWritten unit) s fun h => burnishes h ∧ h.Done c.toNat t.toNat 0 ∧ h.mm = s.hw.mm)) ∧
    (s.hw.mc.por = false → s.hw.sec.power ≠ .retention → s.hw.sec.power ≠ .off → v.phase = .burnish →
      Completes (.burnishEnd unit true) s (fun h => (h.pkUnit u).phase = .free ∧ (h.pkUnit u).work = none ∧
        (∀ n, n ≠ u → h.pkUnit n = s.hw.pkUnit n) ∧ h.flt = s.hw.flt) ∧
      (s.hw.inert = false → s.hw.fenced (pkuUnit u) = false → s.hw.jobs = [] →
        Completes (.burnishEnd unit false) s fun h => h.fenced (pkuUnit u) = true))

/-- Loaded curves (R228, R229): each segment that ends on a unit in service moves its entry on by one and frees the
unit to burnish; after the seventh the entry is ACCEPTED when every segment passed and REJECTED when one did not;
CLEAR removes every entry but those being checked. Where the rules leave a choice, it states the model's, of log
entry 79. -/
def Obligations.CurvesAreChecked : Prop :=
  ∀ (s : State) (p : CtlPort) (unit : BitVec 4) (bench id : Nat) (e : CurveEntry),
    let u := unit.toNat
    let v := s.hw.pkUnit u
    (s.hw.inert = false → s.hw.out (pkuUnit u) = false → v.work = some (.segment bench id) → v.phase = .compute →
      (s.hw.pkb' bench).curves.find? (fun e => e.id = id) = some e →
      Completes (.curveSegmentEnd unit) s fun h => (h.pkUnit u).phase = .burnish ∧
        ∃ e' ∈ (h.pkb' bench).curves, e'.id = id ∧ e'.segment = e.segment + 1 ∧ e'.taken = false ∧
          (e.segment + 1 ≠ 7 → e'.st = .checking) ∧ (e.segment + 1 = 7 → e'.st = if e'.pass then .accepted else .rejected) ∧
          e'.pass = (e.pass && curveSegmentOk ((v.operands false).headD []) (e.segment + 1))) ∧
    (Masters s.hw p → ∀ b, (s.hw.pkb' b).curves ≠ [] → Completes (.clear p) s fun h =>
      (h.pkb' b).curves = (s.hw.pkb' b).curves.filter (fun e => e.st = .checking) ∧ h.pku = s.hw.pku)

/-- Microcode and identity (R214, R215, R218, R246): an accepted LOAD begins to fetch the image at the address given;
the verification ends with the image ACTIVE in the store and in the 16 control stores, its SVN and version taken from
its header, or with a REFUSE code and the old state, and a unit whose two runs of it disagree is fenced; RAISE_FLOOR
blows the next fuse position; the identity is ready, and the unit that computed it burnishes, when its computation
ends with a root live. -/
def Obligations.MicrocodeAndIdentity : Prop :=
  ∀ (s : State) (p : CtlPort),
    let c := s.hw.ucode
    (Masters s.hw p → loadAllowed (wake s.hw) = true → (ucUnit (wake s.hw)).isSome = true →
      Completes (.load p) s fun h => h.ucode.verifying = true ∧ h.ucode.base = c.addr.toNat ∧ h.ucode.fetched = [] ∧
        h.ucode.active = c.active ∧ h.ucode.floor = c.floor) ∧
    (s.hw.inert = false → c.verifying = true → ucFetched s.hw = true → (ucRunner s.hw).isSome = true →
      Completes (.ucodeVerifyEnd true) s fun h => h.ucode.verifying = false ∧ h.ucode.floor = c.floor ∧
        (ucVerify s.hw = none → h.ucode.active = true ∧ h.ucode.refuse = 0 ∧
          h.ucode.svn.toNat = (ucHdr s.hw).toNat / 2 ^ 8 % 2 ^ 5 ∧
          h.ucode.version.toNat = (ucHdr s.hw).toNat / 2 ^ 16 % 2 ^ 16) ∧
        (ucVerify s.hw = none → h.ucode.stores = (List.range 16).map fun u => (u, h.ucode.body)) ∧
        (∀ code e, ucVerify s.hw = some (code, e) → h.ucode.refuse = BitVec.ofNat 4 code ∧ h.ucode.active = c.active ∧
          h.ucode.body = c.body ∧ h.ucode.stores = c.stores)) ∧
    (∀ u, s.hw.inert = false → c.verifying = true → ucFetched s.hw = true → c.refused = false → ucRunner s.hw = some u →
      Completes (.ucodeVerifyEnd false) s fun h => h.fenced (pkuUnit u) = true ∧ h.ucode.active = c.active ∧
        h.ucode.verifying = true) ∧
    (Masters s.hw p → (lcState s.hw = 2 ∨ lcState s.hw = 3) → c.active = true → c.floor.toNat < c.svn.toNat →
      s.hw.sec.fuse = [] → Completes (.raiseFloor p) s fun h =>
        h.sec.fuse = [(.floor, 19, some (16 + c.floor.toNat))] ∧ h.ucode = c) ∧
    (∀ u v, s.hw.inert = false → (s.hw.pku.find? fun e => e.2.work = some .identity && e.2.phase = .compute) = some (u, v) →
      s.hw.out (pkuUnit u) = false → s.hw.keys.root ≠ .none → Completes .identityReady s fun h =>
        (h.pkUnit u).phase = .burnish ∧
        h.keys.idReady = true ∧ h.keys.idEc = (identityPublic s.hw).1 ∧ h.keys.idMl = (identityPublic s.hw).2 ∧
        h.keys.root = s.hw.keys.root)

/-! ### Memory master ports (R25 to R27, R432 to R434, R352) -/

/-- Memory master ports (R25 to R27, R34, R125, R352, R432 to R434): the next piece of the one transfer at its port,
here of a load, as far as its 4 KiB page goes, is checked against the windows of its domain and issued at its port,
or ends the transfer WINDOW_FAULT; the acknowledgement of a SIGNAL's write completes it; the one beat of a load lands
in its range and completes the transfer; an answer that belongs to no transaction, and one that does not come in
time, fence the port. Where the rules leave a choice, it states the model's, of log entry 10. -/
def Obligations.MemoryPortsCarry : Prop :=
  (∀ (s : State) (c : BitVec 9) (t : BitVec 4) (j : Job) (port : BitVec 5) (tag : BitVec 7) (data : BitVec 256) (err : Bool)
    (x : Txn) (addr value r : Word),
    let key := jobKey c.toNat t.toNat
    let p := port.toNat
    let idle : Prop := s.hw.pku = [] ∧ s.hw.hns.forwards = [] ∧ s.hw.ucode.verifying = false ∧ s.hw.rings = []
    let bytes := ((leBytes 32 data.toNat).drop (x.addr % 32)).take x.want
    idle → s.hw.inert = false → mmUsable s.hw p = true →
    (Works s.hw c.toNat t.toNat j → s.hw.mm.txns = [x] → x.port = p → x.tag = tag → x.owner = .signal key →
      j.op = .signal addr value → x.write = true → Completes (.mmWriteAck port tag err) s fun h =>
        h.Done c.toNat t.toNat (if err then 0xA else 0x0) ∧ h.mm.txns = [] ∧
        (0 < x.beats → (h.mmp p).wrBeats = satInc (s.hw.mmp p).wrBeats x.beats)) ∧
    (Works s.hw c.toNat t.toNat j → s.hw.mm.txns = [x] → x.port = p → x.tag = tag → x.owner = .piece key 0 0 →
      x.write = false → x.beats = 1 → x.data = [] → x.bad = false → x.want = rgLen r → rgLen r ≤ 32 - x.addr % 32 →
      j.op = .xload addr r → j.phase = .running → j.pos = rgLen r → j.pieces = [⟨rgLen r, 1, false⟩] → j.stopped = false →
      rgScr r = false →
      Completes (.mmReadResponse port tag data true false) s fun h =>
        h.Done c.toNat t.toNat 0 ∧ ((h.ctx c.toNat).tk t.toNat).result = BitVec.ofNat 64 (rgLen r) ∧
        h.cs.bytes = hndPut s.hw.cs.bytes ((s.hw.ctx c.toNat).hnd (rgHnd r)) (rgOff r) bytes ∧ h.mm.txns = []) ∧
    (s.hw.mm.txns = [] → Completes (.mmReadResponse port tag data true err) s (fun h => h.fenced (mmUnit p) = true) ∧
      Completes (.mmWriteAck port tag err) s fun h => h.fenced (mmUnit p) = true) ∧
    (s.hw.mm.txns = [x] → x.port = p → x.owner = .orphan → Completes (.mmResponseTimeout port) s fun h =>
      h.fenced (mmUnit p) = true ∧ h.mm.txns = [] ∧
        h.clk.core = max s.hw.clk.core (x.issuedAt + max 1 (fld (s.hw.mmp p).cfg 0 16) * clkPerUs s.hw))) ∧
  (∀ (s : State) (c : BitVec 9) (t : BitVec 4) (j : Job) (addr r : Word) (p tag : Nat),
    let key := jobKey c.toNat t.toNat
    let x := s.hw.ctx c.toNat
    let a := addr.toNat + j.pos
    let n := min (rgLen r - j.pos) (4096 - a % 4096)
    Works s.hw c.toNat t.toNat j → j.op = .xload addr r → j.phase = .running → j.pos < rgLen r → j.stopped = false →
    a < 2 ^ 64 → (∀ q ∈ j.pieces, q.out = 0 ∧ q.bad = false) → x.scrubbing = none →
    (∀ attr, winCheck (s.hw.cfgOf c.toNat) x.domain a false = some attr → s.hw.jobs = [(key, j)] → j.port = some p →
      mmUsable s.hw p = true → mmTag s.hw p false = some tag → mmOut s.hw p false < 128 → n ≤ 512 - a % 512 →
      Completes (.xferPieceIssue c t []) s fun h =>
        (∃ q, h.job key = some { j with pos := j.pos + n, pieces := j.pieces ++ [q] } ∧ q.len = n ∧ q.bad = false) ∧
        ∃ u, h.mm.txns = s.hw.mm.txns ++ [u] ∧ u.port = p ∧ u.write = false ∧ u.addr = a ∧ u.want = n ∧ u.attr = attr ∧
          u.domain = BitVec.ofNat 12 x.domain) ∧
    (winCheck (s.hw.cfgOf c.toNat) x.domain a false = none →
      Completes (.xferPieceIssue c t []) s fun h => h.Done c.toNat t.toNat 0xA ∧
        ((h.ctx c.toNat).tk t.toNat).result = BitVec.ofNat 64 (j.pieces.foldl (fun m q => m + q.len) 0) ∧
        h.mm = s.hw.mm ∧ h.cs.bytes = s.hw.cs.bytes))

/-! ### Rings: doorbells and notifications (R45, R61, R435, R436) -/

/-- Doorbells and notifications (R45, R61, R435, R436): at the ring's port, with its reserved bits zero, KIND 0 sets
TAIL of a usable ring when COUNT lies within the ring of HEAD and of TAIL, KIND 1 sets CONSUMED up to COMMIT; at
another port it is dropped in DROP_PORT, and where another check fails in DROP_BAD; Seal and Held take and discard
it; while its port is not ready (in Cold, in a reset, clamped), or others are held back there, its sender holds it;
there are 96 ports. At the age limit of a ring with records not yet notified its notification enters its port's
queue, where one that waits takes the newest COMMIT; a port sends its oldest. Where the rules leave a choice, it
states the model's, of log entry 10. -/
def Obligations.DoorbellsAndNotifications : Prop :=
  (∀ (s : State) (port : Nat) (m : Word) (i : Instr), i = .submissionDoorbell port m ∨ i = .consumeDoorbell port m →
    let n := fld m 0 16
    let r := s.hw.ring n
    let c := s.hw.active
    let d := tget ({} : DbPort) s.hw.dbs port
    let count := m.extractLsb' 24 24
    let kind := fld m 16 2
    let clean : Prop := fld m 18 6 = 0 ∧ fld m 48 16 = 0
    let good : Prop := clean ∧ (kind = 0 ∧ ringUsable c n = true ∧ (count - r.head).toNat ≤ 2 ^ ringLog2 c n ∧
      (count - r.tail).toNat ≤ 2 ^ ringLog2 c n ∨ kind = 1 ∧ (count - r.consumed).toNat ≤ (r.commit - r.consumed).toNat)
    let becomes (v : Ring) : Prop := Completes i s fun h => h.ring n = v ∧ (∀ a, a ≠ n → h.ring a = s.hw.ring a) ∧
      tget {} h.dbs port = { d with cntIn := satInc d.cntIn } ∧ h.mm = s.hw.mm
    (96 ≤ port → exec i s = .fault .noSuchPort) ∧
    (port < 96 →
      ((s.hw.mc.mode = .cold ∨ s.hw.mc.por = true ∨ d.inReset = true ∨ clamped s.hw = true ∨ d.held ≠ []) →
        Completes i s fun h => tget {} h.dbs port = { d with held := d.held ++ [m] } ∧ h.rings = s.hw.rings ∧
          ∀ a, a ≠ port → tget {} h.dbs a = tget ({} : DbPort) s.hw.dbs a) ∧
      (s.hw.mc.mode ≠ .cold → s.hw.mc.por = false → d.inReset = false → clamped s.hw = false → d.held = [] →
        ((s.hw.mc.mode = .seal ∨ s.hw.mc.mode = .held) → exec i s = s.events id) ∧
        (s.hw.mc.mode ≠ .seal → s.hw.mc.mode ≠ .held →
        (ringPort c n = port → good → becomes (if kind = 0 then { r with tail := count } else { r with consumed := count })) ∧
        (ringPort c n ≠ port → becomes { r with dropPort := satInc r.dropPort }) ∧
        (ringPort c n = port → ¬good → becomes { r with dropBad := satInc r.dropBad }))))) ∧
  (∀ (s : State) (ring : BitVec 16) (port : Nat) (e : BitVec 16 × BitVec 24) (q : List (BitVec 16 × BitVec 24)),
    s.hw.inert = false →
    let n := ring.toNat
    let r := s.hw.ring n
    let p := ringPort s.hw.active n
    let time := fld (ringWord s.hw.active n 0x18) 16 16
    let out (h : Hw) (p : Nat) := (tget ({} : DbPort) h.dbs p).out
    (time ≠ 0 → r.unnotified ≠ 0 → p < 96 →
      (out s.hw p).length < 8 ∨ (out s.hw p).any (fun m => m.1 = ring) = true →
      Completes (.notifyTimer ring) s fun h =>
        h.ring n = { r with unnotified := 0, notifyNow := false, due := false } ∧
        out h p = (if (out s.hw p).any (fun m => m.1 = ring) then
            (out s.hw p).map fun m => if m.1 = ring then (ring, r.commit) else m
          else out s.hw p ++ [(ring, r.commit)]) ∧
        (∀ a, a ≠ p → out h a = out s.hw a) ∧ h.clk.core = max s.hw.clk.core (r.oldest + 1024 * time)) ∧
    (time = 0 ∨ r.unnotified = 0 → exec (.notifyTimer ring) s = s.to s.hw) ∧
    (port < 96 → (tget ({} : DbPort) s.hw.dbs port).inReset = false → out s.hw port = e :: q →
      (∀ v ∈ s.hw.rings, v.2.due = false) →
      Completes (.notificationSend port) s fun h => out h port = q ∧ h.rings = s.hw.rings ∧
        (tget {} h.dbs port).cntOut = satInc (tget ({} : DbPort) s.hw.dbs port).cntOut ∧
        ∀ a, a ≠ port → tget {} h.dbs a = tget ({} : DbPort) s.hw.dbs a) ∧
    (96 ≤ port → exec (.notificationSend port) s = .fault .noSuchPort))

/-! ### Rings: fetch, admission and records (R46 to R60) -/

/-- Fetch and check (R46, R47, R49): the entry at HEAD of an active ring with room is read in 64 B at its place in
the submission ring, or yields WINDOW_FAULT where no window covers it, and HEAD counts it; a descriptor that has
arrived waits for admission when it is well formed and yields DESCRIPTOR_INVALID when it is not. -/
def Obligations.DescriptorsAreFetchedAndChecked : Prop :=
  ∀ (s : State) (ring : BitVec 16) (p : Nat) (attr : BitVec 4) (f : Fetched) (l : List Fetched),
    s.hw.inert = false → s.hw.Settled →
    let n := ring.toNat
    let r := s.hw.ring n
    let c := s.hw.active
    let d := ringDomain c n
    let addr := fld (ringWord c n 8) 12 52 * 4096 + 64 * (r.head.toNat % 2 ^ ringLog2 c n)
    let b := f.desc
    let bad : Prop := fld (wordOf b 0) 61 3 ≠ 0 ∨ fld (wordOf b 0) 58 3 ≠ 0 ∨ fld (wordOf b 1) 59 5 ≠ 0 ∨
      0x10400 ≤ fld (wordOf b 0) 12 17 ∨ (bit (wordOf b 0) 56 = true ∧ fld (wordOf b 2) 27 37 ≠ 0)
    let refused (st : BitVec 8) (k : BitVec 24) (h : Hw) : Prop :=
      ∃ rec deadline, Joins s.hw h (.never ring k rec deadline none) ∧ rec.status = st ∧ rec.bytes = 0 ∧
        rec.epoch = s.hw.seam.epoch
    (admits s.hw = true → ringState s.hw n = 1 → r.head ≠ r.tail → (r.head - r.consumed).toNat < 2 ^ ringLog2 c n →
      fetchedCount s.hw n < 4 →
      (Reaches s.hw d addr false p attr → Completes (.descriptorFetch ring) s fun h =>
        h.ring n = { r with head := r.head + 1, open_ := r.open_ ++ [r.head], fetched := r.fetched ++ [{ k := r.head, st := .issued, desc := 0, t0 := 0, epoch := 0 }] } ∧
        ∃ u, h.mm.txns = s.hw.mm.txns ++ [u] ∧ u.port = p ∧ u.write = false ∧ u.addr = addr % 2 ^ 64 ∧ u.want = 64 ∧
          u.attr = attr ∧ u.owner = .fetch ring r.head) ∧
      (winCheck c d addr false = none → Completes (.descriptorFetch ring) s fun h =>
        h.ring n = { r with head := r.head + 1, open_ := r.open_ ++ [r.head] } ∧ refused 0xA r.head h ∧ h.mm = s.hw.mm)) ∧
    (r.head = r.tail ∨ 2 ^ ringLog2 c n ≤ (r.head - r.consumed).toNat ∨ 4 ≤ fetchedCount s.hw n ∨ ringState s.hw n ≠ 1 →
      exec (.descriptorFetch ring) s = s.to s.hw) ∧
    (r.fetched = f :: l → f.st = .held → ringState s.hw n = 1 → (∀ g ∈ l, g.k ≠ f.k) →
      (¬bad → Completes (.descriptorArrival ring) s fun h => h.ring n = { r with
        fetched := { f with st := .waiting, epoch := s.hw.seam.epoch } :: l }) ∧
      (bad → Completes (.descriptorArrival ring) s fun h => h.ring n = { r with fetched := l } ∧
        refused 0x18 f.k h ∧ ∃ rec deadline, Ready.never ring f.k rec deadline none ∈ h.rm.ready ∧
          rec.tag = (wordOf b 1).extractLsb' 0 32))

/-- Placement (R56): a request goes to a free context of a bench in which every engine of its mask serves, no such
bench with a free context having fewer busy contexts; it is refused when no bench has every engine of the mask, in
Pilot when bench 0 has not; from an idle block with nothing fenced the first is the lowest context of the bench after
the one chosen last. Where the rules leave a choice, it states the model's, of log entries 12 and 76. -/
def Obligations.RequestsArePlaced : Prop :=
  ∀ (h : Hw) (mask : BitVec 5) (c : Nat),
    (placeRequest h mask = .at c →
      c < 512 ∧ (h.ctx c).st = .free ∧ benchServes h mask (benchOf c) = true ∧ h.out (awlUnit (awlOf c)) = false ∧
      (h.mc.mode = .pilot → benchOf c = 0) ∧
      (h.mc.mode ≠ .pilot → ∀ b < 8, benchServes h mask b = true → awlsOf h b ≠ [] →
        benchBusy h (benchOf c) ≤ benchBusy h b) ∧
      (∀ a ∈ awlsOf h (benchOf c), awlBusy h (awlOf c) ≤ awlBusy h a) ∧
      (∀ i, 16 * awlOf c ≤ i → i < c → (h.ctx i).st ≠ .free)) ∧
    (h.mc.mode ≠ .pilot → (placeRequest h mask = .fenced ↔ ∀ b < 8, benchServes h mask b = false)) ∧
    (h.mc.mode = .pilot → (placeRequest h mask = .fenced ↔ benchServes h mask 0 = false)) ∧
    (h.mc.mode ≠ .pilot → h.ctxs = [] → h.flt = [] → (∀ b < 8, benchServes h mask b = true) →
      placeRequest h mask = .at (64 * ((h.rm.lastBench + 1) % 8)))

/-- Admission (R29, R53, R55, R56, R62, R69, R96): the one request that waits gets the context of its placement,
READY with every register, flag, ticket and handle clear, in the epoch and core clock of the admission, of which each
admits one request, before its deadline cycle; a program that the domain may not enter ends it ILLEGAL_PROGRAM; a
request whose engines are fenced on every bench yields ENGINE_FENCED and takes no context; one that finds no context
waits. Where the rules leave a choice, it states the model's, of log entry 44. -/
def Obligations.AdmissionGrantsAContext : Prop :=
  ∀ (s : State) (n c : Nat) (r : Ring) (f : Fetched),
    let cfg := s.hw.active
    let d := ringDomain cfg n
    let e := fld (wordOf f.desc 0) 0 12
    let now := max s.hw.clk.core s.hw.rm.admitAt
    let place := placeRequest s.hw (libMask cfg e)
    s.hw.inert = false → s.hw.Settled → admits s.hw = true → s.hw.rings = [(n, r)] → n < 65536 → r.fetched = [f] →
    f.st = .waiting → (bit (wordOf f.desc 0) 55 = false ∨ r.open_.head? = some f.k) → s.hw.hns.arrivals = [] →
    domFlag cfg d 5 = false → (∀ l, f.deadline = some l → now < l) →
    (place = .at c → Completes .admission s fun h =>
      h.rm.admitted = s.hw.rm.admitted + 1 ∧ h.rm.lastBench = benchOf c ∧
      h.ring n = { r with fetched := [], inFlight := r.inFlight + 1 } ∧ (∀ a, a ≠ c → h.ctx a = s.hw.ctx a) ∧
      (domEntryOk cfg d e = true → libValid cfg e = true → h.keys = s.hw.keys ∧ h.cs = s.hw.cs ∧ ∃ q : Request,
        h.ctx c = { st := .ready, req := some q, entry := BitVec.ofNat 12 e, dztrap := bit (libEntry cfg e).2 34 } ∧
        q.ring.toNat = n ∧ q.k = f.k ∧ q.desc = f.desc ∧ q.domain.toNat = d ∧ q.epoch = s.hw.seam.epoch ∧
        q.admittedAt = now ∧ q.deadline = f.deadline ∧ h.rm.admitAt = now + 1 ∧
        (q.pilot = true ↔ s.hw.mc.mode = .pilot) ∧ q.fromPeer = none) ∧
      (domEntryOk cfg d e = false ∨ libValid cfg e = false →
        (h.ctx c).withdrawn = some 0x17 ∧ Ready.context c ∈ h.rm.ready)) ∧
    (place = .fenced → Completes .admission s fun h => h.ring n = { r with fetched := [] } ∧ h.ctxs = s.hw.ctxs ∧
      ∃ rec deadline, Joins s.hw h (.never (BitVec.ofNat 16 n) f.k rec deadline none) ∧
        rec.status = 0x14 ∧ rec.bytes = 0 ∧ rec.tag = (wordOf f.desc 1).extractLsb' 0 32) ∧
    (place = .waits → exec .admission s = s.to s.hw)

/-- Records (R55, R57 to R61, R433): the record that became ready first commits in the ring's next slot, in one beat
of 32 B at its place in the completion ring, with the posted status, the request's tag and epoch and the phase of its
pass; its context enters QUIESCING. The acknowledgement counts it in COMMIT and notifies when COUNT is reached; a
refusal stops the ring, and the record is lost but counted. -/
def Obligations.RecordsAreWritten : Prop :=
  ∀ (s : State) (c n p : Nat) (attr : BitVec 4) (q : Request) (st : BitVec 8) (rest : List Ready) (ring : BitVec 16)
    (k : BitVec 24) (r : Ring) (w : CplWrite) (u : Txn),
    s.hw.inert = false → s.hw.Settled →
    let cfg := s.hw.active
    let x := s.hw.ctx c
    let slot := (s.hw.ring n).next
    let log2 := ringLog2 cfg n
    let addr := fld (ringWord cfg n 0x10) 12 52 * 4096 + 32 * (slot.toNat % 2 ^ log2)
    let port := ringPort cfg n
    let out (h : Hw) := (tget ({} : DbPort) h.dbs port).out
    let count := max 1 (fld (ringWord cfg n 0x18) 0 8)
    let told : Prop := count ≤ r.unnotified + 1 ∨ r.notifyNow = true ∨ w.record.notifyNow = true ∨ r.due = true
    (s.hw.rm.ready = .context c :: rest → x.req = some q → q.fromPeer = none → q.ring.toNat = n → x.committed = false →
      x.noRecord = false → x.withdrawn = none → q.deadline = none → x.lostData = false → x.mismatch = false →
      x.posted = some st → (s.hw.ring n).stopped = false →
      (∀ w ∈ (s.hw.ring n).writes, w.issued = true ∨ w.done = true) → Reaches s.hw (ringDomain cfg n) addr true p attr →
      Completes .recordCommit s fun h =>
        h.ctx c = { x with committed := true, st := .quiescing, hold := .none } ∧ h.rm.ready = rest ∧
        (h.ring n).next = slot + 1 ∧ ∃ u rec, h.mm.txns = s.hw.mm.txns ++ [u] ∧ u.port = p ∧ u.write = true ∧
          u.addr = addr % 2 ^ 64 ∧ u.beats = 1 ∧ u.attr = attr ∧ u.owner = .record (BitVec.ofNat 16 n) slot ∧
          u.data = recordBytes rec slot log2 ∧ u.data.length = 32 ∧
          (u.data.getD 31 0).msb = !slot.getLsbD log2 ∧ u.data.getD 0 0 = st ∧ rec.epoch = q.epoch ∧
          rec.tag = (wordOf q.desc 1).extractLsb' 0 32 ∧ rec.bytes = x.bytes ∧ rec.attempts = x.attempts) ∧
    (ring.toNat = n → s.hw.rings = [(n, r)] → r.writes = [w] → w.k = k → w.issued = true → w.done = false →
      s.hw.mm.txns = [u] → u.owner = .record ring k → u.write = true →
      Completes (.recordWriteAck ring k) s (fun h => h.mm.txns = [] ∧ (h.ring n).commit = r.commit + 1 ∧
        (h.ring n).writes = [] ∧ (h.ring n).stopped = r.stopped ∧ (h.ring n).lostCpl = r.lostCpl ∧
        (¬told → (h.ring n).unnotified = r.unnotified + 1 ∧ h.dbs = s.hw.dbs) ∧
        (told → port < 96 → (out s.hw).length < 8 → (∀ m ∈ out s.hw, m.1 ≠ ring) →
          (h.ring n).unnotified = 0 ∧ out h = out s.hw ++ [(ring, r.commit + 1)])) ∧
      (r.stopped = false → r.fetched = [] → Completes (.recordWriteFail ring k) s fun h =>
        h.mm.txns = [] ∧ (h.ring n).stopped = true ∧ (h.ring n).commit = r.commit + 1 ∧ (h.ring n).writes = [] ∧
        (h.ring n).lostCpl = satInc r.lostCpl ∧ (h.ring n).tail = r.tail ∧
        ((h.blk 0x85).hist.head?).map (fun e => e.event) = some 4))

/-- The end of requests (R38, R41, R60, R63 to R65, R73): at the end of its deadline cycle a running request is
withdrawn TIMEOUT, and a descriptor that still waits yields TIMEOUT; a context whose request has ended and whose
engine work is over is clear and FREE, its buffers with the zeroer; RESET clears a ring that is not enabled and has
nothing in flight, RESTART lifts STOPPED; either is refused in an event otherwise. Where the rules leave a choice, it
states the model's, of log entry 10. -/
def Obligations.RequestsEnd : Prop :=
  ∀ (s : State) (c : BitVec 9) (q : Request) (d : Nat) (ring : BitVec 16) (f : Fetched) (port : CtlPort),
    let x := s.hw.ctx c.toNat
    let n := ring.toNat
    let r := s.hw.ring n
    let quiet : Prop := ringEn s.hw.active n = false ∧ r.inFlight = 0 ∧ r.open_ = [] ∧ r.writes = []
    (s.hw.inert = false → x.req = some q → q.deadline = some d → q.fromPeer = none → x.committed = false → x.withdrawn = none →
      x.noRecord = false → s.hw.rm.ready = [] → s.hw.keys.updates = [] →
      Completes (.deadlineTimeout (.context c)) s fun h => (h.ctx c.toNat).withdrawn = some 0xB ∧
        (h.ctx c.toNat).st = .quiescing ∧ h.clk.core = max s.hw.clk.core d ∧ mayIssue h c.toNat = false) ∧
    (s.hw.inert = false → s.hw.Settled → r.fetched = [f] → f.st = .waiting → f.deadline = some d →
      Completes (.deadlineTimeout (.waiting ring f.k)) s fun h => (h.ring n).fetched = [] ∧
        h.clk.core = max s.hw.clk.core d ∧ ∃ rec deadline,
        Joins s.hw h (.never ring f.k rec deadline none) ∧ rec.status = 0xB ∧ rec.epoch = f.epoch) ∧
    (s.hw.inert = false → x.req.isSome = true → (x.committed = true ∨ x.noRecord = true) → ctxBusy s.hw c.toNat = false →
      Completes (.contextQuiesced c) s fun h => h.ctx c.toNat = {} ∧
        (∀ k, ∀ b ∈ (x.hnd k).bufs, b ∈ h.cs.zeroQ) ∧ h.keys.slots = s.hw.keys.slots) ∧
    (Masters s.hw port →
      (quiet → exec (.ringReset port ring false) s = s.writes fun h => { h with rings := tdel n h.rings }) ∧
      (¬quiet → exec (.ringReset port ring false) s = s.writes fun h => note h 0x85 5 ring) ∧
      exec (.ringReset port ring true) s = s.writes (fun h => note h 0x85 5 ring) ∧
      (r.stopped = true → Completes (.ringRestart port ring) s fun h => h.ring n = { r with
        stopped := false, lostCpl := 0, dropBad := 0, dropPort := 0 }) ∧
      (r.stopped = false → exec (.ringRestart port ring) s = s.writes fun h => note h 0x85 5 ring))

/-! ### Trap queue, cinch and seam (R90 to R93, R300, R301, R306 to R320) -/

/-- Emulation (R88, R90 to R93): a claim takes the oldest record, of both ports the one that did not win the last tie
first; RETRY leaves the context as it trapped, ADVANCE counts the trapping iteration done, FINISH every remaining
one, each making it READY with TRAPPED in its record; a divide that trapped has retired already; ABORT, and the trap
deadline, end the request TRAP_UNHANDLED. Where the rules leave a choice, it states the model's, of log entry 10. -/
def Obligations.TrapRecordsAreResolved : Prop :=
  ∀ (s : State) (p : CtlPort) (r v : TrapRecord) (q : List TrapRecord) (k : TrapRecord) (pc : Word) (c : BitVec 9),
    let x := s.hw.ctx k.ctx
    let first := otherPort s.hw.trapq.lastTie
    let done (n : Nat) : Nat := x.retired + if k.cls = 3 then n - 1 else n
    let left : Nat := match x.rep with | some r => r.remain.toNat | none => 1
    let resumes (i : Instr) (y : Ctx) : Prop := exec i s = s.writes fun h =>
      (h.setClaim p none).setCtx k.ctx { y with st := .ready, hold := .none, emulated := true }
    let wanted (x : Ctx) : Prop := x.req.isSome = true ∧ x.committed = false ∧ x.withdrawn = none ∧ x.noRecord = false
    (Serves s.hw p → s.hw.claim p = none → s.hw.trapq.queue = r :: q →
      Completes (.trapqClaim p false) s fun h => h.trapq.queue = q ∧ h.claim p = some r ∧
        h.claim (otherPort p) = s.hw.claim (otherPort p) ∧ h.trapq.expired = s.hw.trapq.expired) ∧
    (Serves s.hw .ctla → Serves s.hw .ctlb → s.hw.trapq.claimA = none → s.hw.trapq.claimB = none →
      s.hw.trapq.queue = r :: v :: q → Completes (.trapqClaim p true) s fun h => h.trapq.queue = q ∧
        h.claim first = some r ∧ h.claim (otherPort first) = some v ∧
        h.trapq.lastTie = first) ∧
    (Serves s.hw p → s.hw.claim p = some k →
      resumes (.retry p) x ∧
      resumes (.advance p) (match k.nextPc with
        | some v => { x.past k.lcWritten with retired := done 1, rep := none, pc := v }
        | none => { x.past k.lcWritten with retired := done 1 }) ∧
      resumes (.finish p) { x with
        retired := done left, rep := none, pc := match k.nextPc with | some v => v | none => x.pc + 4 } ∧
      exec (.trapqPcWrite p pc) s = s.writes (fun h => h.setClaim p (some { k with nextPc := some (pc &&& ~~~3#64) })) ∧
      (wanted x → Completes (.abort p) s fun h => h.claim p = none ∧ (h.ctx k.ctx).withdrawn = some 0x16 ∧
        mayIssue h k.ctx = false)) ∧
    (Serves s.hw p → s.hw.claim p = none → ∀ i, i = .retry p ∨ i = .advance p ∨ i = .finish p ∨ i = .abort p ∨
      i = .trapqPcWrite p pc → exec i s = s.writes (fun h => h)) ∧
    (s.hw.inert = false → s.hw.trapq.queue = [r] → s.hw.trapq.claimA = none → s.hw.trapq.claimB = none → r.ctx = c.toNat →
      wanted (s.hw.ctx c.toNat) → Completes (.trapDeadlineExpiry c) s fun h => h.trapq.queue = [] ∧
        h.trapq.expired = satInc s.hw.trapq.expired ∧ h.clk.core = max s.hw.clk.core r.deadline ∧
        (h.ctx c.toNat).withdrawn = some 0x16)

/-- The cinch (R97, R308 to R311): a ticket read that finds it free acquires it with a new generation and a full
lease, of two reads in one core clock the port that did not win the last tie; only its holder notes, renews and
releases; a lease that ends breaks it, and edits not yet made by a seam are discarded. Where the rules leave a
choice, it states the model's, of log entry 10. -/
def Obligations.TheCinchChangesHands : Prop :=
  ∀ (s : State) (p : CtlPort) (note : BitVec 16),
    let k := s.hw.cinch
    let first := otherPort k.lastTie
    let ms := max 1 (min 10000 (fld k.lease 0 14))
    let full := s.hw.clk.aon + 1 + (ms * 32768 + 999) / 1000
    let becomes (i : Instr) (v : Cinch) : Prop := exec i s = s.writes fun h => { h with cinch := v }
    (Serves s.hw p → k.owner = none →
      becomes (.cinchTicketRead p false) { k with owner := some p, gen := k.gen + 1, note := 0, leaseEnd := full }) ∧
    (Serves s.hw p → k.owner.isSome = true → becomes (.cinchTicketRead p false) k) ∧
    (Serves s.hw .ctla → Serves s.hw .ctlb → k.owner = none → becomes (.cinchTicketRead p true) { k with
      owner := some first, gen := k.gen + 1, note := 0, leaseEnd := full, lastTie := first }) ∧
    (Masters s.hw p → becomes (.noteWr p note) { k with note := note } ∧
      becomes (.renew p) { k with leaseEnd := full } ∧
      Completes (.release p) s fun h => h.cinch = { k with owner := none } ∧ h.awlLoad = false ∧ h.seam = s.hw.seam) ∧
    (s.hw.inert = false → k.owner = some p → Completes .cinchLeaseExpiry s fun h =>
      h.cinch = { k with
        owner := none, broken := true, cause := 1, discarded := decide (s.hw.seam.st = .ready) && s.hw.seam.dirty } ∧
      h.awlLoad = false ∧ h.clk.aon = max s.hw.clk.aon k.leaseEnd ∧
      h.seam.st = (if s.hw.seam.st = .ready ∧ s.hw.seam.dirty = true then .copying else s.hw.seam.st) ∧
      h.active = s.hw.active)

/-- Writes without the cinch (R307): at a port that does not hold it each write that needs it is counted in the
port's DENIED and has no other effect but its event. -/
def Obligations.WritesNeedTheCinch : Prop :=
  ∀ (s : State) (p : CtlPort) (i : Instr), Serves s.hw p → s.hw.cinch.owner ≠ some p →
    (∃ n, i = .noteWr p n) ∨ i = .renew p ∨ i = .release p ∨ (∃ b, i = .go p b) ∨ i = .discard p ∨ (∃ b, i = .maint p b) ∨
      (∃ b, i = .resume p b) ∨ (∃ b, i = .ftest p b) ∨ (∃ b, i = .seal p b) ∨ (∃ n b, i = .ringReset p n b) ∨ (∃ n, i = .ringRestart p n) ∨
      i = .load p ∨ i = .raiseFloor p ∨ i = .clear p ∨ (∃ n, i = .dgbClearEntry p n) ∨ i = .dgbClearAll p ∨ i = .warm p ∨
      (∃ u, i = .unitRst p u) →
    Completes i s fun h =>
      h.cinch = (match p with
        | .ctla => { s.hw.cinch with deniedA := satInc s.hw.cinch.deniedA }
        | .ctlb => { s.hw.cinch with deniedB := satInc s.hw.cinch.deniedB }) ∧
      h.seam = s.hw.seam ∧ h.active = s.hw.active ∧ h.shadow = s.hw.shadow ∧ h.mc = s.hw.mc ∧ h.rings = s.hw.rings ∧
      h.board = s.hw.board ∧ h.pkb = s.hw.pkb ∧ h.ucode = s.hw.ucode ∧ h.kp = s.hw.kp ∧ h.mm = s.hw.mm ∧
      h.cen = s.hw.cen ∧ h.hns = s.hw.hns ∧ ∀ u, h.fenced u = s.hw.fenced u

/-- The seam (R313 to R319): the cinch's holder writes the shadow set, bit by bit where a register is writable; GO
swaps the sets under the next epoch when its checks pass and says why it does not; DISCARD reverts; the old set
drains, is copied, and 81,984 core clocks after the copy began both sets are equal. -/
def Obligations.SeamsSwapTheSets : Prop :=
  ∀ (s : State) (p : CtlPort) (off : BitVec 24) (value : Word),
    let m := shadowMask off.toNat
    let sm := s.hw.seam
    let goes (discard : Bool) (r : BitVec 4) : Prop := Completes (.go p discard) s fun h =>
      h.seam = { sm with result := r, cmdGen := s.hw.cinch.gen } ∧ h.active = s.hw.active ∧ h.shadow = s.hw.shadow ∧
        h.kp = s.hw.kp
    (Masters s.hw p →
      (off.toNat % 8 = 0 → m ≠ 0 → sm.st = .ready → Completes (.shadowWrite p off value) s fun h =>
        (∀ b < 64, (cfgWord h.shadow off.toNat).getLsbD b =
          if m.getLsbD b then value.getLsbD b else (cfgWord s.hw.shadow off.toNat).getLsbD b) ∧
        (∀ o, o / 8 ≠ off.toNat / 8 → cfgWord h.shadow o = cfgWord s.hw.shadow o) ∧
        h.seam = { sm with dirty := true } ∧ h.active = s.hw.active) ∧
      (off.toNat % 8 = 0 → m ≠ 0 → sm.st ≠ .ready → Completes (.shadowWrite p off value) s fun h =>
        h.shadow = s.hw.shadow ∧ h.seam = { sm with editLost := true }) ∧
      (off.toNat % 8 ≠ 0 → exec (.shadowWrite p off value) s = s.writes fun h =>
        note h (ctlUnit p) 1 (BitVec.ofNat 16 off.toNat)) ∧
      (off.toNat % 8 = 0 → m = 0 → exec (.shadowWrite p off value) s = s.writes fun h => h) ∧
      goes true 7 ∧
      (s.hw.mc.mode = .seal → goes false 5) ∧
      (s.hw.mc.mode ≠ .seal → sm.st ≠ .ready ∨ xlibRuns s.hw = true → goes false 2) ∧
      (s.hw.mc.mode ≠ .seal → sm.st = .ready → xlibRuns s.hw = false → s.hw.hns.mirror ≠ .mirrored →
        (8192 - retiredCount s.hw < reserveSum s.hw.shadow → goes false 3) ∧
        (reserveSum s.hw.shadow ≤ 8192 - retiredCount s.hw →
          (geometryKept s.hw = false → goes false 4) ∧
          (geometryKept s.hw = true → Completes (.go p false) s fun h =>
            h.active = s.hw.shadow ∧ h.shadow = s.hw.active ∧ h.seam = { sm with
              st := .draining, oldEpoch := sm.epoch, epoch := sm.epoch + 1, seamAt := s.hw.clk.core, result := 1
              cmdGen := s.hw.cinch.gen } ∧ h.kp.cfgDurable = false ∧
            h.setOf sm.epoch = s.hw.active))) ∧
      Completes (.discard p) s fun h => h.active = s.hw.active ∧ h.shadow = s.hw.shadow ∧
        h.seam = (if sm.st ≠ .ready ∨ xlibRuns s.hw = true then { sm with result := 2, cmdGen := s.hw.cinch.gen }
          else { sm with
            result := 6, cmdGen := s.hw.cinch.gen, st := if sm.dirty then .copying else .ready
            copyAt := if sm.dirty then s.hw.clk.core else sm.copyAt })) ∧
    (s.hw.inert = false →
      (sm.st = .draining → oldInFlight s.hw = 0 → Completes .seamDrainEnd s fun h => h.seam.st = .copying ∧
        h.seam.lastDrain.toNat = min (2 ^ 32 - 1) ((s.hw.clk.core - sm.seamAt) / 64) ∧ h.seam.epoch = sm.epoch) ∧
      (sm.st = .copying → Completes .seamCopyEnd s fun h =>
        h.clk.core = max s.hw.clk.core (sm.copyAt + 81984) ∧ h.shadow = s.hw.active ∧ h.active = s.hw.active ∧
        h.seam = { sm with st := .ready, dirty := false, oldEpoch := sm.epoch }))

/-- The configuration in the keeper (R291, R300, R301): once the image of the set that is being written is
acknowledged, its bank holds it from the header on, every byte beside the bank and the outstanding writes stands, and
with nothing else before it the pointer write is issued, with the next SEQ, the set's epoch and the image's digest;
the acknowledged pointer makes that bank the current one. Where the rules leave a choice, it states the model's, of
log entries 20 and 121. -/
def Obligations.ConfigurationBecomesDurable : Prop :=
  ∀ (s : State) (b : Bool), s.hw.inert = false → kpLive s.hw = true → s.hw.kp.imageTo = some b →
    let k := s.hw.kp
    let image := imageBytes k.imageSet k.imageEpoch
    let pointer := pointerBlock (seqNext (pointerSeq s.hw (!b))) k.imageEpoch image
    (k.imagePtr = false → s.hw.mc.mode ≠ .seal → Completes .configImageAck s fun h =>
      mread h.kp.bytes (bankAddr b) image.length = image ∧ h.kp.bank = k.bank ∧ h.kp.durableEpoch = k.durableEpoch ∧
      h.kp.imageTo = some b ∧ h.active = s.hw.active ∧
      (∀ a, a < bankAddr b ∨ bankAddr b + image.length ≤ a →
        (∀ w ∈ k.out, a < w.addr ∨ w.addr + w.data.length ≤ a) → mget h.kp.bytes a = mget k.bytes a) ∧
      (k.out = [] → k.waiting = [] → k.formatting = false → h.kp.imagePtr = true ∧ ∃ w, h.kp.out = [w] ∧ w.why = .pointer ∧
        w.addr = ptrAddr b ∧ w.data = pointer)) ∧
    (∀ w, k.imagePtr = true → k.imageNext = false → k.out.find? (fun w => w.why = .pointer) = some w →
      s.hw.ward.warmPending = false → w.addr = ptrAddr b → w.data = pointer → Completes .configPointerAck s fun h =>
      h.kp.bank = b ∧ h.kp.durableEpoch = k.imageEpoch ∧ (h.kp.cfgDurable = true ↔ k.imageEpoch = s.hw.seam.epoch) ∧
      h.kp.imageTo = none ∧ pointerSeq h b = seqNext (pointerSeq s.hw (!b)) ∧ pointerEpoch h b = k.imageEpoch ∧
      pointerSeq h (!b) = pointerSeq s.hw (!b) ∧ h.active = s.hw.active)

/-! ### Modes, bring-up, keeper and patrol (R244, R252, R282 to R287, R289 to R305, R322 to R336, R397, R449) -/

/-- Modes (R322 to R326, R332 to R336): MAINT drains Full or Degraded, at its limit every request in flight is
withdrawn ABORTED, and with every context FREE Maintenance begins; RESUME and FTEST leave it; Seal is entered by
command from every mode in service and by a warning from Cold too, every request ending without a record; Seal is
reached, or late; a warning before the release or in Retention is kept, and PFW follows its end. Where the rules
leave a choice, it states the model's, of log entry 10. -/
def Obligations.ModesChange : Prop :=
  ∀ (s : State) (p : CtlPort),
    let m := s.hw.mc
    let us := clkPerUs s.hw
    let serves : Prop := m.mode = .pilot ∨ m.mode = .full ∨ m.mode = .degraded ∨ m.mode = .maint ∨ m.mode = .ftest
    let refuses (i : Instr) : Prop := exec i s = s.writes fun h => note h 0x8B 6
    let ended (h : Hw) : Prop := ∀ c, (s.hw.ctx c).req.isSome = true →
      (s.hw.ctx c).committed = true ∨ (h.ctx c).noRecord = true
    let seals (i : Instr) (src : BitVec 2) : Prop := Completes i s fun h =>
      h.mc.mode = .seal ∧ h.mc.sealSrc = src ∧ h.mc.sealed = false ∧ h.mc.sealAt = s.hw.clk.core ∧
        h.mc.draining = false ∧ h.sec.power = .run ∧ ended h
    (Masters s.hw p →
      (m.mode = .full ∨ m.mode = .degraded → m.draining = false → exec (.maint p true) s = s.writes fun h => { h with
        mc := { m with draining := true, drainAt := s.hw.clk.core } }) ∧
      (m.mode ≠ .full → m.mode ≠ .degraded → refuses (.maint p true)) ∧
      refuses (.maint p false) ∧ refuses (.resume p false) ∧ refuses (.ftest p false) ∧ refuses (.seal p false) ∧
      (m.mode = .maint → s.hw.ucode.verifying = false →
        Completes (.resume p true) s fun h => h.mc.mode = (if s.hw.fencedCount = 0 then .full else .degraded) ∧
          h.rings = s.hw.rings ∧ h.active = s.hw.active) ∧
      (m.mode ≠ .maint ∨ s.hw.ucode.verifying = true → refuses (.resume p true)) ∧
      (m.mode = .maint → lcState s.hw ≤ 1 → Completes (.ftest p true) s fun h => h.mc.mode = .ftest) ∧
      (m.mode ≠ .maint ∨ 1 < lcState s.hw → refuses (.ftest p true)) ∧
      (serves → seals (.seal p true) 2) ∧ (¬serves → refuses (.seal p true))) ∧
    (s.hw.inert = false →
      (m.draining = true → (∀ e ∈ s.hw.ctxs, e.2.st = .free) → Completes .maintDrainEnd s fun h =>
        h.mc.mode = .maint ∧ h.mc.draining = false ∧ h.rings = s.hw.rings) ∧
      (m.draining = true → Completes .maintDrainLimit s fun h =>
        h.clk.core = max s.hw.clk.core (m.drainAt + 1000 * max 1 (fld m.cfg 0 16) * us) ∧
        ∀ c, (s.hw.ctx c).req.isSome = true → (s.hw.ctx c).committed = false → (s.hw.ctx c).withdrawn = none →
          (s.hw.ctx c).noRecord = false → (h.ctx c).withdrawn = some 0xC) ∧
      (serves ∨ m.mode = .cold → seals .powerFailWarning 1) ∧
      (m.mode = .seal → s.hw.Settled →
        exec .powerFailWarning s = s.to { s.hw with mc := { m with pfw := true } }) ∧
      (m.mode = .seal → m.sealed = false →
        ((∀ w ∈ s.hw.kp.waiting ++ s.hw.kp.out, sealWaits w = false) →
          (∀ u ∈ s.hw.keys.updates, u.stage ≠ .writing ∧ u.stage ≠ .durable) → Completes .sealReached s fun h =>
            h.mc.sealed = true ∧ h.sec.sealAck = true ∧ h.mc.mode = .seal ∧
            h.mc.lastClk.toNat = min (2 ^ 32 - 1) (s.hw.clk.core - m.sealAt)) ∧
        (m.sealLate = false → Completes .sealTimeout s fun h => h.mc = { m with sealLate := true } ∧
          h.clk.core = max s.hw.clk.core (m.sealAt + 30 * us)))) ∧
    (m.mode = .held → exec .powerFailWarning s = s.events id) ∧
    (m.mode ≠ .held → m.por = true ∨ s.hw.sec.power = .off ∨ s.hw.sec.power = .retention →
      exec .powerFailWarning s = s.events fun h => { h with mc := { m with pfw := true } }) ∧
    exec .powerFailWarningClear s = s.to { s.hw with mc := { m with pfw := false } }

/-- Bring-up (R275, R301, R303, R304, R320, R322, R327 to R329, R353, R382, R449): a power-on reset puts everything
but the keeper's durable bytes at reset; its release samples the tie-offs and the kill line; the fuses give life
cycle, TGEN and floor; the keeper is read unit by unit, an error fencing its port; the image whose digest is right
becomes active, the current one before the other, or none does; Pilot is entered once everything of step 9 is met,
and ends in Full, or in Degraded while a fence stands. Where the rules leave a choice, it states the model's, of log
entries 3, 10, 20 and 87. -/
def Obligations.BringUpReachesService : Prop :=
  ∀ (s : State) (block : BitVec 3) (idcode : BitVec 32) (words : List Word) (tag : BitVec 6) (cur oth : Bool),
    let m := s.hw.mc
    let b := m.bring
    let k := s.hw.kp
    let w (i : Nat) : Word := words.getD i 0
    let other := !k.bank
    let current : Prop := cur = true ∧ bankWhole s.hw k.bank = true
    let second : Prop := pointerSeq s.hw other ≠ 0 ∧ oth = true ∧ bankWhole s.hw other = true
    let activates (v : Bool) : Prop := Completes (.configImageRead cur oth) s fun h =>
      h.active = imageHolds (bankImage s.hw v) ∧ h.seam.epoch.toNat = leAt (bankImage s.hw v) 0 2 ∧
        h.seam.st = .copying ∧ h.mc.bring.phase = .tackDir ∧ h.kp.durableEpoch = pointerEpoch s.hw v ∧ h.kp.bank = k.bank ∧
        h.kp.cfgLost = k.cfgLost ∧ h.kp.cfgFallback = (k.cfgFallback || v != k.bank)
    Completes .porAssert s (fun h => h.mc = { pfw := m.pfw } ∧ h.ctxs = [] ∧ h.jobs = [] ∧ h.rings = [] ∧ h.keys = {} ∧ h.cs = {} ∧
      h.cinch = {} ∧ h.seam = {} ∧ h.flt = [] ∧ h.recd = {} ∧ h.cen = {} ∧ h.sec = {} ∧ h.active = CfgSet.reset ∧
      h.shadow = CfgSet.reset ∧ h.kp.formatted = false ∧
      ∀ a, (∀ w ∈ k.out, a < w.addr ∨ w.addr + w.data.length ≤ a) → mget h.kp.bytes a = mget k.bytes a) ∧
    (m.por = true → s.hw.sec.power = .run →
      (m.pfw = true → m.mode = .cold → Completes (.porRelease block idcode false) s fun h =>
        h.mc.por = false ∧ h.mc.mode = .seal ∧ h.mc.sealSrc = 1 ∧ h.hns.block = block) ∧
      (m.pfw = false → Completes (.porRelease block idcode false) s fun h => h.mc.por = false ∧ h.mc.mode = m.mode ∧
        h.mc.bring.phase = .fuses ∧ h.mc.bring.startedAt = s.hw.clk.core ∧ h.hns.block = block ∧ h.hns.idcode = idcode ∧
        h.keys.kill = s.hw.keys.kill) ∧
      (s.hw.keys.kill = false → Completes (.porRelease block idcode true) s fun h =>
        h.mc.mode = .held ∧ h.keys.kill = true ∧ h.keys.slots = [] ∧ h.keys.root = .none)) ∧
    (s.hw.inert = false → b.phase = .fuses →
      Completes (.fuseReadDone words true) s (fun h => h.mc.bring.phase = .head ∧
        h.keys.tgen = BitVec.ofNat 6 (((List.range 63).filter fun i => (w 18).getLsbD i).length) ∧
        (∀ i < 5, h.sec.lcBits.getLsbD i = ((w 19).getLsbD (2 * i) || (w 19).getLsbD (2 * i + 1))) ∧
        h.ucode.floor = BitVec.ofNat 5 (((List.range 31).filter fun i => (w 19).getLsbD (16 + i)).length) ∧
        h.sec.calFuse0 = w 20 ∧ h.sec.calFuse1 = w 21 ∧ h.sec.entStartup = true ∧
        (h.keys.root = .none ∧ h.keys.rootKey = [] ∨ h.keys.root = rootCode h ∧ h.keys.rootKey.length = 32)) ∧
      Completes (.fuseReadDone words false) s fun h => h.mc.mode = .held ∧ h.ward.lockstepOk = false) ∧
    (s.hw.inert = false → s.hw.fenced 0x82 = false → k.inReset = false → k.reads = [] →
      (bringReads s.hw = true → b.phase = .counters → b.unit + 1 < 4096 →
        Completes (.keeperReadResponse tag false) s fun h => h.mc.bring = { b with unit := b.unit + 1 } ∧
          h.kp = { k with pilotBytes := satInc k.pilotBytes 64 }) ∧
      (bringReads s.hw = true ∨ m.mode ≠ .seal → Completes (.keeperReadResponse tag true) s fun h =>
        h.fenced 0x82 = true)) ∧
    (s.hw.inert = false → b.phase = .imageHash →
      (current → activates k.bank) ∧ (¬current → second → activates other) ∧
      (¬current → ¬second → Completes (.configImageRead cur oth) s fun h => h.kp.cfgLost = true ∧ h.active = s.hw.active ∧
        h.kp.cfgFallback = (k.cfgFallback || pointerSeq s.hw other != 0) ∧ h.mc.bring.phase = .tackDir)) ∧
    (s.hw.inert = false → m.mode = .cold → b.fusesDone = true → b.entropyDone = true → b.pilotSetDone = true →
      b.tackWrites = [] → Completes .pilotEntry s fun h => h.mc.mode = .pilot ∧
        h.mc.pilotUs.toNat = min (2 ^ 32 - 1) ((s.hw.clk.core - b.startedAt) / clkPerUs s.hw) ∧
        h.clk.cycles = (if b.warm then s.hw.clk.cycles else s.hw.clk.cycles + 1) ∧
        ∀ q < 8, (h.pair q).seeded = !s.hw.fenced 0x84) ∧
    (s.hw.inert = false → m.mode = .cold → b.fusesDone = false ∨ b.entropyDone = false ∨ b.pilotSetDone = false →
      exec .pilotEntry s = s.events id) ∧
    (s.hw.inert = false → m.mode = .pilot → b.fullSetDone = true → Completes .pilotEnd s fun h =>
      h.mc.mode = (if s.hw.fencedCount = 0 then .full else .degraded) ∧
        h.clk.core = max s.hw.clk.core (max b.fullAt b.pilotAt + 20 * clkPerUs s.hw))

/-- The restore of one record (R252, R275, R294): a record under another TGEN or root is passed over and counted; an
empty one leaves its slot EMPTY; one that opens under its tag fills its slot with the key and the attributes of its
clear part; one that does not is counted in FAIL_TAG. Where the rules leave a choice, it states the model's, of log
entry 40. -/
def Obligations.RecordsAreRestored : Prop :=
  ∀ (s : State) (slot : BitVec 17) (q : List Nat) (key : Bytes),
    let n := slot.toNat
    let b := s.hw.mc.bring
    let bytes := mread s.hw.kp.bytes (recordAddr s.hw n) (64 + slotSize n)
    let hdr := wordAt bytes 0
    let v := slotOfWords (wordAt bytes 3) (wordAt bytes 4)
    let here : Prop := fld hdr 17 6 = s.hw.keys.tgen.toNat ∧ fld hdr 23 2 = s.hw.keys.root.num
    let counts (h : Hw) : Prop := h.keys.restored = s.hw.keys.restored ∧ h.mc.bring.queue = q
    s.hw.inert = false → s.hw.Settled → b.phase = .bodies → b.queue = n :: q → (∀ m ∈ q, n < m) → q ≠ [] →
    recordUnits n ≤ b.unit → restores s.hw = true → s.hw.mc.mode = .pilot →
    (¬here → Completes (.restoreRecord slot) s fun h => h.keys.skipOld = satInc s.hw.keys.skipOld ∧
      h.keys.failTag = s.hw.keys.failTag ∧ counts h ∧ slotPending h n = false) ∧
    (here → bit hdr 25 = true → Completes (.restoreRecord slot) s fun h => h.keys.skipOld = s.hw.keys.skipOld ∧
      h.keys.failTag = s.hw.keys.failTag ∧ counts h ∧ slotPending h n = false) ∧
    (here → bit hdr 25 = false → tget 0 s.hw.keys.floors v.domain.toNat ≤ wordAt bytes 2 → bit hdr 26 = false →
      (recordFormed n bytes = true → recordOpen s.hw n bytes = some key → slotCounted v = false →
        Completes (.restoreRecord slot) s fun h =>
          h.slot n = { v with key := key, updCounter := wordAt bytes 2 } ∧ slotPending h n = false ∧
          h.keys.restored = satInc s.hw.keys.restored ∧ h.mc.bring.queue = q) ∧
      (recordFormed n bytes = false ∨ recordOpen s.hw n bytes = none → Completes (.restoreRecord slot) s fun h =>
        h.keys.failTag = satInc s.hw.keys.failTag ∧ h.keys.slots = s.hw.keys.slots ∧ counts h))

/-- The keeper and the entropy source (R150, R151, R244, R273, R289, R292, R298, R304, R305, R397, R437): an
acknowledged write is durable and counted; a lease's makes it the slot's; a refusal, an answer to nothing and a
missing answer fence the port; a charge that waits too long fails NONCE_WAIT; FORMAT writes zeros, 24 at a time, and
leaves the anchor and zeros; start-up tests and reseeds seed the DRBG with 384 bits, a failed test fences the source.
Where the rules leave a choice, it states the model's, of log entries 10 and 20. -/
def Obligations.TheKeeperAnswers : Prop :=
  ∀ (s : State) (tag : BitVec 6) (w : KpWrite) (slot : BitVec 17) (p : CtlPort) (adaptive : Bool) (source : BitVec 2),
    let k := s.hw.kp
    let n := slot.toNat
    let v := s.hw.slot n
    let limit (t : Nat) := t + max 1 (fld k.cfg 0 16) * clkPerUs s.hw
    let live : Prop := s.hw.inert = false ∧ s.hw.fenced 0x82 = false ∧ k.inReset = false
    let durable (h : Hw) : Prop := h.kp.bytes = mwrite k.bytes w.addr w.data ∧ h.kp.writes = satInc k.writes
    (live → k.out = [w] → k.waiting = [] → w.tag = tag →
      (w.why = .time ∨ w.why = .counter → k.formatting = false → k.imageTo = none →
        Completes (.keeperWriteAck tag false) s fun h =>
          durable h ∧ h.kp.out = [] ∧ h.mm = s.hw.mm ∧ h.rings = s.hw.rings) ∧
      Completes (.keeperWriteAck tag true) s (fun h => h.fenced 0x82 = true)) ∧
    (live → (∀ o ∈ k.out, o.tag ≠ tag) → ∀ err, Completes (.keeperWriteAck tag err) s fun h => h.fenced 0x82 = true) ∧
    (live → k.out = [w] → k.reads = [] → bringReads s.hw = false →
      Completes .keeperAckTimeout s fun h => h.fenced 0x82 = true ∧ h.clk.core = max s.hw.clk.core (limit w.issuedAt)) ∧
    (live → k.out = [w] → k.waiting = [] → n < 0x10000 → w.addr = 0x200000 + 64 * (n / 4) → w.why = .lease [n] →
      v.st = .full → v.req = true → s.hw.Settled → s.hw.hns.mirror = .none → s.hw.keys.charges = [] →
      Completes (.leaseDurable (BitVec.ofNat 14 (n / 4))) s fun h => durable h ∧ (h.slot n).ahead = min 2 (v.ahead + 1) ∧
        (h.slot n).counter = v.counter ∧ (h.slot n).key = v.key ∧ ∀ m, m ≠ n → h.slot m = s.hw.slot m) ∧
    (∀ c t j units since holder, Works s.hw c t j → j.op = .ndraw slot holder → j.phase = .charging →
      s.hw.keys.charges = [⟨slot, jobKey c t, units, since⟩] →
      Completes (.chargeWaitExpiry slot) s fun h => h.Done c t 0x12 ∧ h.keys.charges = [] ∧
        h.clk.core = max s.hw.clk.core (waitLimit s.hw c since)) ∧
    (Masters s.hw p → k.formatted = false → k.formatting = false → s.hw.mc.bring.phase = .done → s.hw.mc.noKeeper = false →
      s.hw.fenced 0x82 = false → k.inReset = false → s.hw.mc.mode ≠ .seal →
      (fld k.cfg 32 16 < 48 → exec (.format p) s = s.writes id) ∧
      (48 ≤ fld k.cfg 32 16 → k.out = [] → k.waiting = [] → Completes (.format p) s fun h => h.kp.formatting = true ∧
        h.kp.formatted = false ∧ h.kp.out.length = 24 ∧
        ∀ o ∈ h.kp.out, o.why = .zero ∧ o.cls = 3 ∧ o.data = zeros 64 ∧ o.addr % 64 = 0 ∧ o.addr < 64 * 24)) ∧
    (live → k.formatting = true → s.hw.mc.mode ≠ .seal → s.hw.ward.warmPending = false → k.unit ≤ formatUnits →
      k.waiting = [] → (∀ o ∈ k.out, o.why = .zero) → Completes .formatComplete s fun h =>
        h.kp.formatted = true ∧ h.kp.formatting = false ∧ mread h.kp.bytes 0 2 = [1, 0xA5] ∧
          h.kp.sizeMib.toNat = fld k.cfg 32 16 ∧ (∀ a, 8 ≤ a → a < 0x2400000 → mget h.kp.bytes a = 0) ∧
          ∀ b, pointerSeq h b = 0) ∧
    (s.hw.inert = false →
      (s.hw.sec.entStartup = true → Completes .entropyStartupPass s fun h => h.sec.entHealthy = true ∧
        h.sec.entStartup = false ∧ h.mc.bring.entropyDone = true ∧
        (s.hw.mc.mode = .cold → h.keys.drbgReseedAt = s.hw.clk.core ∧ h.keys.drbgDue = false ∧
          ∃ e, e.length = 48 ∧ h.keys.drbg = Drbg.seed {} e (drbgPersonal s.hw))) ∧
      (s.hw.fenced 0x84 = false → s.hw.sec.entHealthy = true → Completes .drbgReseed s fun h =>
        h.keys.drbgReseedAt = s.hw.clk.core ∧ h.keys.drbgRequests = 0 ∧ h.keys.drbgDue = false ∧
        h.sec.entOutputs = satInc s.hw.sec.entOutputs 2 ∧ h.flt = s.hw.flt ∧
        ∃ e, e.length = 48 ∧ h.keys.drbg = s.hw.keys.drbg.seed e []) ∧
      ((s.hw.sec.entStartup = true → Completes (.entropyHealthFail true adaptive source) s fun h =>
          h.fenced 0x84 = true ∧ h.sec.entHealthy = false ∧ h.mc.bring.entropyDone = true) ∧
        (s.hw.sec.entStartup = false → s.hw.sec.entHealthy = true →
          Completes (.entropyHealthFail false adaptive source) s fun h => h.fenced 0x84 = true ∧
            h.sec.entHealthy = false ∧ h.sec.entSources.getLsbD source.toNat = false)))

/-- The patrol (R281 to R284, R286, R287): each bank is read once a row, and a pass ends after the last row; a
correction counts in its sub-array and asks for a write-back, the 16th row marks the position, and a marked position
alone counts nothing; an uncorrectable word of a free buffer sends it to the zeroer for a read-back; the write-back
ends the request for it. -/
def Obligations.ThePatrolReadsEveryRow : Prop :=
  ∀ (s : State) (bank : BitVec 7) (pos more : BitVec 6) (buf : BitVec 13) (word : BitVec 7), s.hw.inert = false →
    let k := s.hw.cs
    let row := k.patrolRow.toNat
    let last : Prop := k.patrolBanks.length = 127
    let n := tget 0 k.corrections (36 * bank.toNat + pos.toNat) + 1
    let marks := tget [] k.marks bank.toNat
    let moved (h : Hw) : Prop := (¬last → h.cs.patrolBanks = bank.toNat :: k.patrolBanks ∧ h.cs.patrolRow = k.patrolRow) ∧
      (last → h.cs.patrolBanks = [] ∧ h.cs.patrolRow = k.patrolRow + 1 ∧
        h.cs.passes = if row = 8191 then satInc k.passes else k.passes)
    (bank.toNat ∈ k.patrolBanks → exec (.patrolRead bank [pos] more) s = s.events id) ∧
    exec (.correctedWriteBack buf word) s = s.events (fun h => { h with cs := { k with
      writeBacks := k.writeBacks.filter fun x => x ≠ (buf.toNat, word.toNat) } }) ∧
    (bank.toNat ∉ k.patrolBanks → s.hw.sec.power = .run ∨ s.hw.sec.power = .idle → (s.hw.blk 0x80).flip = false →
    k.patrolBanks.length < 128 → pos.toNat < 36 → s.hw.Settled →
    Completes (.patrolRead bank [] more) s (fun h => moved h ∧ h.cs.bufs = k.bufs ∧ h.cs.marks = k.marks ∧
      h.cs.cntCorr = k.cntCorr ∧ ∀ u, h.blk u = s.hw.blk u) ∧
    (pos ∈ marks → tget BufState.free k.bufs row = .free → Completes (.patrolRead bank [pos] more) s fun h => moved h ∧
      h.cs.bufs = k.bufs ∧ h.cs.marks = k.marks ∧ h.cs.cntCorr = k.cntCorr ∧ ∀ u, h.blk u = s.hw.blk u) ∧
    (pos ∉ marks → marks.length < 2 → tget BufState.free k.bufs row = .free → n < 16 → ¬last →
      Completes (.patrolRead bank [pos] more) s fun h => moved h ∧ h.cs.marks = k.marks ∧ h.cs.cntCorr = satInc k.cntCorr ∧
        (row, (bank.toNat + 8192 - row) % 128) ∈ h.cs.writeBacks ∧
        tget 0 h.cs.corrections (36 * bank.toNat + pos.toNat) = n) ∧
    (pos ∉ marks → tget BufState.free k.bufs row = .free → n = 16 → marks.length < 2 →
      Completes (.patrolRead bank [pos] more) s fun h => moved h ∧ tget [] h.cs.marks bank.toNat = marks ++ [pos]) ∧
    (pos ≠ more → more.toNat < 36 → pos ∉ marks → more ∉ marks → tget BufState.free k.bufs row = .free →
      Completes (.patrolRead bank [pos, more] pos) s fun h => moved h ∧
        tget BufState.free h.cs.bufs row = .zeroing ∧ row ∈ h.cs.zeroQ ∧ row ∈ h.cs.recheck))

/-! ### Key updates (R268 to R279) -/

/-- Key updates (R262, R267 to R275, R278, R279): START takes a buffered intake for the port, or says why not;
UPD_DATA fills it, and a whole message goes through checks 1 to 4; ABORT abandons it; a message that fails a check
changes no key and is counted as refused; one that passes is staged and its keeper write begins; the flip gives the
slot its new key and the domain its COUNTER; waits end QUOTA or MIRROR_LOST; an ENROL ends with its receipt. Where
the rules leave a choice, it states the model's, of log entries 30, 42, 95 and 96. -/
def Obligations.KeyUpdatesRunTheirStages : Prop :=
  ∀ (s : State) (p : CtlPort) (id : BitVec 16) (u : Update) (word : Word) (c : BitVec 9) (t : BitVec 4) (j : Job) (r : Word),
    let v := s.hw.intake p
    let k := s.hw.keys
    let m := u.message
    let d := umDomain m
    let slot := umSlot m
    let inMode : Prop := s.hw.mc.mode = .pilot ∨ s.hw.mc.mode = .full ∨ s.hw.mc.mode = .degraded
    let ended (h : Hw) (st : BitVec 8) (reason : BitVec 4) : Prop :=
      (h.intake p).state = 4 ∧ (h.intake p).result = st ∧ (h.intake p).reason = reason
    let refused (i : Instr) (st : BitVec 8) (reason : BitVec 4) : Prop := Completes i s fun h => h.keys.updates = [] ∧
      ended h st reason ∧ h.keys.refusedCnt = satInc k.refusedCnt ∧ h.keys.counters = k.counters ∧ h.keys.slots = k.slots
    let alone : Prop := s.hw.inert = false ∧ s.hw.Settled ∧ k.updates = [u] ∧ u.id = id.toNat ∧ u.source = .ctl p
    (Masters s.hw p → s.hw.Settled →
      (v.state = 0 ∨ v.state = 4 → inMode → intakeFits s.hw = true →
        Completes (.start p) s fun h => (h.intake p).state = 1 ∧ (h.intake p).bytes = [] ∧ (h.intake p).bufs.length = 4 ∧
          ∀ b ∈ (h.intake p).bufs, tget BufState.free h.cs.bufs b = .owned 0) ∧
      (v.state = 0 ∨ v.state = 4 → ¬inMode → Completes (.start p) s fun h => ended h 0xC 0xD ∧
        h.keys.refusedCnt = satInc k.refusedCnt) ∧
      (v.state = 0 ∨ v.state = 4 → inMode → intakeFits s.hw = false →
        Completes (.start p) s fun h => ended h 0x13 0) ∧
      (v.state ≠ 0 → v.state ≠ 4 → exec (.start p) s = s.writes (fun h => h)) ∧
      (v.state = 1 → Completes (.updAbort p) s fun h => ended h 0xC 0xD ∧ ∀ b ∈ v.bufs, b ∈ h.cs.zeroQ) ∧
      (v.state = 1 → v.bytes.length + 8 < umTotal (v.bytes ++ leBytes 8 word.toNat) →
        (umTotal (v.bytes ++ leBytes 8 word.toNat) ≤ 16384 → exec (.updData p word) s = s.writes fun h => h.setIntake p
          { v with bytes := v.bytes ++ leBytes 8 word.toNat, words := v.words + 1 }) ∧
        (16384 < umTotal (v.bytes ++ leBytes 8 word.toNat) → Completes (.updData p word) s fun h => ended h 0x18 1)) ∧
      (v.state = 1 → ∀ w, w = v.bytes ++ leBytes 8 word.toNat → umTotal w ≤ 16384 → umTotal w ≤ w.length → inMode →
        (∀ st x, updChecks14 s.hw (.ctl p) (w.take (umTotal w)) = some (st, x) →
          Completes (.updData p word) s fun h => ended h st x ∧ h.keys.refusedCnt = satInc k.refusedCnt) ∧
        (updChecks14 s.hw (.ctl p) (w.take (umTotal w)) = none → pkBenchServes s.hw 0 = true →
          Completes (.updData p word) s fun h => (h.intake p).state = 2 ∧ h.keys.slots = k.slots ∧
            ∃ x ∈ h.keys.updates, x.source = .ctl p ∧ x.message = w.take (umTotal w) ∧ x.stage = .verifying ∧
              x.parts = [0, 1] ∧ x.partsLeft = 2))) ∧
    (alone → u.partsLeft = 0 →
      (u.stage = .verifying →
        (u.worked ≠ 0 → u.worked ≠ 0x14 → refused (.updateVerified id) 0x1 5) ∧
        (u.worked = 0x14 → refused (.updateVerified id) 0x14 2) ∧
        (u.worked = 0 → k.countersComplete = true →
          (∀ st x, updChecks68 s.hw m = some (st, x) → refused (.updateVerified id) st x) ∧
          (updChecks68 s.hw m = none → stagingParts u = [] ∨ pkBenchServes s.hw 0 = true →
            Completes (.updateVerified id) s fun h => h.keys.slots = k.slots ∧ h.keys.counters = k.counters ∧
              ∃ x, h.keys.updates = [x] ∧ x.stage = .staging ∧ x.half = true ∧ x.isReset = umFloors s.hw m ∧
                x.message = m ∧ x.parts = stagingParts u ∧ x.partsLeft = (stagingParts u).length))) ∧
      (u.stage = .staging → u.acked = false → (umKind m = kDeliver → s.hw.fenced 0x87 = false) →
        (∀ st x, stagedSlot s.hw u = .error (st, x) → refused (.updateStaged id) st x) ∧
        (∀ x cipher h', stagedSlot s.hw u = .ok (x, cipher, h') → s.hw.hns.mirror ≠ .mirrored → kpLive s.hw = true →
          (umKind m = kRetire ∨ x.persist = false ∨ drbgServes h' = true) → Completes (.updateStaged id) s fun h =>
            (h.intake p).state = 3 ∧ h.keys.slots = k.slots ∧ h.keys.counters = k.counters ∧
            ∃ y, h.keys.updates = [y] ∧ y.stage = .writing ∧ y.message = m ∧ y.staged = x ∧ y.cipher = cipher)) ∧
      (u.stage = .staging ∨ u.stage = .partner → umKind m = kRetire → u.formed = [] → u.worked = 0 → kpLive s.hw = true →
        s.hw.kp.out = [] → s.hw.kp.waiting = [] →
        ∀ i, (u.stage = .staging ∧ s.hw.hns.mirror ≠ .mirrored ∧ i = .updateStaged id ∨
            u.stage = .partner ∧ i = .partnerUpdateAck id) →
        Completes i s fun h => (∃ x, h.keys.updates = [x] ∧ x.stage = .writing) ∧ (h.intake p).state = 3 ∧
          ∃ w ∈ h.kp.out, w.cls = 1 ∧ w.addr = 0x10000 + 64 * d ∧
            wordAt w.data 0 = (if umCounter m < domCounter s.hw d then domCounter s.hw d else umCounter m)) ∧
      (u.stage = .durable → k.charges = [] → umKind m ≠ kEnrol →
        Completes (.updateFlip id) s fun h => h.keys.updates = [] ∧ ended h 0x0 0 ∧
          h.keys.committed = satInc k.committed ∧ tget 0 h.keys.counters d = domainNext s.hw m ∧
          (umKind m = kDestroy → (h.slot slot).st = .empty ∧ (h.slot slot).key = []) ∧
          (umKind m ≠ kDestroy → umKind m ≠ kRetire → (h.slot slot).key = u.staged.key ∧
            (h.slot slot).alg = u.staged.alg ∧ (h.slot slot).uses = u.staged.uses ∧ (h.slot slot).updCounter = umCounter m) ∧
          (umKind m = kRetire → u.isReset = true → tget 0 h.keys.floors d = umCounter m ∧
            ∀ n, (h.slot n).st = .empty ∨ (h.slot n).domain.toNat ≠ d) ∧
          (u.isReset = false → ∀ n, n ≠ slot → h.slot n = s.hw.slot n)) ∧
      (u.stage = .durable → k.charges = [] → umKind m = kEnrol → pkBenchServes s.hw 0 = true →
        Completes (.updateFlip id) s fun h => (h.slot slot).key = u.staged.key ∧ h.keys.committed = satInc k.committed ∧
          tget 0 h.keys.counters d = domainNext s.hw m ∧ ∃ x, h.keys.updates = [x] ∧ x.stage = .receipt ∧
            x.half = false ∧ x.parts = [5, 6] ∧ wordAt x.receipt 3 = umCounter m) ∧
      (u.stage = .waitHalf → refused (.stagingWaitExpiry id) 0x13 0xC) ∧
      (u.stage = .partner → refused (.stagingWaitExpiry id) 0x19 0xE)) ∧
    (Works s.hw c.toNat t.toNat j → k.updates = [u] → u.id = id.toNat → u.source = .kint (jobKey c.toNat t.toNat) →
      u.stage = .receipt → u.refused = false → u.partsLeft = 0 → u.results ≠ [] → j.op = .kint r → s.hw.cs.poisoned = [] →
      let n := u.receipt.length + (u.part 5 0).2.length + (u.part 6 0).2.length
      let ends (st : BitVec 8) (p : Hw → Prop) : Prop := Completes (.enrolReceipt id) s fun h =>
        h.Done c.toNat t.toNat st ∧ h.keys.updates = [] ∧ h.keys.slots = k.slots ∧ p h
      (u.worked = 0 → n ≤ rgLen r → ends 0 fun h => ((h.ctx c.toNat).tk t.toNat).result = BitVec.ofNat 64 n) ∧
      (u.worked = 0 → rgLen r < n → ends 0xA fun h => h.cs.bytes = s.hw.cs.bytes) ∧
      (u.worked ≠ 0 → ends u.worked fun h => h.cs.bytes = s.hw.cs.bytes))

/-! ### Faults and recovery (R341 to R359) -/

/-- Events and their servicing (R341, R343 to R348, R352, R354, R357, R358): a hardware event of its class enters the
history of its unit and, when no first error stands, becomes it; an uncorrected one of an unfenced unit with a fence
in its row fences it, a fatal one leads to Held; a number of another class does nothing; a lost key poisons its slot,
a lost word of the library ends the request that fetches it; PEND and HIST_CLR clear what they name; the end of the
pulse lowers err_o. -/
def Obligations.EventsAreRecorded : Prop :=
  ∀ (s : State) (p : CtlPort) (unit event : BitVec 8) (data : BitVec 16) (detail : BitVec 17) (row : EvRow),
    let u := unit.toNat
    let e := event.toNat
    let b := s.hw.blk u
    let w := s.hw.ward
    let entry : FltEntry := ⟨BitVec.ofNat 32 s.hw.clk.aon, detail.setWidth 16, row.cls, event⟩
    let x := s.hw.ctx detail.toNat
    (s.hw.inert = false → 0x40 ≤ e → eventRow s.hw u e = some row →
      ((row.cls = 2 → row.hist = true → u ≠ 0x86 ∨ e ≠ 0x40 → Completes (.hardwareEvent unit event detail) s fun h =>
          (row.fence = false → (h.blk u).hist.head? = some entry) ∧ (b.pend = false → (h.blk u).first = some entry) ∧
          (row.fence = true → h.fenced u = true) ∧ (row.fence = false → h.fenced u = s.hw.fenced u) ∧
          (u = 0x81 → e = 0x40 → slotExists detail.toNat = true → (h.slot detail.toNat).st = .poisoned)) ∧
        (row.cls = 3 → Completes (.fatalEvent unit event data) s fun h => h.mc.mode = .held ∧ h.inert = true) ∧
        (row.cls = 1 → Completes (.correctedEvent unit event data) s fun h => h.fenced u = s.hw.fenced u ∧
          h.mc.mode = s.hw.mc.mode ∧ h.rings = s.hw.rings)) ∧
      (row.cls ≠ 2 → exec (.hardwareEvent unit event detail) s = s.events id) ∧
      (row.cls ≠ 3 → exec (.fatalEvent unit event data) s = s.events id) ∧
      (row.cls ≠ 1 → exec (.correctedEvent unit event data) s = s.events id)) ∧
    (s.hw.inert = false → x.st = .ready → x.req.isSome = true → x.committed = false → x.withdrawn = none → x.posted = none →
      x.noRecord = false → Completes (.hardwareEvent 0x86 0x40 detail) s fun h =>
        (h.ctx detail.toNat).withdrawn = some 0x15 ∧ (x.epoch, fetchWord s.hw detail.toNat) ∈ h.libBad) ∧
    (Serves s.hw p → Completes (.pend p unit) s fun h =>
      (h.blk u).pend = false ∧ (h.blk u).first = none ∧ (h.blk u).cls = 0 ∧ (h.blk u).merge = 0 ∧
      (s.hw.sec.power ≠ .idle → (h.blk u).hist = b.hist ∧ (h.blk u).info = b.info)) ∧
    (Masters s.hw p → Completes (.histClr p unit) s fun h => (h.blk u).hist = [] ∧
      (s.hw.sec.power ≠ .idle → (h.blk u).pend = b.pend ∧ ∀ n, n ≠ u → h.blk n = s.hw.blk n)) ∧
    (w.errPulse = true → exec .errPulseEnd s = s.to { advanceAon s.hw (w.errAt + 3) with ward := { w with
      errPulse := false, errLevel := w.levelWrite.getD w.errLevel, levelWrite := none } }) ∧
    (w.errPulse = false → exec .errPulseEnd s = s.to s.hw)

/-- Recovery (R323, R349 to R351, R359, R450): UNIT_RST starts the reset of a fenced unit that has been fenced fewer
than three times and is refused in an event otherwise; a reset that passes lifts the fence, and the last one ends
Degraded; one that fails counts against the unit; a block warm reset keeps the keeper and the fault history, ends all
work, and brings the block up again; an armed injection acts in Factory Test: KIND 1 as its event, KIND 2 as a
flipped bit that the next compare finds (log entry 157). -/
def Obligations.UnitsAndBlockRecover : Prop :=
  ∀ (s : State) (p : CtlPort) (unit : BitVec 8) (value : Word) (i : Instr) (row : EvRow),
    let u := unit.toNat
    let b := s.hw.blk u
    let mode := s.hw.mc.mode
    let may : Prop := b.fenced = true ∧ b.rstBusy = false ∧ unitResets u = true ∧ b.fences.toNat < 3 ∧
      (mode = .pilot ∨ mode = .full ∨ mode = .degraded ∨ mode = .maint ∨ mode = .ftest)
    (Masters s.hw p →
      (may → Completes (.unitRst p unit) s fun h => (h.blk u).rstBusy = true ∧ h.fenced u = true ∧
        (u = 0x84 → h.sec.entStartup = true)) ∧
      (¬may → unitExists u = true → exec (.unitRst p unit) s = s.writes fun h => note h 0x83 5 (unit.setWidth 16)) ∧
      (unitExists u = false → exec (.unitRst p unit) s = s.writes (fun h => h))) ∧
    (s.hw.inert = false → b.rstBusy = true → resetWaits s.hw u = true →
      ∀ passed, exec (.unitResetDone unit passed) s = s.events id) ∧
    (s.hw.inert = false → b.rstBusy = true → resetWaits s.hw u = false →
      Completes (.unitResetDone unit true) s (fun h => h.fenced u = false ∧
        (u ≠ 0xC8 → h.clk.core = max s.hw.clk.core (b.rstAt + resetClocks u)) ∧
        (h.blk u).rstBusy = false ∧ (h.blk u).fences = b.fences ∧
        (mode = .degraded → (∀ n, s.hw.fenced n = true → n = u) → h.mc.mode = .full)) ∧
      Completes (.unitResetDone unit false) s (fun h => h.fenced u = b.fenced ∧ (h.blk u).rstBusy = false ∧
        (h.blk u).fences = satInc b.fences ∧ h.mc.mode = mode)) ∧
    (mode ≠ .cold → (Masters s.hw p ∧ i = .warm p ∨ s.hw.inert = false ∧ i = .blkRst) → Completes i s fun h =>
      h.mc.mode = .cold ∧ h.ctxs = [] ∧ h.jobs = [] ∧ h.rings = [] ∧ h.active = CfgSet.reset ∧ h.cinch.owner = none ∧
      h.keys.slots = [] ∧ h.keys.tgen = s.hw.keys.tgen ∧ h.kp.bytes = s.hw.kp.bytes ∧ h.kp.out = s.hw.kp.out ∧
      h.ward.warmCount = satInc s.hw.ward.warmCount ∧ h.ward.warmPending = true ∧ h.clk = s.hw.clk ∧
      h.sec.lcBits = s.hw.sec.lcBits ∧ ∀ n, h.fenced n = false) ∧
    (mode = .cold → Masters s.hw p → exec (.warm p) s = s.writes (fun h => h)) ∧
    (s.hw.inert = false → s.hw.ward.warmPending = true → s.hw.kp.out = [] → s.hw.fenced 0x82 = false →
      Completes .warmBringupStart s fun h => h.mc.bring.phase = .head ∧ h.mc.bring.fusesDone = true ∧
        h.sec.entStartup = true ∧ h.ward.warmPending = false) ∧
    (s.hw.inert = false → s.hw.kp.out ≠ [] → exec .warmBringupStart s = s.events id) ∧
    (Masters s.hw p → (mode ≠ .ftest → exec (.arm p unit value) s = s.writes (fun h => h)) ∧
      (mode = .ftest → (eventRow s.hw u (fld value 8 8)).isSome = true → Completes (.arm p unit value) s fun h =>
        (h.blk u).inj = (value ||| 1) &&& 0xffff0000ff07#64)) ∧
    (s.hw.inert = false → mode = .ftest → bit b.inj 0 = true → fld b.inj 1 2 = 1 →
      eventRow s.hw u (fld b.inj 8 8) = some row → row.fence = true → row.cls = 2 →
      Completes (.faultInjection unit) s fun h => h.fenced u = true) ∧
    (s.hw.inert = false → mode = .ftest → bit b.inj 0 = true → fld b.inj 1 2 = 2 → flipsIn u = true →
      Completes (.faultInjection unit) s fun h => (h.blk u).flip = true ∧ h.fenced u = s.hw.fenced u ∧
        h.clk.core = max s.hw.clk.core (s.hw.clk.core + fld b.inj 32 16))

/-! ### Recorder and census (R302, R360 to R381) -/

/-- The recorder (R302, R360 to R372, R402): the first port freezes it and its owner thaws it, or 60 s do; FLUSH and
the period take a checkpoint, which waits in a freeze; a token comes back to an entry; a temperature with the user's
offset enters its histogram and the extremes; a read window issues one keeper read, or answers zeros past the pages;
a unit's acknowledgement ends its record; a failure stops the recorder and issues its tombstone; every 360 s a time
record is written. Where the rules leave a choice, it states the model's, of log entries 10 and 39. -/
def Obligations.TheRecorderWorks : Prop :=
  ∀ (s : State) (p : CtlPort) (code celsius page : BitVec 16) (unit : BitVec 6) (w : KpWrite) (k : RecRecord) (i : Nat),
    let r := s.hw.recd
    let kp := s.hw.kp
    let t : BitVec 16 := BitVec.ofInt 16 (celsius.toInt + tempOffset s.hw)
    let bucket := (max 0 (min 165 (t.toInt + 40))).toNat
    let taken (h : Hw) : Prop := h.recd.hist = [] ∧ h.recd.ext = {} ∧ h.recd.dueCheckpoint = false ∧
      h.recd.lastCheckpoint = opSeconds h
    let due := (opSeconds s.hw / 360 + 1) * 360 - s.hw.clk.opBase
    let period := max 60 (fld (cfgWord s.hw.active 0x9010) 0 16)
    let readReady (h : Hw) : Word := match p with | .ctla => h.recd.rdA | .ctlb => h.recd.rdB
    let answered (i : Instr) (h : Hw) : Prop := exec i s = s.to h ∧ h.kp.out = [] ∧ h.kp.bytes = mwrite kp.bytes w.addr w.data
    let tombs (h : Hw) (cause : Nat) : Prop := h.recd.stopped = true ∧ h.recd.queue = [] ∧
      (kpLive s.hw = true → ∃ v ∈ h.kp.waiting ++ h.kp.out, v.addr = 0x140 ∧ v.cls = 2 ∧ v.why = .tombstone ∧
        fld (wordAt v.data 0) 0 8 = cause ∧ fld (wordAt v.data 0) 32 32 = r.pageSeq.toNat ∧ v.data.getD 63 0 = 0xA5)
    (Serves s.hw p →
      (r.frozen = false → exec (.freeze p) s = s.writes fun h => { h with recd := { h.recd with
        frozen := true, owner := some p, frozenAt := h.clk.aon } }) ∧
      (r.frozen = true → exec (.freeze p) s = s.writes (fun h => h)) ∧
      (r.frozen = true → r.owner = some p → Completes (.thaw p) s fun h => h.recd.frozen = false ∧ h.recd.owner = none ∧
        h.cen = s.hw.cen ∧ h.rings = s.hw.rings) ∧
      (r.frozen = false ∨ r.owner ≠ some p → exec (.thaw p) s = s.writes (fun h => h)) ∧
      (s.hw.mc.mode = .full → r.stopped = false → r.frozen = true → Completes (.flush p) s fun h =>
        h.recd.dueCheckpoint = true ∧ h.recd.hist = r.hist ∧ h.kp = kp) ∧
      (s.hw.mc.mode = .full → r.stopped = false → r.frozen = false → r.checkpointing = false →
        Completes (.flush p) s taken) ∧
      (recPages s.hw ≤ page.toNat → Completes (.recRdFetch p page unit) s fun h =>
        readReady h = BitVec.ofNat 64 (2 ^ 63 + 64 * page.toNat + unit.toNat) ∧ windowData h p = 0 ∧
          h.kp.reads.length = kp.reads.length) ∧
      (page.toNat < recPages s.hw → kpLive s.hw = true → Completes (.recRdFetch p page unit) s fun h =>
        readReady h = BitVec.ofNat 64 (64 * page.toNat + unit.toNat) ∧ h.kp.reads.length = kp.reads.length + 1 ∧
          ∃ x ∈ h.kp.reads, x.addr = 0x2E20000 + 4096 * page.toNat + 64 * unit.toNat ∧ x.window = some p)) ∧
    (s.hw.inert = false →
      (s.hw.mc.mode = .full → r.stopped = false → r.frozen = false → r.checkpointing = false →
        Completes .checkpointTimer s fun h => taken h ∧
          h.clk.aon = s.hw.clk.aon + ((r.lastCheckpoint + period - s.hw.clk.opBase) * 32768 - s.hw.clk.op)) ∧
      (∀ e, r.stopped = false → r.codes.find? (fun x => x.code = code) = some e →
        let at' := e.refillAt + 32768 * max 1 (fld (cfgWord s.hw.active 0x9010) 40 8)
        Completes (.tokenRefill code) s fun h => h.clk.aon = max s.hw.clk.aon at' ∧
          h.recd.codes = r.codes.map fun x => if x.code = code then { x with
            tokens := min (max 1 (fld (cfgWord s.hw.active 0x9010) 32 8)) (x.tokens + 1), refillAt := at' } else x) ∧
      (r.stopped = true ∨ (∀ x ∈ r.codes, x.code ≠ code) → exec (.tokenRefill code) s = s.events id) ∧
      (r.frozen = true → Completes .freezeAutoThaw s fun h => h.recd.frozen = false ∧ h.recd.autoThaw = true ∧
        h.recd.owner = none ∧ h.clk.aon = max s.hw.clk.aon (r.frozenAt + 60 * 32768)) ∧
      (r.frozen = false → exec .freezeAutoThaw s = s.events (fun h => h)) ∧
      (s.hw.fenced 0xC8 = false → s.hw.sec.power = .run → r.stopped = false → Completes (.temperatureSample celsius) s fun h =>
        h.sec.temp = t ∧
        tget 0 (tget [] h.recd.hist 0x30) bucket = min (2 ^ 32 - 1) (tget 0 (tget [] r.hist 0x30) bucket + 1) ∧
        (∀ m o, r.ext.tmax = some (m, o) → h.recd.ext.tmax = if m.toInt < t.toInt then some (t, opSeconds s.hw) else some (m, o)) ∧
        (∀ m o, r.ext.tmin = some (m, o) → h.recd.ext.tmin = if t.toInt < m.toInt then some (t, opSeconds s.hw) else some (m, o)) ∧
        (r.ext.tmax = none → h.recd.ext.tmax = some (t, opSeconds s.hw))) ∧
      (s.hw.sec.power = .run → s.hw.mc.mode = .full → kpLive s.hw = true → kp.out = [] → kp.waiting = [] →
        kp.formatting = false → kp.imageTo = none → Completes .timeRecordTimer s fun h => h.kp.timeSeq = kp.timeSeq + 1 ∧
          h.clk.aon = s.hw.clk.aon + (due * 32768 - s.hw.clk.op) ∧
          ∃ v, h.kp.out = [v] ∧ v.cls = 2 ∧ v.addr = (if kp.timeAt = true then 0xC0 else 0x100) ∧
            v.data.take 4 = leBytes 4 (kp.timeSeq + 1).toNat ∧ (v.data.drop 8).take 6 = leBytes 6 (opSeconds h)) ∧
      (kp.out = [w] → kp.waiting = [] → s.hw.ward.warmPending = false → s.hw.fenced 0x82 = false →
        (w.why = .recorder → r.stopped = false → r.opened = true → r.opening = 0 → r.current = some (k, i) →
          i + 1 = recUnits k.data.length → r.queue = [] →
          ∃ h, answered (.recorderUnitAck false) h ∧ h.recd.current = none ∧ h.recd.unit = r.unit + recUnits k.data.length ∧
            h.recd.rseq = r.rseq + 1) ∧
        (w.why = .recorder → r.pendingTomb = false → Completes (.recorderUnitAck true) s fun h =>
          h.fenced 0x82 = true ∧ h.recd.stopped = true) ∧
        (w.why = .tombstone → ∃ h, answered (.tombstoneAck false) h ∧ h.recd.pendingTomb = false ∧ h.recd.lost = r.lost ∧
          h.recd.tomb = wordAt w.data 0) ∧
        (w.why = .tombstone → r.pendingTomb = true → Completes (.tombstoneAck true) s fun h =>
          h.fenced 0x82 = true ∧ h.recd.lost = true ∧ h.recd.pendingTomb = false) ∧
        (w.why = .recorder → r.stopped = false → kpLive s.hw = true → Completes (.recorderStop false) s fun h =>
          tombs h 2 ∧ h.recd.hist = r.hist ∧ h.recd.pendingTomb = true ∧ h.kp.out.length = 1)) ∧
      (s.hw.fenced 0x88 = false → r.stopped = false → Completes (.recorderStop true) s fun h =>
        tombs h 1 ∧ h.recd.hist = [] ∧ h.recd.codes = [] ∧ h.fenced 0x88 = true))

/-- The census (R374, R375, R378, R380): a trigger starts one in the modes that run it and is counted as dropped in
the others or while one runs; a peer's marker starts one for its initiator; a counter is latched once as it stands;
once all are latched BUSY clears, and the census is complete when every awaited DONE is in, or partial after 1 ms.
Where the rules leave a choice, it states the model's, of log entries 10, 44, 45 and 65. -/
def Obligations.TheCensusCuts : Prop :=
  ∀ (s : State) (off : BitVec 24) (link peer block : BitVec 3) (seq : BitVec 32) (i : Instr),
    let c := s.hw.cen
    let lk := (s.hw.link link.toNat).st
    let runs := s.hw.mc.mode = .pilot ∨ s.hw.mc.mode = .full ∨ s.hw.mc.mode = .degraded ∨ s.hw.mc.mode = .maint ∨
      s.hw.mc.mode = .ftest
    let started : Census := { c with
      seq := c.seq + 1, peersDone := 0, part := false, complete := false, busy := true, awaiting := 0, latched := []
      aonAt := BitVec.ofNat 32 s.hw.clk.aon, at_ := s.hw.clk.core, admitted := s.hw.rm.admitted }
    let answers (h : Hw) : Prop := bit c.cfg 16 = true → s.hw.sec.trReset = false → s.hw.board.trace.length < 64 →
      ∃ l, h.board.trace = s.hw.board.trace ++ [l] ∧ l.length = 10
    let asked := c.awaiting.getLsbD peer.toNat
    (s.hw.mc.por = false → s.hw.sec.power = .run →
      (i = .cenTriggerGo ∨ i = .censusPeriod ∧ fld c.cfg 0 16 ≠ 0 →
        (s.hw.fenced 0x89 = false → runs → c.busy = false →
          (bit c.cfg 17 = false → exec i s = s.to { s.hw with cen := { started with
            remote := false, initiator := s.hw.hns.block, initSeq := c.seq + 1 } }) ∧
          (bit c.cfg 17 = true → Completes i s fun h => h.cen.busy = true ∧ h.cen.initSeq = c.seq + 1 ∧
            ∀ k < 8, (s.hw.link k).st = .up → h.cen.awaiting.getLsbD (s.hw.link k).peer.toNat = true)) ∧
        (s.hw.fenced 0x89 = false → ¬runs ∨ c.busy = true → Completes i s fun h =>
          h.cen = { c with drops := satInc c.drops } ∧ h.mc = s.hw.mc) ∧
        (s.hw.fenced 0x89 = true → exec i s = s.to s.hw)) ∧
      (fld c.cfg 0 16 = 0 → exec .censusPeriod s = s.to s.hw)) ∧
    (s.hw.inert = false → s.hw.sec.power = .run →
      (lk = .up → s.hw.fenced 0x89 = false → runs → c.busy = false → Completes (.censusMarker link block seq) s fun h =>
        h.cen = { started with remote := true, initiator := block, initSeq := seq, fromLink := link.toNat }) ∧
      (lk = .up → s.hw.fenced 0x89 = false → c.busy = true → Completes (.censusMarker link block seq) s fun h =>
        h.cen = { c with drops := satInc c.drops }) ∧
      (lk ≠ .up → exec (.censusMarker link block seq) s = s.events (fun h => h)) ∧
      (c.busy = true → isCounter off.toNat = true → c.latched.contains off.toNat = false →
        Completes (.censusLatch off) s fun h => h.cen.latched = c.latched ++ [off.toNat] ∧
          tget 0 h.cen.shadows off.toNat = readReg s.hw .ctla off.toNat ∧
          ∀ o, o ≠ off.toNat → tget 0 h.cen.shadows o = tget 0 c.shadows o) ∧
      (c.busy = false ∨ c.latched.contains off.toNat = true → exec (.censusLatch off) s = s.events (fun h => h)) ∧
      (c.busy = true → Completes .censusComplete s fun h => h.cen.busy = false ∧ h.cen.seq = c.seq ∧
        h.cen.lastClk.toNat = min (2 ^ 32 - 1) (s.hw.clk.core - c.at_) ∧
        (∀ o, c.latched.contains o = true → tget 0 h.cen.shadows o = tget 0 c.shadows o) ∧
        (c.remote = true ∨ c.awaiting = 0 ∧ c.part = false → h.cen.complete = true ∧ answers h) ∧
        (c.remote = false → c.awaiting ≠ 0 ∨ c.part = true → h.cen.complete = c.complete ∧ h.board = s.hw.board)) ∧
      (c.busy = false → exec .censusComplete s = s.events (fun h => h)) ∧
      (lk = .up → c.remote = false → c.initSeq = seq → asked = true → Completes (.censusDoneReceived link peer seq) s fun h =>
        h.cen.peersDone.getLsbD peer.toNat = true ∧ h.cen.awaiting.getLsbD peer.toNat = false ∧
        (∀ n < 8, n ≠ peer.toNat → h.cen.awaiting.getLsbD n = c.awaiting.getLsbD n) ∧
        (c.busy = false → (∀ n < 8, n ≠ peer.toNat → c.awaiting.getLsbD n = false) → h.cen.complete = true ∧ answers h)) ∧
      (lk ≠ .up ∨ c.remote = true ∨ c.initSeq ≠ seq ∨ asked = false →
        exec (.censusDoneReceived link peer seq) s = s.events (fun h => h)) ∧
      (c.awaiting ≠ 0 → Completes .censusPartialTimeout s fun h => h.cen = { c with part := true, awaiting := 0 } ∧
        h.clk.core = max s.hw.clk.core (c.at_ + 1000 * clkPerUs s.hw)) ∧
      (c.awaiting = 0 → exec .censusPartialTimeout s = s.events (fun h => h)))

/-! ### Life cycle, debug and power (R382 to R394, R438, R439, R441) -/

/-- Life cycle and debug (R218, R383 to R387, R438, R439): LC_GO blows both fuses of its target when every check
passes and says why not otherwise; each response of the fuse array takes its operation on; a wrong or missing
response is fatal; DBG_GO changes the debug state, and entry to Full empties the key store. Where the rules leave a
choice, it states the model's, of log entries 49 and 123. -/
def Obligations.TheLifeCycleMoves : Prop :=
  ∀ (s : State) (p : CtlPort) (target : BitVec 3) (code : BitVec 2) (withArm second err : Bool) (data : Word) (n i : Nat)
    (rest : List (FuseWhy × Nat × Option Nat)),
    let c := s.hw.sec
    let lc := lcState s.hw
    let t := target.toNat
    let inMode : Prop := s.hw.mc.mode = .maint ∨ s.hw.mc.mode = .ftest ∧ lc ≤ 1
    let legal : Prop := (lc = 0 ∧ t = 1 ∨ lc = 1 ∧ t = 2 ∨ lc = 2 ∧ t = 3 ∨ (lc = 2 ∨ lc = 3) ∧ t = 4 ∨ lc < 5 ∧ t = 5) ∧
      lcMoving s.hw = false
    let armed : Prop := ∃ a, c.lcArmed = some (target, p, a) ∧ s.hw.clk.aon ≤ a + 33
    let ends (r : BitVec 4) : Prop := Completes (.lcGo p target withArm) s fun h =>
      h.sec.lcResult = r ∧ h.sec.fuse = c.fuse ∧ h.sec.lcArmed = none ∧ h.sec.lcBits = c.lcBits
    let want := c.lcBits ||| BitVec.ofNat 5 (2 ^ (t - 1))
    let at_ := 2 * (t - 1)
    let debug (h : Hw) (d : Debug) (r : BitVec 4) : Prop := h.sec.debug = d ∧ h.sec.dbgResult = r
    (Masters s.hw p →
      exec (.lcArm p target) s = s.writes (fun h => { h with sec := { h.sec with lcArmed := some (target, p, h.clk.aon) } }) ∧
      (withArm = true → ends 5) ∧
      (withArm = false → ¬inMode → ends 3) ∧
      (withArm = false → inMode → c.debug = .full → ends 4) ∧
      (withArm = false → inMode → c.debug ≠ .full → ¬legal → ends 2) ∧
      (withArm = false → inMode → c.debug ≠ .full → legal → 4 ≤ t → ¬armed → ends 5) ∧
      (withArm = false → inMode → c.debug ≠ .full → legal → t < 4 ∨ armed → Completes (.lcGo p target withArm) s fun h =>
        h.sec.fuse = c.fuse ++ [(.lifeCycle target false, 19, some at_), (.lifeCycle target true, 19, some (at_ + 1))] ∧
        h.sec.lcArmed = none ∧ h.sec.lcBits = c.lcBits) ∧
      (s.hw.mc.mode ≠ .maint → s.hw.mc.mode ≠ .ftest → Completes (.dbgGo p code) s fun h => debug h c.debug 2) ∧
      (s.hw.mc.mode = .maint →
        (code = 3 → Completes (.dbgGo p code) s fun h => debug h c.debug 4) ∧
        (code = 2 → lc = 2 ∨ lc = 3 ∨ lc = 5 → Completes (.dbgGo p code) s fun h => debug h c.debug 3) ∧
        (code = 2 → lc = 0 ∨ lc = 1 ∨ lc = 4 → c.debug ≠ .full → Completes (.dbgGo p code) s fun h => debug h .full 1 ∧
          h.keys.slots = [] ∧ h.keys.root = .none ∧ ∀ e ∈ h.pkb, e.2.curves = []) ∧
        (code = 1 → c.debug = .closed → Completes (.dbgGo p code) s fun h => debug h .diagnostic 1 ∧
          h.keys.root = s.hw.keys.root ∧ h.sec.fuse = c.fuse) ∧
        (code = 0 → c.debug = .full → Completes (.dbgGo p code) s fun h => debug h .closed 1 ∧
          (lc = 0 ∨ lc = 5 → h.mc.mode = .cold) ∧
          (1 ≤ lc → lc ≤ 4 → h.sec.fuse.length = c.fuse.length + 4 ∧ h.keys.root = .none)))) ∧
    (s.hw.inert = false →
      (c.fuse = (.lifeCycle target second, 19, some n) :: rest →
        (fusePairs data ≠ want ∨ data.getLsbD (at_ + second.toNat) = false → Completes (.fuseResponse data false) s fun h =>
          h.mc.mode = .held ∧ h.sec.fuse = []) ∧
        (fusePairs data = want → data.getLsbD (at_ + second.toNat) = true → Completes (.fuseResponse data false) s fun h =>
          h.sec.lcBits = want ∧
          (second = false → h.sec.fuse = rest ∧ h.sec.lcResult = c.lcResult ∧ h.mc.mode = s.hw.mc.mode) ∧
          (second = true → h.sec.lcResult = 1 ∧
            (t = 3 → h.sec.fuse = rest ∧ h.keys.root = s.hw.keys.root) ∧ (t ≠ 3 → h.keys.slots = [])))) ∧
      (c.fuse = [(.floor, 19, some n)] → data.getLsbD n = true → Completes (.fuseResponse data false) s fun h =>
        h.ucode.floor.toNat = max s.hw.ucode.floor.toNat (popBits data 16 31) ∧
        h.sec.fuse = if h.ucode.floor.toNat < h.ucode.svn.toNat then
          [(.floor, 19, some (16 + h.ucode.floor.toNat))] else []) ∧
      (c.fuse = (.rootReload i, n, none) :: rest →
        (i ≠ 3 → Completes (.fuseResponse data false) s fun h => h.sec.fuse = rest ∧
          h.keys.rootKey = s.hw.keys.rootKey ++ leBytes 8 data.toNat) ∧
        (i = 3 → s.hw.mc.mode ≠ .held → Completes (.fuseResponse data false) s fun h => h.mc.mode = .cold)) ∧
      (c.fuse ≠ [] → (err = true → Completes (.fuseResponse data err) s fun h => h.mc.mode = .held ∧ h.sec.fuse = []) ∧
        Completes .fuseTimeout s fun h => h.mc.mode = .held ∧ h.sec.fuse = []) ∧
      (c.fuse = [] → exec (.fuseResponse data err) s = s.events (fun h => h)) ∧
      (c.fuse = [] → s.hw.mc.bring.phase = .fuses → Completes .fuseTimeout s fun h => h.mc.mode = .held) ∧
      (c.fuse = [] → s.hw.mc.bring.phase ≠ .fuses → exec .fuseTimeout s = s.events (fun h => h)))

/-- Power (R389 to R394, R441): IDLE and its timer put a quiet block to idle, which any event wakes; RETAIN stops
admissions, retention-ready follows once the block has drained, or the drain limit resumes; without vdd_core the
contexts and the store are lost and the rest stands; core supply good resumes, acts on a late kill or a warning, and
its end judges the Warden's forced difference and seeds the mask generators. Where the rules leave a choice, it
states the model's, of log entries 10, 54, 115, 159 and 160. -/
def Obligations.PowerStatesChange : Prop :=
  ∀ (s : State) (p : CtlPort) (withRetain woken : Bool),
    let c := s.hw.sec
    let mode := s.hw.mc.mode
    let idles : Prop := (mode = .pilot ∨ mode = .full ∨ mode = .degraded ∨ mode = .maint) ∧ quiet s.hw = true
    let us := fld c.pwrCfg 0 16
    let refused (i : Instr) : Prop := Completes i s fun h => h.sec.pwrResult = 2 ∧ h.sec.power = c.power ∧ h.mc = s.hw.mc
    (Masters s.hw p → c.power = .run →
      (withRetain = false → idles → woken = false → Completes (.idle p withRetain woken) s fun h => h.sec.power = .idle ∧
        h.sec.pwrResult = 1 ∧ h.mc = s.hw.mc ∧ h.clk.core = s.hw.clk.core + 1) ∧
      (withRetain = false → idles → woken = true → exec (.idle p withRetain woken) s = s.writes id) ∧
      (withRetain = true ∨ ¬idles → refused (.idle p withRetain woken)) ∧
      (mode = .full ∨ mode = .degraded ∨ mode = .maint → exec (.retain p) s = s.writes fun h => { h with
        sec := { h.sec with power := .retaining }, mc := { h.mc with drainAt := h.clk.core } }) ∧
      (mode ≠ .full → mode ≠ .degraded → mode ≠ .maint → refused (.retain p))) ∧
    (s.hw.inert = false →
      (us ≠ 0 → idles → c.power = .run → Completes (.autoIdle woken) s fun h =>
        h.sec.power = (if woken then .run else .idle) ∧ h.clk.core = s.hw.clk.core + us * clkPerUs s.hw ∧ h.sec.pwrResult = c.pwrResult) ∧
      (us = 0 ∨ ¬idles ∨ c.power ≠ .run → exec (.autoIdle woken) s = s.events (fun h => h)) ∧
      (c.power = .idle → Completes .wakeEvent s fun h => h.sec = { c with power := .run } ∧ h.mc = s.hw.mc) ∧
      (c.power ≠ .idle → exec .wakeEvent s = s.events (fun h => h)) ∧
      (c.power = .retaining → retainDrained s.hw = true → Completes .retentionReady s fun h => h.sec.power = .retReady ∧
        h.sec.retReady = true ∧ h.sec.sealAck = true ∧ h.sec.pwrResult = 1 ∧ h.cinch.owner = none ∧ h.board.trace = [] ∧
        h.board.traceLost = satInc s.hw.board.traceLost s.hw.board.trace.length ∧
        (kpLive s.hw = true → s.hw.kp.formatting = false → s.hw.kp.imageTo = none →
          h.kp.timeSeq = s.hw.kp.timeSeq + 1 ∧ h.kp.out = [])) ∧
      (c.power = .retWait → Completes .retentionReady s fun h => h.sec.power = .retReady ∧ h.sec.retReady = true ∧
        h.sec.sealAck = true ∧ h.sec.pwrResult = 1 ∧ h.cinch = s.hw.cinch) ∧
      (c.power ≠ .retWait → c.power ≠ .retaining ∨ retainDrained s.hw = false → exec .retentionReady s = s.events (fun h => h)) ∧
      (c.power = .retaining → Completes .retentionDrainLimit s fun h => h.sec.power = .run ∧ h.sec.pwrResult = 3 ∧
        h.clk.core = max s.hw.clk.core (s.hw.mc.drainAt + 1000 * max 1 (fld c.pwrCfg 16 16) * clkPerUs s.hw)) ∧
      (c.power ≠ .retaining → exec .retentionDrainLimit s = s.events (fun h => h)) ∧
      (c.power = .run → s.hw.mc.pfw = false → mode = .full → Completes .coreGoodFall s fun h => h.mc.mode = .seal ∧
        h.sec.coreGood = false) ∧
      (s.hw.mc.pfw = true → c.power ≠ .resuming →
        exec .coreGoodFall s = s.events fun h => { h with sec := { h.sec with coreGood := false } }) ∧
      (c.power = .resuming → Completes .coreGoodFall s fun h => h.sec.power = .retention ∧ h.sec.coreGood = false ∧
        h.ctxs = [] ∧ h.cs.bytes = []) ∧
      (c.power = .resuming → Completes (.resumeDone false) s fun h => h.mc.mode = .held ∧ h.ward.lockstepOk = false) ∧
      (c.power = .resuming → Completes (.resumeDone true) s fun h => h.sec.power = .run ∧ h.mc = s.hw.mc ∧
        h.clk.core = max s.hw.clk.core (c.resumeAt + 20 * clkPerUs s.hw + 16384) ∧
        h.sec.lastResume.toNat = min (2 ^ 32 - 1) (h.clk.core - c.resumeAt) ∧
        ∀ b < 8, (h.pair b).workerOut = 0 ∧ (h.pair b).checkerOut = 0 ∧ (h.pair b).seeded = !s.hw.fenced 0x84) ∧
      (c.power ≠ .resuming → exec (.resumeDone woken) s = s.events (fun h => h))) ∧
    (c.power = .retReady → c.retReady = true → Completes (.supplyRemoved false) s fun h => h.sec.power = .retention ∧
      h.ctxs = [] ∧ h.jobs = [] ∧ h.cs.bytes = [] ∧ h.mm.txns = [] ∧ h.sec.retentions = satInc c.retentions ∧
      h.keys = s.hw.keys ∧ h.rings = s.hw.rings ∧ h.active = s.hw.active ∧ h.kp = { s.hw.kp with reads := [] } ∧ h.flt = s.hw.flt ∧
      h.board = s.hw.board ∧ h.mc = s.hw.mc ∧ h.inert = true) ∧
    (c.power ≠ .retReady → exec (.supplyRemoved false) s = s.to s.hw) ∧
    Completes (.supplyRemoved true) s (fun h => h.sec.power = .off ∧ h.mc.mode = .cold ∧ h.ctxs = [] ∧ h.keys.slots = [] ∧
      h.rings = []) ∧
    (s.hw.mc.por = false → mode ≠ .held → c.power = .retention →
      (s.hw.keys.killLate = false → s.hw.mc.pfw = false → Completes .coreSupplyGood s fun h => h.sec.power = .resuming ∧
        h.sec.coreGood = true ∧ h.sec.retReady = false ∧ h.sec.sealAck = false ∧ h.sec.entStartup = !s.hw.fenced 0x84 ∧
        h.sec.entHealthy = false ∧ h.sec.resumeAt = s.hw.clk.core ∧ h.mc = s.hw.mc) ∧
      (s.hw.keys.killLate = true → Completes .coreSupplyGood s fun h => h.mc.mode = .held ∧ h.keys.killLate = false) ∧
      (s.hw.keys.killLate = false → s.hw.mc.pfw = true → mode = .full → Completes .coreSupplyGood s fun h =>
        h.mc.mode = .seal)) ∧
    (s.hw.mc.por = false → mode ≠ .held → c.power = .run → exec .coreSupplyGood s = s.events fun h => { h with
      sec := { h.sec with coreGood := true } })

/-! ### Kill line, detectors and port resets (R254 to R256, R398, R440, R451) -/

/-- The kill line, the detectors and the tamper generation (R254 to R256, R398, R400, R440): a kill clears the key
store and ends in Held, or in Retention waits for the core supply; one step of TGEN acknowledges it, a position that
does not read blown is fatal, the last one records Scrapped; the other detectors count, kill or end in Held as the
life cycle and their action say. -/
def Obligations.TheKillLineClears : Prop :=
  ∀ (s : State) (d : BitVec 3) (data : BitVec 16) (back : Word),
    let k := s.hw.keys
    let n := d.toNat
    let lc := lcState s.hw
    let inUse : Prop := lc = 2 ∨ lc = 3
    let count (h : Hw) (n : Nat) : Prop := h.sec.trips.getLsbD n = true ∧
      tget 0 h.sec.tripCnt n = satInc (tget 0 s.hw.sec.tripCnt n)
    let cleared (h : Hw) : Prop := h.keys.slots = [] ∧ h.keys.root = .none ∧ h.keys.zeroized = true ∧ h.keys.kill = true ∧
      h.keys.kills = satInc k.kills ∧ h.keys.charges = [] ∧ h.keys.updates = []
    let kills (i : Instr) (n : Nat) : Prop := Completes i s fun h => cleared h ∧ count h n ∧ h.mc.mode = .held ∧
      h.keys.stepBusy = decide (k.tgen.toNat ≠ 63) ∧ h.keys.killAck = decide (k.tgen.toNat = 63) ∧ h.keys.tgen = k.tgen
    let counts : Prop := Completes (.detectorTrip d data) s fun h => count h n ∧ h.mc = s.hw.mc ∧ h.keys.kill = k.kill ∧
      h.keys.root = k.root
    (s.hw.mc.por = false → s.hw.sec.power = .run →
      (k.kill = false → kills .killLine 0 ∧ (d = 0 → kills (.detectorTrip d data) 0) ∧
        (inUse → 1 ≤ n → n ≤ 5 → (n = 5 → s.hw.fenced 0xC8 = false) → detectorKills s.hw n = true →
          Completes (.detectorTrip d data) s fun h => cleared h ∧ count h n ∧ h.mc.mode = .held)) ∧
      (k.kill = true → exec .killLine s = s.events (fun h => h)) ∧
      (inUse → n = 4 → detectorKills s.hw n = false → Completes (.detectorTrip d data) s fun h => count h n ∧
        h.mc.mode = .held ∧ h.keys.kill = k.kill) ∧
      (inUse → n = 1 ∨ n = 2 ∨ n = 3 ∨ n = 5 ∧ s.hw.fenced 0xC8 = false → detectorKills s.hw n = false → counts) ∧
      (¬inUse → 1 ≤ n → n ≤ 4 ∨ n = 5 ∧ s.hw.fenced 0xC8 = false → counts) ∧
      (6 ≤ n ∨ n = 5 ∧ s.hw.fenced 0xC8 = true → exec (.detectorTrip d data) s = s.events (fun h => h)) ∧
      (k.stepBusy = true → k.tgen.toNat < 63 → back.getLsbD k.tgen.toNat = false → Completes (.tgenStep back) s fun h =>
        h.mc.mode = .held ∧ h.keys.tgen = k.tgen ∧ h.keys.stepBusy = true) ∧
      (k.stepBusy = true → k.tgen.toNat < 63 → back.getLsbD k.tgen.toNat = true → Completes (.tgenStep back) s fun h => h.keys.tgen = k.tgen + 1 ∧
        h.keys.stepBusy = false ∧ h.keys.killAck = true ∧ h.mc = s.hw.mc ∧
        (k.tgen.toNat = 62 → lcState h = 5 ∧ h.keys.root = .none) ∧
        (k.tgen.toNat ≠ 62 → h.sec.lcBits = s.hw.sec.lcBits ∧ h.keys.root = k.root)) ∧
      (k.stepBusy = false → exec (.tgenStep back) s = s.to s.hw)) ∧
    (s.hw.mc.por = false → s.hw.sec.power = .retention → k.kill = false → Completes .killLine s fun h =>
      cleared h ∧ h.keys.killLate = true ∧ h.mc.mode = s.hw.mc.mode) ∧
    (k.kill = true → exec .killAckRelease s = s.to (advanceAon { s.hw with keys := { k with kill := false, killAck := false } }
      (s.hw.clk.aon + 2))) ∧
    (k.kill = false → exec .killAckRelease s = s.to s.hw)

/-- Resets of ports (R93, R311, R409, R445, R451): a control port gives back its claim, its cinch, its freeze and its
banked registers; a memory master port leaves the pool, fenced when something is outstanding; the other ports hold
their reset; a link is DOWN and its flits are lost, as when its PHY goes down. Where the rules leave a choice, it
states the model's, of log entry 50. -/
def Obligations.PortsReset : Prop :=
  ∀ (s : State) (p : CtlPort) (port : BitVec 5) (n : BitVec 7) (link : BitVec 3) (k : TrapRecord),
    let m := port.toNat
    let l := s.hw.link link.toNat
    let flag (w : ResetPort) (f : Security → Security) : Prop := Completes (.portReset w) s fun h => h.sec = f s.hw.sec ∧
      h.kp = s.hw.kp ∧ h.rings = s.hw.rings ∧ h.mc = s.hw.mc
    let lost (i : Instr) (v : Link) : Prop := Completes i s fun h =>
      let w := h.link link.toNat
      w.st = .down ∧ w.buffer = [] ∧ w.txSeq = 0 ∧ w.rxSeq = 0 ∧ w.inReset = v.inReset ∧ w.phyUp = v.phyUp ∧
        ∀ a, a ≠ link.toNat → (h.link a).st = (s.hw.link a).st
    (96 ≤ n.toNat → exec (.portReset (.doorbell n)) s = .fault .noSuchPort) ∧
    (s.hw.inert = false →
      (s.hw.cinch.owner = some p → Completes (.ctlPortReset p) s fun h => h.cinch.owner = none ∧ h.cinch.broken = true ∧
        h.cinch.cause = (match p with | .ctla => 2 | .ctlb => 3) ∧ h.awlLoad = false ∧ h.active = s.hw.active) ∧
      (s.hw.cinch.owner ≠ some p → Completes (.ctlPortReset p) s fun h => h.cinch = s.hw.cinch ∧ h.seam = s.hw.seam) ∧
      (s.hw.claim p = some k → Completes (.ctlPortReset p) s fun h => h.claim p = none ∧
        h.trapq.queue = k :: s.hw.trapq.queue ∧ h.claim (otherPort p) = s.hw.claim (otherPort p)) ∧
      Completes (.ctlPortReset p) s (fun h => windowData h p = 0 ∧
        (s.hw.recd.frozen = true → s.hw.recd.owner = some p → h.recd.frozen = false) ∧
        (p = .ctla → h.dselA = 0 ∧ h.viewA = false ∧ h.keys.selA = 0 ∧ h.cen.vselA = 0 ∧ h.dselB = s.hw.dselB) ∧
        (p = .ctlb → h.dselB = 0 ∧ h.viewB = false ∧ h.keys.selB = 0 ∧ h.cen.vselB = 0 ∧ h.dselA = s.hw.dselA)) ∧
      Completes (.mmPortReset port) s (fun h => (h.mmp m).inReset = true ∧
        (s.hw.mm.txns.any (fun t => t.port = m) = true → h.fenced (mmUnit m) = true) ∧
        (s.hw.mm.txns.any (fun t => t.port = m) = false → h.flt = s.hw.flt ∧ h.mm.txns = s.hw.mm.txns ∧
          ∀ a, a ≠ m → h.mmp a = s.hw.mmp a)) ∧
      (n.toNat < 96 → Completes (.portReset (.doorbell n)) s fun h => tget {} h.dbs n.toNat =
          { tget ({} : DbPort) s.hw.dbs n.toNat with inReset := true } ∧
        (∀ a, a ≠ n.toNat → tget {} h.dbs a = tget ({} : DbPort) s.hw.dbs a) ∧ h.rings = s.hw.rings) ∧
      (s.hw.mc.mode = .cold → exec (.portReset .keeper) s = s.events fun h => { h with kp := { h.kp with inReset := true } }) ∧
      (s.hw.mc.mode ≠ .cold → Completes (.portReset .keeper) s fun h => h.kp.inReset = true ∧ h.fenced 0x82 = true) ∧
      flag .fuse (fun c => { c with fzReset := true }) ∧ flag .sideband (fun c => { c with sbReset := true }) ∧
      flag .alert (fun c => { c with alReset := true }) ∧
      exec (.portReset .test) s = s.to { s.hw with tap := { inReset := true } } ∧
      Completes (.portReset .trace) s (fun h => h.sec.trReset = true ∧ h.board.trace = [] ∧
        h.board.traceLost = satInc s.hw.board.traceLost s.hw.board.trace.length) ∧
      (l.st ≠ .failed → lost (.plPortReset link) { l with inReset := true } ∧
        lost (.plPhyUpChange link false) { l with phyUp := false }) ∧
      (l.st = .failed → exec (.plPortReset link) s = s.events fun h => h.modLink link.toNat fun l => { l with inReset := true }) ∧
      (l.st = .down → l.inReset = false → l.waits = false → exec (.plPhyUpChange link true) s = s.events fun h =>
        h.modLink link.toNat fun l => { l with phyUp := true, st := .training })) ∧
    (∀ up, s.hw.inert = true ∨ l.st = .failed → exec (.plPhyUpChange link up) s = s.events fun h =>
      h.modLink link.toNat fun l => { l with phyUp := up })

/-! ### Harness: links, pairings, forwarded requests, mirror pair (R405 to R426) -/

/-- Links (R406 to R409, R413, R414, R416, R424, R425): valid HELLOs bring a link up and an invalid one holds it DOWN
for a while; a flit with a bad CRC is answered by a NAK, a reserved kind fails the link, a flit out of order is
dropped, one in order counts; an acknowledgement empties the buffer and a NAK replays the rest, the 16th replay in a
row failing the link; heartbeats leave and their loss ends in ALONE; a key exchange whose signatures hold keys the
link by the KDF over both messages, another leaves it keyless; a SECURE message whose GCM tag is wrong fails it, and
one with a slot is its copy; a copied slot of a higher counter is committed. Where the rules leave a choice, it
states the model's, of log entries 10, 41, 46, 105 and 162. -/
def Obligations.LinksCarry : Prop :=
  ∀ (s : State) (link : BitVec 3) (data : BitVec 256) (w : Word) (ack : BitVec 12) (f g : BitVec 12 × BitVec 4 × Bytes)
    (r : List (BitVec 12 × BitVec 4 × Bytes)) (m tag key digest dk x sent : Bytes) (b : Nat) (slot : BitVec 17)
    (counter attr limit : Word),
    s.hw.inert = false →
    let k := link.toNat
    let l := s.hw.link k
    let trains : Prop := l.phyUp = true ∧ l.inReset = false ∧ l.waits = false ∧ (l.st = .down ∨ l.st = .training)
    let becomes (i : Instr) (v : Link) : Prop := Completes i s fun h => h.link k = v ∧ h.rings = s.hw.rings ∧ h.mc = s.hw.mc
    let nothing (i : Instr) : Prop := exec i s = s.events (fun h => h)
    let failed (h : Hw) : Prop := (h.link k).st = .failed ∧ h.fenced (0xB0 + k) = true ∧ (h.link k).buffer = []
    let kind := fld w 0 4
    let inOrder : Prop := w.extractLsb' 4 12 = l.rxSeq
    let noWaiting : Prop := ∀ m ∈ s.hw.hns.outbox, m.1 ≠ k
    let replayed (v : Link) : Link := { v with replays := satInc v.replays, streak := v.streak + 1 }
    let mirrors : Prop := s.hw.hns.mirror = .mirrored ∨ s.hw.hns.mirror = .joining
    let due : Prop := exchangeDue s.hw k = true ∧ exchangePeer s.hw k = some (b, digest)
    let below : Prop := s.hw.hns.block.toNat < b
    let exchanges (P : Link → Prop) : Prop := Completes (.linkKeyExchangeDone link m) s fun h =>
      (h.link k).exchange = none ∧ (h.link k).st = .up ∧ P (h.link k)
    let keyless (v : Link) : Prop := v.keyed = false ∧ v.keyTx = [] ∧ v.keyRx = [] ∧ v.retry = true
    let iv := beBytes 12 l.rxSecure
    let whole : Prop := gcmTag l.keyRx iv [] m = tag
    let counted (v : Link) : Link := { v with rxSecure := v.rxSecure + 1 }
    let copies : Prop := l.st = .up ∧ l.keyed = true ∧ sharedFrom s.hw k = true ∧ slot.toNat < 0x10400 ∧
      fld attr 50 14 = key.length ∧ (s.hw.slot slot.toNat).updCounter < counter
    (¬trains → nothing (.helloReceived link data)) ∧
    (trains → helloValid s.hw k data = false →
      becomes (.helloReceived link data) { l with st := .down, sentSeen := false, waits := true }) ∧
    (trains → helloValid s.hw k data = true →
      (data.getLsbD 32 = false → becomes (.helloReceived link data)
        { l with st := .training, peer := data.extractLsb' 0 3, sentSeen := true }) ∧
      (data.getLsbD 32 = true → becomes (.helloReceived link data)
        { l with st := .up, peer := data.extractLsb' 0 3, sentSeen := true, txSeq := 0, rxSeq := 0, buffer := [], streak := 0 })) ∧
    (l.waits = false → becomes (.linkTrainRetry link) l) ∧
    (l.waits = true → l.st = .down → l.phyUp = true → l.inReset = false →
      becomes (.linkTrainRetry link) { l with waits := false, st := .training }) ∧
    (l.st ≠ .up → nothing (.flitReceived link data w) ∧ nothing (.nakReceived link ack) ∧ nothing (.replayTimer link)) ∧
    (l.st = .up →
      (flitCrcOk data w = false → becomes (.flitReceived link data w) { l with idleOut := some (true, false, zeros 32) }) ∧
      (flitCrcOk data w = true → 9 ≤ kind → s.hw.fenced (0xB0 + k) = false → Completes (.flitReceived link data w) s failed) ∧
      (flitCrcOk data w = true → 2 ≤ kind → kind ≤ 8 → ¬inOrder → nothing (.flitReceived link data w)) ∧
      (flitCrcOk data w = true → 2 ≤ kind → kind ≤ 8 → inOrder → w.getLsbD 28 = false → l.buffer = [] →
        becomes (.flitReceived link data w) { l with rxSeq := l.rxSeq + 1 }) ∧
      (flitCrcOk data w = true → kind = 0 → k = 7 → w.getLsbD 29 = true → w.getLsbD 28 = false → l.buffer = [] →
        Completes (.flitReceived link data w) s fun h => h.hns.peerEpoch = data.extractLsb' 16 16 ∧
          h.hns.heartbeatAt = s.hw.clk.aon ∧ h.link k = l) ∧
      (noWaiting → l.buffer = f :: g :: r → f.1 = ack → becomes (.nakReceived link ack)
        { l with buffer := g :: r, replays := satInc l.replays, streak := 1 }) ∧
      (l.buffer = [] → nothing (.replayTimer link)) ∧
      (l.buffer ≠ [] → l.streak < 15 → becomes (.replayTimer link) (replayed l)) ∧
      (l.buffer ≠ [] → 15 ≤ l.streak → s.hw.fenced (0xB0 + k) = false → Completes (.replayTimer link) s failed)) ∧
    (s.hw.mc.mode = .full → s.hw.ward.lockstepOk = true → (s.hw.link 7).st = .up → Completes .heartbeatSend s fun h =>
      ∃ d, h.link 7 = { s.hw.link 7 with idleOut := some (false, true, d) } ∧ d.length = 32 ∧
        (d.drop 2).take 2 = leBytes 2 s.hw.seam.epoch.toNat) ∧
    (mirrors → Completes .heartbeatLoss s fun h => h.hns.mirror = .alone ∧ h.hns.losses = satInc s.hw.hns.losses ∧
      h.clk.aon = max s.hw.clk.aon (s.hw.hns.heartbeatAt + 33)) ∧
    (¬mirrors → nothing .heartbeatLoss) ∧
    (due → below → l.exchange = some (dk, x, sent) →
      (exchangeOk 1120 digest m = true → exchanges fun v => v.keyed = true ∧ v.fresh = true ∧ v.txSecure = 0 ∧ v.rxSecure = 0 ∧
        v.keyTx ++ v.keyRx = kdf (kemDecaps 3 dk (m.take 1088) ++ xMul 32 x ((m.drop 1088).take 32)) "pair-link"
          (sha384 (padTo 32 sent ++ padTo 32 m)) 64) ∧
      (exchangeOk 1120 digest m = false → exchanges keyless)) ∧
    (due → ¬below → drbgServes s.hw = true →
      (exchangeOk 1216 digest m = true → kemEkOk 3 (m.take 1184) = true → exchanges fun v => v.keyed = true ∧
        v.fresh = true ∧ v.txSecure = 0 ∧ v.rxSecure = 0) ∧
      (exchangeOk 1216 digest m = false ∨ kemEkOk 3 (m.take 1184) = false → exchanges keyless)) ∧
    (exchangeDue s.hw k = false ∨ drbgServes s.hw = false ∧ l.exchange = none → nothing (.linkKeyExchangeDone link m)) ∧
    becomes (.linkKeyRetry link) { l with retry := false } ∧
    (l.st ≠ .up ∨ l.keyed = false → nothing (.secureMessage link m tag)) ∧
    (l.st = .up → l.keyed = true →
      (¬whole → s.hw.fenced (0xB0 + k) = false → Completes (.secureMessage link m tag) s failed) ∧
      (whole → (gcmOut l.keyRx iv m).head? ≠ some 5 → (gcmOut l.keyRx iv m).head? ≠ some 8 →
        becomes (.secureMessage link m tag) (counted l)) ∧
      (∀ p, whole → gcmOut l.keyRx iv m = 8 :: p → leNat (p.take 8) < 2 ^ 17 → exec (.secureMessage link m tag) s =
        exec (.sharedSlotCopy link (BitVec.ofNat 17 (leNat (p.take 8))) (wordAt p 1) (wordAt p 2) (wordAt p 3) (p.drop 32))
          { s with hw := s.hw.modLink k counted })) ∧
    (¬copies → nothing (.sharedSlotCopy link slot counter attr limit key)) ∧
    (copies → fld attr 34 2 = 2 → attr.getLsbD 30 = false → (s.hw.slot slot.toNat).persist = false →
      sharedChecks s.hw (sharedMessage slot.toNat counter attr limit) = none → s.hw.keys.countersComplete = true →
      s.hw.keys.updates = [] → kpLive s.hw = true → s.hw.kp.out = [] → s.hw.kp.waiting = [] → Completes (.sharedSlotCopy link slot counter attr limit key) s fun h =>
        ∃ u w, h.keys.updates = [u] ∧ u.source = .shared ∧ u.stage = .writing ∧ u.staged.key = key ∧ w ∈ h.kp.out ∧
          w.cls = 1 ∧ w.addr = 0x10000 + 64 * umDomain u.message)

/-- Pairings (R410 to R412): an approval is taken word by word in Full and Degraded, judged when it is whole, and
sent to the other block when it passes; the other block's verdict, or its own check of a peer's approval, takes the
ceremony on; the commit records the pairing in a new configuration set and the counter of domain 0, and the port
shows its end once both blocks have made it. Where the rules leave a choice, it states the model's, of log entries
31, 41, 53, 117, 120 and 147. -/
def Obligations.PairingsAreMade : Prop :=
  ∀ (s : State) (p q : CtlPort) (word : Word) (link b : BitVec 3) (a m : Bytes) (st : BitVec 8) (at_ : Option CtlPort),
    let c := s.hw.hns
    let v := s.hw.appr p
    let k := link.toNat
    let bytes := v.bytes ++ leBytes 8 word.toNat
    let inMode : Prop := s.hw.mc.mode = .full ∨ s.hw.mc.mode = .degraded
    let starts : Prop := (v.stage = .idle ∨ v.stage = .done) ∧ c.ceremony = none
    let becomes (i : Instr) (p : CtlPort) (v : Approval) : Prop := Completes i s fun h => h.appr p = v ∧ h.keys.root = s.hw.keys.root
    let nothing (i : Instr) : Prop := exec i s = s.events (fun h => h)
    let answers (h : Hw) (st : BitVec 8) : Prop := ∃ n, (h.link k).buffer = (s.hw.link k).buffer ++ [(n, 8, [st])]
    let room : Prop := c.outbox = [] ∧ (s.hw.link k).buffer.length < 512
    let other := apOther s.hw a
    let base := 0xB200 + 64 * other
    let both : Prop := c.localPass = true ∧ c.peerPass = true ∧ c.localMade = false ∧ domain0Busy s.hw = false ∧ (apUnpair a = true ∨ (s.hw.link (apLink s.hw a)).keyed = true) ∧
      s.hw.seam.st = .ready ∧ s.hw.seam.dirty = false
    let made (h : Hw) : Prop := (at_ = none ∨ c.peerMade = true → h.hns.ceremony = none) ∧
      ∀ p, at_ = some p → (c.peerMade = true → h.appr p = { stage := .done }) ∧
        (c.peerMade = false → h.hns.ceremony = c.ceremony ∧ h.hns.localMade = true ∧ h.appr p = s.hw.appr p)
    (Masters s.hw p → s.hw.sec.power = .run →
      (starts → becomes (.hnsApprStart p) p (if s.hw.mc.mode = .full ∨ s.hw.mc.mode = .degraded then { stage := .receiving }
        else { stage := .done, result := 0xC, reason := 0xD })) ∧
      (¬starts → exec (.hnsApprStart p) s = s.writes (fun h => h)) ∧
      (v.stage = .receiving → becomes (.hnsApprAbort p) p { stage := .done, result := 0xC, reason := 0xD }) ∧
      (v.stage ≠ .receiving → exec (.hnsApprAbort p) s = s.writes (fun h => h) ∧
        exec (.hnsApprData p word) s = s.writes (fun h => h)) ∧
      (v.stage = .receiving →
        (fld (wordAt bytes 0) 32 32 ≠ 5581 → becomes (.hnsApprData p word) p { stage := .done, result := 0x18, reason := 1 }) ∧
        (fld (wordAt bytes 0) 32 32 = 5581 → bytes.length < 5581 → becomes (.hnsApprData p word) p { v with bytes := bytes }) ∧
        (fld (wordAt bytes 0) 32 32 = 5581 → 5581 ≤ bytes.length →
          (c.ceremony.isSome = true → becomes (.hnsApprData p word) p { stage := .done, result := 0xC, reason := 8 }) ∧
          (∀ st reason, c.ceremony = none → apChecks s.hw (bytes.take 5581) = some (st, reason) → becomes (.hnsApprData p word) p
            { stage := .done, result := st, reason := reason }) ∧
          (c.ceremony = none → apChecks s.hw (bytes.take 5581) = none → Completes (.hnsApprData p word) s fun h =>
            h.appr p = { stage := .checking } ∧ h.hns.localPass = true ∧ h.hns.peerPass = false ∧
            h.hns.ceremony = some (BitVec.ofNat 3 (apOther s.hw (bytes.take 5581)), bytes.take 5581, some p))))) ∧
    (s.hw.inert = false →
      ((s.hw.link k).st ≠ .up → nothing (.approvalFromPeer link m)) ∧
      ((s.hw.link k).st = .up →
        (c.ceremony = some (b, a, some q) → apLink s.hw a = k → c.peerPass = false →
          (st = 0 → Completes (.approvalFromPeer link [st]) s fun h => h.hns.peerPass = true ∧
            h.appr q = { s.hw.appr q with stage := .exchanging } ∧ h.hns.ceremony = c.ceremony) ∧
          (st ≠ 0 → Completes (.approvalFromPeer link [st]) s fun h => h.hns.ceremony = none ∧
            h.appr q = { stage := .done, result := st, reason := 9 })) ∧
        (c.ceremony = some (b, a, some q) → apLink s.hw a = k → c.peerPass = true →
          (c.localMade = true → Completes (.approvalFromPeer link [0]) s fun h => h.hns.ceremony = none ∧
            h.appr q = { stage := .done }) ∧
          (c.localMade = false → Completes (.approvalFromPeer link [0]) s fun h => h.hns.peerMade = true ∧
            h.hns.ceremony = c.ceremony ∧ h.appr q = s.hw.appr q)) ∧
        (m.length ≠ 1 → room →
          (c.ceremony.isSome = true ∨ ¬inMode → Completes (.approvalFromPeer link m) s fun h => answers h 0xC ∧
            h.hns.ceremony = c.ceremony) ∧
          (c.ceremony = none → inMode → ∀ e r, apChecks s.hw m = some (e, r) → Completes (.approvalFromPeer link m) s fun h =>
            answers h e ∧ h.hns.ceremony = none) ∧
          (c.ceremony = none → inMode → apChecks s.hw m = none → apLink s.hw m = k →
            Completes (.approvalFromPeer link m) s fun h => answers h 0 ∧ h.hns.localPass = true ∧ h.hns.peerPass = true ∧
              h.hns.ceremony = some (BitVec.ofNat 3 (apOther s.hw m), m, none)))) ∧
      (c.ceremony = none → nothing .pairingCommit) ∧
      (c.ceremony = some (b, a, at_) →
        (¬both → nothing .pairingCommit) ∧
        (both → apNoop s.hw a = true → Completes .pairingCommit s fun h => made h ∧ h.active = s.hw.active ∧
          h.seam = s.hw.seam) ∧
        (both → apNoop s.hw a = false → Completes .pairingCommit s fun h => made h ∧
          h.seam.epoch = s.hw.seam.epoch + 1 ∧ h.seam.st = .draining ∧
          tget 0 h.keys.counters 0 = (if domCounter s.hw 0 < apCounter a then apCounter a else domCounter s.hw 0) ∧
          cfgWord h.active base = (if apUnpair a = true then 0 else putb 0 true ||| putb 1 (apMirror a)) ∧
          ∀ o, o / 8 < base / 8 ∨ base / 8 + 7 ≤ o / 8 → cfgWord h.active o = cfgWord s.hw.shadow o)))

/-- Forwarded requests and the mirror pair (R418, R419, R421, R423, R426): a forwarded descriptor waits for
admission; the block it came from reads its lists through its own windows, its completion comes home as the ring's
record, and its withdrawal ends it; the leader of a pair grants leases and both write them; a partner's set is seamed
under its epoch, with this block's own pairing words; convergence takes the larger counters and ends MIRRORED once no
slot of the partner is ahead and a follower has its leader's set. Where the rules leave a choice, it states the
model's, of log entries 41, 47, 85 and 122. -/
def Obligations.PeersShareWork : Prop :=
  ∀ (s : State) (link : BitVec 3) (id : BitVec 8) (domain : BitVec 12) (remain : BitVec 32) (d : Block) (f : Forward) (p c : Nat)
    (wattr : BitVec 4) (addr : Word) (len n : Nat) (end_ own : Bool) (data : Bytes) (status flags : BitVec 8)
    (bytes invocation : Word) (attempts : BitVec 8) (slot : BitVec 17) (lease : BitVec 33) (epoch : BitVec 16) (image digest : Bytes)
    (slots : List (Nat × Word)) (dom : Nat) (counter : Word),
    s.hw.inert = false → s.hw.Settled →
    let l := s.hw.link link.toNat
    let nothing (i : Instr) : Prop := exec i s = s.events (fun h => h)
    let mine : Prop := s.hw.hns.forwards = [f] ∧ f.link = link.toNat ∧ f.id = id.toNat
    let comes : Prop := l.st = .up ∧ s.hw.mc.mode ≠ .seal ∧ peerKnows s.hw link id = false
    let done : Instr := .forwardCompletion link id status flags bytes invocation attempts
    let ask : Bytes := 0 :: leBytes 8 0 ++ leBytes 4 n
    let v := s.hw.slot slot.toNat
    let size := leaseSize v.alg.toNat
    let e := (lease.toNat + 1) * size
    let leads : Prop := s.hw.hns.mirror = .mirrored ∧ mirrorRank s.hw = 0 ∧ leaseSlot s.hw slot.toNat = true ∧ kpLive s.hw = true
    let granted : Prop := s.hw.hns.mirror = .mirrored ∧ leaseSlot s.hw slot.toNat = true
    let entry (h : Hw) : Prop := ∃ w, h.kp.out = [w] ∧ w.cls = 1 ∧ w.addr = 0x200000 + 64 * (slot.toNat / 4)
    let seams : Prop := (s.hw.hns.mirror = .mirrored ∨ s.hw.hns.mirror = .joining) ∧ (s.hw.link 7).st = .up ∧ s.hw.seam.st = .ready
    let converges : Prop := s.hw.hns.mirror = .joining ∧ (s.hw.link 7).st = .up ∧ (s.hw.link 7).keyed = true
    let words := imageHolds image
    let same : Prop := mirrorRank s.hw = 0 ∨ digest = setDigest s.hw
    (comes → Completes (.forwardArrival link id domain remain d) s fun h => h.hns.arrivals = s.hw.hns.arrivals ++ [{
        link := link, id := id, domain := domain, desc := d, t0 := s.hw.clk.core
        deadline := if remain = 0 then none else some (s.hw.clk.core + remain.toNat) }] ∧ h.ctxs = s.hw.ctxs) ∧
    (¬comes → nothing (.forwardArrival link id domain remain d)) ∧
    (l.st ≠ .up → nothing (.forwardData link id data end_)) ∧
    (l.st = .up → mine → f.work = [] → f.inWalk.frags = [⟨addr, len⟩] → f.inWalk.reading = false → f.inWalk.ended = false →
      1 ≤ n → n ≤ len → n ≤ 512 - addr.toNat % 512 → n < 2 ^ 32 → f.req.epoch = s.hw.seam.epoch →
      Reaches s.hw f.req.domain.toNat addr.toNat false p wattr → mmOut s.hw p false < 128 →
      Completes (.forwardData link id ask false) s fun h => h.hns.outbox = s.hw.hns.outbox ∧
        ∃ u, h.mm.txns = s.hw.mm.txns ++ [u] ∧ u.port = p ∧ u.write = false ∧ u.addr = addr.toNat ∧ u.want = n ∧
          u.attr = wattr ∧ u.domain = f.req.domain ∧ u.owner = .forward link.toNat id.toNat 0) ∧
    (l.st = .up → mine → f.work = [] → f.inWalk.frags = [] → f.inWalk.reading = false → f.inWalk.ended = true → n < 2 ^ 32 →
      s.hw.hns.outbox = [] → l.buffer.length < 512 → Completes (.forwardData link id ask false) s fun h =>
        h.mm = s.hw.mm ∧ ∃ q, (h.link link.toNat).buffer = l.buffer ++ [(q, 5, [3, id, 1] ++ leBytes 8 0)]) ∧
    (mine → Completes done s fun h => h.hns.forwards = [] ∧ (h.ring f.ring.toNat).inFlight = (s.hw.ring f.ring.toNat).inFlight - 1 ∧
      ∃ rec deadline, Joins s.hw h (.never f.ring f.req.k rec deadline (some (f.req.admittedAt, reqMask s.hw f.req))) ∧
        rec.status = status ∧ rec.flags = flags ||| 0x20 ∧ rec.bytes = bytes ∧ rec.invocation = invocation ∧
        rec.attempts = attempts ∧ rec.epoch = f.req.epoch) ∧
    (s.hw.hns.forwards = [] → nothing done) ∧
    (peerCtx s.hw link id = none → Completes (.forwardWithdrawal link id) s fun h => h.ctxs = s.hw.ctxs ∧
      h.hns.arrivals = s.hw.hns.arrivals.filter fun a => !(a.link = link && a.id = id)) ∧
    (peerCtx s.hw link id = some c → (s.hw.ctx c).req.isSome = true → (s.hw.ctx c).committed = false →
      (s.hw.ctx c).withdrawn = none → (s.hw.ctx c).noRecord = false → Completes (.forwardWithdrawal link id) s fun h =>
        (h.ctx c).withdrawn = some 0xB ∧ (h.ctx c).st = .quiescing) ∧
    (leads → s.hw.kp.out = [] → s.hw.kp.waiting = [] → Completes (.mirrorLeaseRequest slot) s fun h => entry h ∧
      (h.slot slot.toNat).endLease = v.endLease + size ∧ (h.slot slot.toNat).counter = v.counter ∧
      ((s.hw.link 7).st = .up → s.hw.hns.outbox = [] → (s.hw.link 7).buffer.length < 512 →
        ∃ q, (h.link 7).buffer = (s.hw.link 7).buffer ++ [(q, 6, 2 :: leBytes 8 slot.toNat ++ leBytes 8 (v.endLease + size) ++ [1])])) ∧
    (¬leads → nothing (.mirrorLeaseRequest slot)) ∧
    (granted → kpLive s.hw = true → s.hw.kp.out = [] → s.hw.kp.waiting = [] →
      (own = true → Completes (.mirrorLeaseGrant slot lease own) s fun h => entry h ∧
        h.slot slot.toNat = { v with req := true, reqEnd := e, endLease := e }) ∧
      (own = false → Completes (.mirrorLeaseGrant slot lease own) s fun h => entry h ∧
        h.slot slot.toNat = { v with endLease := max v.endLease e })) ∧
    (¬granted → nothing (.mirrorLeaseGrant slot lease own)) ∧
    (seams → tableWf (0 : Word) s.hw.active = true → Completes (.mirrorSeamImage epoch image) s fun h =>
      h.seam.epoch = epoch ∧ h.seam.st = .draining ∧ h.shadow = s.hw.active ∧
      (∀ o, pairingKey (o / 8) = true → cfgWord h.active o = cfgWord s.hw.active o) ∧
      (∀ o, isShadowed (8 * (o / 8)) = true → pairingKey (o / 8) = false → (∀ g ∈ words, g.1 ≠ o / 8) → cfgWord h.active o = 0) ∧
      ∀ w ∈ words, isShadowed (8 * w.1) = true → pairingKey w.1 = false → (∀ g ∈ words, g.1 = w.1 → g = w) →
        cfgWord h.active (8 * w.1) = w.2) ∧
    (¬seams → nothing (.mirrorSeamImage epoch image)) ∧
    (converges → same → dom < 4096 → Completes (.convergenceDone [(dom, counter)] [] [] [] digest) s fun h => h.hns.mirror = .mirrored ∧
      h.hns.k0 = [] ∧ tget 0 h.keys.counters dom =
        (if tget 0 s.hw.keys.counters dom < counter then counter else tget 0 s.hw.keys.counters dom) ∧
      ∀ a, a ≠ dom → tget 0 h.keys.counters a = tget 0 s.hw.keys.counters a) ∧
    (¬converges ∨ ¬same ∨ (∃ g ∈ slots, (s.hw.slot g.1).updCounter < g.2) →
      nothing (.convergenceDone [(dom, counter)] [] slots [] digest))

/-! ### Registers and the machine -/

/-- Register writes (R5, R306, R307, R358, R372): a narrow or misaligned one is refused in an event; a register that
needs the cinch takes its writable bits from the port that holds it, and a command register's write without it is
denied too; one that needs none takes them from either; a read that is not refused, and a write of a read-only
register, do nothing; a clear of a write-1-to-clear bit takes a clock of its own (log entry 29). -/
def Obligations.RegistersTakeTheirBits : Prop :=
  ∀ (s : State) (p : CtlPort) (offset : BitVec 24) (be : BitVec 8) (v : Word) (n : Nat),
    let writes (off : BitVec 24) (f : Hw → Hw) : Prop := exec (.registerWrite p off 0xFF v false) s = s.writes f
    (Serves s.hw p →
      (offset.toNat % 8 = 0 → exec (.registerWrite p offset 0xFF v true) s = s.writes id) ∧
      (∀ read, be ≠ 0xFF ∨ offset.toNat % 8 ≠ 0 → exec (.registerWrite p offset be v read) s = s.writes fun h =>
        note h (ctlUnit p) 1 (BitVec.ofNat 16 offset.toNat)) ∧
      (offset.toNat % 8 = 0 → cinchCommand offset.toNat = false → regWriteOf p offset.toNat v = none →
        writes offset fun h => h) ∧
      (v.getLsbD 0 = true → writes 0x1020 fun h => { nextClock h with cinch := { h.cinch with broken := false } }) ∧
      (v.getLsbD 9 = true → writes 0x1038 fun h => { nextClock h with seam := { h.seam with editLost := false } }) ∧
      (p = .ctla → writes 0x1040 fun h => { h with viewA := v.getLsbD 0 }) ∧
      (p = .ctlb → writes 0x1040 fun h => { h with viewB := v.getLsbD 0 }) ∧
      (s.hw.ward.errPulse = false → writes 0x7FC0 fun h => { h with
        ward := { h.ward with errLatch := v.getLsbD 1, errLevel := v.getLsbD 0 } }) ∧
      (v.extractLsb' 16 6 ≠ 0 → writes 0x3090 fun h => { nextClock h with
        sec := { h.sec with trips := h.sec.trips &&& ~~~(v.extractLsb' 16 6) } }) ∧
      (v.getLsbD 5 = true ∨ v.getLsbD 3 = true → writes 0x9000 fun h => { nextClock h with recd := { h.recd with
        lost := h.recd.lost && !v.getLsbD 5, autoThaw := h.recd.autoThaw && !v.getLsbD 3 } })) ∧
    (Masters s.hw p →
      writes 0x1018 (fun h => { h with cinch := { h.cinch with lease := v &&& 0x3FFF } }) ∧
      writes 0x2010 (fun h => { h with mc := { h.mc with cfg := v &&& 0xFFFF } }) ∧
      writes 0x3030 (fun h => { h with sec := { h.sec with pwrCfg := v &&& 0xFFFFFFFF } }) ∧
      writes 0x8008 (fun h => { h with cen := { h.cen with cfg := v &&& 0x3FFFF } }) ∧
      writes 0xA000 (fun h => { h with kp := { h.kp with cfg := v &&& 0xFFFF0000FFFF } }) ∧
      writes 0xD000 (fun h => { h with ucode := { h.ucode with addr := v &&& ~~~0x3F#64 } }) ∧
      writes 0xE008 (fun h => { h with board := { h.board with ctl := v &&& 1 } }) ∧
      writes 0x10000 (fun h => { h with trapq := { h.trapq with cfg := v &&& 0x1FFFF } }) ∧
      writes 0xE0000 (fun h => { h with awlLoad := v.getLsbD 0 }) ∧
      writes 0xF0000 (fun h => { h with rm := { h.rm with cfg := v &&& 0xFFFF } }) ∧
      (n < 32 → writes (BitVec.ofNat 24 (0x60000 + 0x100 * n)) fun h => h.modMmp n fun m => { m with cfg := v &&& 0xFFFF }) ∧
      (n < 256 → Completes (.registerWrite p (BitVec.ofNat 24 (0xF000 + 8 * n)) 0xFF v false) s fun h =>
        (tget {} h.board.entries n).own = v &&& 0x8000000000000FFF ∧
        ∀ a, a ≠ n → tget {} h.board.entries a = tget ({} : BoardEntry) s.hw.board.entries a)) ∧
    (Serves s.hw p → s.hw.cinch.owner ≠ some p → ∀ off : BitVec 24,
      off = 0x1018 ∨ off = 0x2010 ∨ off = 0x3030 ∨ off = 0x8008 ∨ off = 0xA000 ∨ off = 0xD000 ∨ off = 0xE008 ∨ off = 0x10000 ∨
        off = 0xE0000 ∨ off = 0xF0000 ∨ off.toNat % 8 = 0 ∧ cinchCommand off.toNat = true →
      Completes (.registerWrite p off 0xFF v false) s fun h => h.mc = s.hw.mc ∧ h.kp = s.hw.kp ∧ h.cen = s.hw.cen ∧
        h.cinch = (match p with
          | .ctla => { s.hw.cinch with deniedA := satInc s.hw.cinch.deniedA }
          | .ctlb => { s.hw.cinch with deniedB := satInc s.hw.cinch.deniedB }))

/-- A step runs the command at the front of the queue, with the queue's rest; on an empty queue the model lets one
core clock pass (log 2), which leaves the contexts, the key slots, the configuration and the mode, and the rings too
unless a doorbell is held back at a port. -/
def Obligations.StepRunsTheFront : Prop :=
  ∀ (s : State) (c : Instr),
    step { s with pending := c :: s.pending } = exec c s ∧
    ∃ h, step { s with pending := [] } = .next { hw := h, pending := [] } ∧ h.clk.core = s.hw.clk.core + 1 ∧
      (h.clk.aon = s.hw.clk.aon ∨ h.clk.aon = s.hw.clk.aon + 1) ∧ h.ctxs = s.hw.ctxs ∧
      ((∀ e ∈ s.hw.dbs, e.2.held = []) → h.rings = s.hw.rings) ∧ h.keys.slots = s.hw.keys.slots ∧ h.active = s.hw.active ∧ h.shadow = s.hw.shadow ∧ h.mc = s.hw.mc ∧ h.cs = s.hw.cs

/-- The machine after reset (R23, R322, R372): Cold, no command waits, the cinch is free, both sets hold domain 0
valid and the recorder's policy, no unit is fenced, no slot is held, and every record that is ready stands on the
ready list. -/
def Obligations.ResetLeaves : Prop :=
  State.reset.pending = [] ∧ State.reset.hw.mc.mode = .cold ∧ State.reset.hw.cinch.owner = none ∧
  State.reset.hw.active = State.reset.hw.shadow ∧ domValid State.reset.hw.active 0 = true ∧
  (∀ d, d ≠ 0 → domValid State.reset.hw.active d = false) ∧ (∀ n, ringEn State.reset.hw.active n = false) ∧
  cfgWord State.reset.hw.active 0x9010 = 0x00000A0800000E10 ∧ (∀ u, State.reset.hw.fenced u = false) ∧
  State.reset.hw.keys.slots = [] ∧ State.reset.hw.ctxs = [] ∧ State.reset.hw.jobs = [] ∧
  (∀ b, tget BufState.free State.reset.hw.cs.bufs b = .free) ∧ State.reset.hw.Settled

/-- An invariant of every step: a record that is ready to commit stands on the ready list (R55). -/
def Obligations.ReadyRecordsStayListed : Prop :=
  ∀ (s t : State), s.hw.Settled → step s = .next t → t.hw.Settled

/-- Held is left by a power-on reset alone, or by the loss of both supplies (R337, R356): from Held every other
command leaves the mode, both configuration sets and every ring as they are. -/
def Obligations.HeldIsLeftByResetAlone : Prop :=
  ∀ (s t : State), s.hw.mc.mode = .held → s.pending.head? ≠ some .porAssert → s.pending.head? ≠ some (.supplyRemoved true) →
    step s = .next t → t.hw.mc.mode = .held ∧ t.hw.inert = true ∧ t.hw.active = s.hw.active ∧ t.hw.shadow = s.hw.shadow ∧
      t.hw.rings = s.hw.rings
end

