-- ==== Sys2Proof/Laws/State.lean ====
section
/-! SUPPORT. One lemma for each field of the block and each named update of it: the fields an update leaves alone. A step over
named updates then simplifies without unfolding a record. -/

namespace Sys2Proof.Machine

/-! ### Hw.setCtx -/

@[simp] theorem Hw.setCtx_clk (s : Hw) (c : Nat) (x : Ctx) : (s.setCtx c x).clk = s.clk := rfl
@[simp] theorem Hw.setCtx_mc (s : Hw) (c : Nat) (x : Ctx) : (s.setCtx c x).mc = s.mc := rfl
@[simp] theorem Hw.setCtx_cinch (s : Hw) (c : Nat) (x : Ctx) : (s.setCtx c x).cinch = s.cinch := rfl
@[simp] theorem Hw.setCtx_seam (s : Hw) (c : Nat) (x : Ctx) : (s.setCtx c x).seam = s.seam := rfl
@[simp] theorem Hw.setCtx_active (s : Hw) (c : Nat) (x : Ctx) : (s.setCtx c x).active = s.active := rfl
@[simp] theorem Hw.setCtx_shadow (s : Hw) (c : Nat) (x : Ctx) : (s.setCtx c x).shadow = s.shadow := rfl
@[simp] theorem Hw.setCtx_rings (s : Hw) (c : Nat) (x : Ctx) : (s.setCtx c x).rings = s.rings := rfl
@[simp] theorem Hw.setCtx_rm (s : Hw) (c : Nat) (x : Ctx) : (s.setCtx c x).rm = s.rm := rfl
@[simp] theorem Hw.setCtx_dbs (s : Hw) (c : Nat) (x : Ctx) : (s.setCtx c x).dbs = s.dbs := rfl
@[simp] theorem Hw.setCtx_jobs (s : Hw) (c : Nat) (x : Ctx) : (s.setCtx c x).jobs = s.jobs := rfl
@[simp] theorem Hw.setCtx_jobSeq (s : Hw) (c : Nat) (x : Ctx) : (s.setCtx c x).jobSeq = s.jobSeq := rfl
@[simp] theorem Hw.setCtx_trapq (s : Hw) (c : Nat) (x : Ctx) : (s.setCtx c x).trapq = s.trapq := rfl
@[simp] theorem Hw.setCtx_awlLoad (s : Hw) (c : Nat) (x : Ctx) : (s.setCtx c x).awlLoad = s.awlLoad := rfl
@[simp] theorem Hw.setCtx_libBad (s : Hw) (c : Nat) (x : Ctx) : (s.setCtx c x).libBad = s.libBad := rfl
@[simp] theorem Hw.setCtx_cs (s : Hw) (c : Nat) (x : Ctx) : (s.setCtx c x).cs = s.cs := rfl
@[simp] theorem Hw.setCtx_pairs (s : Hw) (c : Nat) (x : Ctx) : (s.setCtx c x).pairs = s.pairs := rfl
@[simp] theorem Hw.setCtx_digs (s : Hw) (c : Nat) (x : Ctx) : (s.setCtx c x).digs = s.digs := rfl
@[simp] theorem Hw.setCtx_board (s : Hw) (c : Nat) (x : Ctx) : (s.setCtx c x).board = s.board := rfl
@[simp] theorem Hw.setCtx_pkb (s : Hw) (c : Nat) (x : Ctx) : (s.setCtx c x).pkb = s.pkb := rfl
@[simp] theorem Hw.setCtx_pku (s : Hw) (c : Nat) (x : Ctx) : (s.setCtx c x).pku = s.pku := rfl
@[simp] theorem Hw.setCtx_ucode (s : Hw) (c : Nat) (x : Ctx) : (s.setCtx c x).ucode = s.ucode := rfl
@[simp] theorem Hw.setCtx_keys (s : Hw) (c : Nat) (x : Ctx) : (s.setCtx c x).keys = s.keys := rfl
@[simp] theorem Hw.setCtx_kp (s : Hw) (c : Nat) (x : Ctx) : (s.setCtx c x).kp = s.kp := rfl
@[simp] theorem Hw.setCtx_mm (s : Hw) (c : Nat) (x : Ctx) : (s.setCtx c x).mm = s.mm := rfl
@[simp] theorem Hw.setCtx_flt (s : Hw) (c : Nat) (x : Ctx) : (s.setCtx c x).flt = s.flt := rfl
@[simp] theorem Hw.setCtx_ward (s : Hw) (c : Nat) (x : Ctx) : (s.setCtx c x).ward = s.ward := rfl
@[simp] theorem Hw.setCtx_recd (s : Hw) (c : Nat) (x : Ctx) : (s.setCtx c x).recd = s.recd := rfl
@[simp] theorem Hw.setCtx_cen (s : Hw) (c : Nat) (x : Ctx) : (s.setCtx c x).cen = s.cen := rfl
@[simp] theorem Hw.setCtx_sec (s : Hw) (c : Nat) (x : Ctx) : (s.setCtx c x).sec = s.sec := rfl
@[simp] theorem Hw.setCtx_hns (s : Hw) (c : Nat) (x : Ctx) : (s.setCtx c x).hns = s.hns := rfl
@[simp] theorem Hw.setCtx_tap (s : Hw) (c : Nat) (x : Ctx) : (s.setCtx c x).tap = s.tap := rfl
@[simp] theorem Hw.setCtx_viewA (s : Hw) (c : Nat) (x : Ctx) : (s.setCtx c x).viewA = s.viewA := rfl
@[simp] theorem Hw.setCtx_viewB (s : Hw) (c : Nat) (x : Ctx) : (s.setCtx c x).viewB = s.viewB := rfl
@[simp] theorem Hw.setCtx_dselA (s : Hw) (c : Nat) (x : Ctx) : (s.setCtx c x).dselA = s.dselA := rfl
@[simp] theorem Hw.setCtx_dselB (s : Hw) (c : Nat) (x : Ctx) : (s.setCtx c x).dselB = s.dselB := rfl
@[simp] theorem Hw.setCtx_freeCount (s : Hw) (c : Nat) (x : Ctx) : (s.setCtx c x).freeCount = s.freeCount := rfl

/-! ### Hw.modCtx -/

@[simp] theorem Hw.modCtx_clk (s : Hw) (c : Nat) (f : Ctx → Ctx) : (s.modCtx c f).clk = s.clk := rfl
@[simp] theorem Hw.modCtx_mc (s : Hw) (c : Nat) (f : Ctx → Ctx) : (s.modCtx c f).mc = s.mc := rfl
@[simp] theorem Hw.modCtx_cinch (s : Hw) (c : Nat) (f : Ctx → Ctx) : (s.modCtx c f).cinch = s.cinch := rfl
@[simp] theorem Hw.modCtx_seam (s : Hw) (c : Nat) (f : Ctx → Ctx) : (s.modCtx c f).seam = s.seam := rfl
@[simp] theorem Hw.modCtx_active (s : Hw) (c : Nat) (f : Ctx → Ctx) : (s.modCtx c f).active = s.active := rfl
@[simp] theorem Hw.modCtx_shadow (s : Hw) (c : Nat) (f : Ctx → Ctx) : (s.modCtx c f).shadow = s.shadow := rfl
@[simp] theorem Hw.modCtx_rings (s : Hw) (c : Nat) (f : Ctx → Ctx) : (s.modCtx c f).rings = s.rings := rfl
@[simp] theorem Hw.modCtx_rm (s : Hw) (c : Nat) (f : Ctx → Ctx) : (s.modCtx c f).rm = s.rm := rfl
@[simp] theorem Hw.modCtx_dbs (s : Hw) (c : Nat) (f : Ctx → Ctx) : (s.modCtx c f).dbs = s.dbs := rfl
@[simp] theorem Hw.modCtx_jobs (s : Hw) (c : Nat) (f : Ctx → Ctx) : (s.modCtx c f).jobs = s.jobs := rfl
@[simp] theorem Hw.modCtx_jobSeq (s : Hw) (c : Nat) (f : Ctx → Ctx) : (s.modCtx c f).jobSeq = s.jobSeq := rfl
@[simp] theorem Hw.modCtx_trapq (s : Hw) (c : Nat) (f : Ctx → Ctx) : (s.modCtx c f).trapq = s.trapq := rfl
@[simp] theorem Hw.modCtx_awlLoad (s : Hw) (c : Nat) (f : Ctx → Ctx) : (s.modCtx c f).awlLoad = s.awlLoad := rfl
@[simp] theorem Hw.modCtx_libBad (s : Hw) (c : Nat) (f : Ctx → Ctx) : (s.modCtx c f).libBad = s.libBad := rfl
@[simp] theorem Hw.modCtx_cs (s : Hw) (c : Nat) (f : Ctx → Ctx) : (s.modCtx c f).cs = s.cs := rfl
@[simp] theorem Hw.modCtx_pairs (s : Hw) (c : Nat) (f : Ctx → Ctx) : (s.modCtx c f).pairs = s.pairs := rfl
@[simp] theorem Hw.modCtx_digs (s : Hw) (c : Nat) (f : Ctx → Ctx) : (s.modCtx c f).digs = s.digs := rfl
@[simp] theorem Hw.modCtx_board (s : Hw) (c : Nat) (f : Ctx → Ctx) : (s.modCtx c f).board = s.board := rfl
@[simp] theorem Hw.modCtx_pkb (s : Hw) (c : Nat) (f : Ctx → Ctx) : (s.modCtx c f).pkb = s.pkb := rfl
@[simp] theorem Hw.modCtx_pku (s : Hw) (c : Nat) (f : Ctx → Ctx) : (s.modCtx c f).pku = s.pku := rfl
@[simp] theorem Hw.modCtx_ucode (s : Hw) (c : Nat) (f : Ctx → Ctx) : (s.modCtx c f).ucode = s.ucode := rfl
@[simp] theorem Hw.modCtx_keys (s : Hw) (c : Nat) (f : Ctx → Ctx) : (s.modCtx c f).keys = s.keys := rfl
@[simp] theorem Hw.modCtx_kp (s : Hw) (c : Nat) (f : Ctx → Ctx) : (s.modCtx c f).kp = s.kp := rfl
@[simp] theorem Hw.modCtx_mm (s : Hw) (c : Nat) (f : Ctx → Ctx) : (s.modCtx c f).mm = s.mm := rfl
@[simp] theorem Hw.modCtx_flt (s : Hw) (c : Nat) (f : Ctx → Ctx) : (s.modCtx c f).flt = s.flt := rfl
@[simp] theorem Hw.modCtx_ward (s : Hw) (c : Nat) (f : Ctx → Ctx) : (s.modCtx c f).ward = s.ward := rfl
@[simp] theorem Hw.modCtx_recd (s : Hw) (c : Nat) (f : Ctx → Ctx) : (s.modCtx c f).recd = s.recd := rfl
@[simp] theorem Hw.modCtx_cen (s : Hw) (c : Nat) (f : Ctx → Ctx) : (s.modCtx c f).cen = s.cen := rfl
@[simp] theorem Hw.modCtx_sec (s : Hw) (c : Nat) (f : Ctx → Ctx) : (s.modCtx c f).sec = s.sec := rfl
@[simp] theorem Hw.modCtx_hns (s : Hw) (c : Nat) (f : Ctx → Ctx) : (s.modCtx c f).hns = s.hns := rfl
@[simp] theorem Hw.modCtx_tap (s : Hw) (c : Nat) (f : Ctx → Ctx) : (s.modCtx c f).tap = s.tap := rfl
@[simp] theorem Hw.modCtx_viewA (s : Hw) (c : Nat) (f : Ctx → Ctx) : (s.modCtx c f).viewA = s.viewA := rfl
@[simp] theorem Hw.modCtx_viewB (s : Hw) (c : Nat) (f : Ctx → Ctx) : (s.modCtx c f).viewB = s.viewB := rfl
@[simp] theorem Hw.modCtx_dselA (s : Hw) (c : Nat) (f : Ctx → Ctx) : (s.modCtx c f).dselA = s.dselA := rfl
@[simp] theorem Hw.modCtx_dselB (s : Hw) (c : Nat) (f : Ctx → Ctx) : (s.modCtx c f).dselB = s.dselB := rfl
@[simp] theorem Hw.modCtx_freeCount (s : Hw) (c : Nat) (f : Ctx → Ctx) : (s.modCtx c f).freeCount = s.freeCount := rfl

/-! ### Hw.setJob -/

@[simp] theorem Hw.setJob_clk (s : Hw) (k : Nat) (j : Job) : (s.setJob k j).clk = s.clk := rfl
@[simp] theorem Hw.setJob_mc (s : Hw) (k : Nat) (j : Job) : (s.setJob k j).mc = s.mc := rfl
@[simp] theorem Hw.setJob_cinch (s : Hw) (k : Nat) (j : Job) : (s.setJob k j).cinch = s.cinch := rfl
@[simp] theorem Hw.setJob_seam (s : Hw) (k : Nat) (j : Job) : (s.setJob k j).seam = s.seam := rfl
@[simp] theorem Hw.setJob_active (s : Hw) (k : Nat) (j : Job) : (s.setJob k j).active = s.active := rfl
@[simp] theorem Hw.setJob_shadow (s : Hw) (k : Nat) (j : Job) : (s.setJob k j).shadow = s.shadow := rfl
@[simp] theorem Hw.setJob_rings (s : Hw) (k : Nat) (j : Job) : (s.setJob k j).rings = s.rings := rfl
@[simp] theorem Hw.setJob_rm (s : Hw) (k : Nat) (j : Job) : (s.setJob k j).rm = s.rm := rfl
@[simp] theorem Hw.setJob_dbs (s : Hw) (k : Nat) (j : Job) : (s.setJob k j).dbs = s.dbs := rfl
@[simp] theorem Hw.setJob_ctxs (s : Hw) (k : Nat) (j : Job) : (s.setJob k j).ctxs = s.ctxs := rfl
@[simp] theorem Hw.setJob_jobSeq (s : Hw) (k : Nat) (j : Job) : (s.setJob k j).jobSeq = s.jobSeq := rfl
@[simp] theorem Hw.setJob_trapq (s : Hw) (k : Nat) (j : Job) : (s.setJob k j).trapq = s.trapq := rfl
@[simp] theorem Hw.setJob_awlLoad (s : Hw) (k : Nat) (j : Job) : (s.setJob k j).awlLoad = s.awlLoad := rfl
@[simp] theorem Hw.setJob_libBad (s : Hw) (k : Nat) (j : Job) : (s.setJob k j).libBad = s.libBad := rfl
@[simp] theorem Hw.setJob_cs (s : Hw) (k : Nat) (j : Job) : (s.setJob k j).cs = s.cs := rfl
@[simp] theorem Hw.setJob_pairs (s : Hw) (k : Nat) (j : Job) : (s.setJob k j).pairs = s.pairs := rfl
@[simp] theorem Hw.setJob_digs (s : Hw) (k : Nat) (j : Job) : (s.setJob k j).digs = s.digs := rfl
@[simp] theorem Hw.setJob_board (s : Hw) (k : Nat) (j : Job) : (s.setJob k j).board = s.board := rfl
@[simp] theorem Hw.setJob_pkb (s : Hw) (k : Nat) (j : Job) : (s.setJob k j).pkb = s.pkb := rfl
@[simp] theorem Hw.setJob_pku (s : Hw) (k : Nat) (j : Job) : (s.setJob k j).pku = s.pku := rfl
@[simp] theorem Hw.setJob_ucode (s : Hw) (k : Nat) (j : Job) : (s.setJob k j).ucode = s.ucode := rfl
@[simp] theorem Hw.setJob_keys (s : Hw) (k : Nat) (j : Job) : (s.setJob k j).keys = s.keys := rfl
@[simp] theorem Hw.setJob_kp (s : Hw) (k : Nat) (j : Job) : (s.setJob k j).kp = s.kp := rfl
@[simp] theorem Hw.setJob_mm (s : Hw) (k : Nat) (j : Job) : (s.setJob k j).mm = s.mm := rfl
@[simp] theorem Hw.setJob_flt (s : Hw) (k : Nat) (j : Job) : (s.setJob k j).flt = s.flt := rfl
@[simp] theorem Hw.setJob_ward (s : Hw) (k : Nat) (j : Job) : (s.setJob k j).ward = s.ward := rfl
@[simp] theorem Hw.setJob_recd (s : Hw) (k : Nat) (j : Job) : (s.setJob k j).recd = s.recd := rfl
@[simp] theorem Hw.setJob_cen (s : Hw) (k : Nat) (j : Job) : (s.setJob k j).cen = s.cen := rfl
@[simp] theorem Hw.setJob_sec (s : Hw) (k : Nat) (j : Job) : (s.setJob k j).sec = s.sec := rfl
@[simp] theorem Hw.setJob_hns (s : Hw) (k : Nat) (j : Job) : (s.setJob k j).hns = s.hns := rfl
@[simp] theorem Hw.setJob_tap (s : Hw) (k : Nat) (j : Job) : (s.setJob k j).tap = s.tap := rfl
@[simp] theorem Hw.setJob_viewA (s : Hw) (k : Nat) (j : Job) : (s.setJob k j).viewA = s.viewA := rfl
@[simp] theorem Hw.setJob_viewB (s : Hw) (k : Nat) (j : Job) : (s.setJob k j).viewB = s.viewB := rfl
@[simp] theorem Hw.setJob_dselA (s : Hw) (k : Nat) (j : Job) : (s.setJob k j).dselA = s.dselA := rfl
@[simp] theorem Hw.setJob_dselB (s : Hw) (k : Nat) (j : Job) : (s.setJob k j).dselB = s.dselB := rfl
@[simp] theorem Hw.setJob_freeCount (s : Hw) (k : Nat) (j : Job) : (s.setJob k j).freeCount = s.freeCount := rfl

/-! ### Hw.delJob -/

@[simp] theorem Hw.delJob_clk (s : Hw) (k : Nat) : (s.delJob k).clk = s.clk := rfl
@[simp] theorem Hw.delJob_mc (s : Hw) (k : Nat) : (s.delJob k).mc = s.mc := rfl
@[simp] theorem Hw.delJob_cinch (s : Hw) (k : Nat) : (s.delJob k).cinch = s.cinch := rfl
@[simp] theorem Hw.delJob_seam (s : Hw) (k : Nat) : (s.delJob k).seam = s.seam := rfl
@[simp] theorem Hw.delJob_active (s : Hw) (k : Nat) : (s.delJob k).active = s.active := rfl
@[simp] theorem Hw.delJob_shadow (s : Hw) (k : Nat) : (s.delJob k).shadow = s.shadow := rfl
@[simp] theorem Hw.delJob_rings (s : Hw) (k : Nat) : (s.delJob k).rings = s.rings := rfl
@[simp] theorem Hw.delJob_rm (s : Hw) (k : Nat) : (s.delJob k).rm = s.rm := rfl
@[simp] theorem Hw.delJob_dbs (s : Hw) (k : Nat) : (s.delJob k).dbs = s.dbs := rfl
@[simp] theorem Hw.delJob_ctxs (s : Hw) (k : Nat) : (s.delJob k).ctxs = s.ctxs := rfl
@[simp] theorem Hw.delJob_jobSeq (s : Hw) (k : Nat) : (s.delJob k).jobSeq = s.jobSeq := rfl
@[simp] theorem Hw.delJob_trapq (s : Hw) (k : Nat) : (s.delJob k).trapq = s.trapq := rfl
@[simp] theorem Hw.delJob_awlLoad (s : Hw) (k : Nat) : (s.delJob k).awlLoad = s.awlLoad := rfl
@[simp] theorem Hw.delJob_libBad (s : Hw) (k : Nat) : (s.delJob k).libBad = s.libBad := rfl
@[simp] theorem Hw.delJob_cs (s : Hw) (k : Nat) : (s.delJob k).cs = s.cs := rfl
@[simp] theorem Hw.delJob_pairs (s : Hw) (k : Nat) : (s.delJob k).pairs = s.pairs := rfl
@[simp] theorem Hw.delJob_digs (s : Hw) (k : Nat) : (s.delJob k).digs = s.digs := rfl
@[simp] theorem Hw.delJob_board (s : Hw) (k : Nat) : (s.delJob k).board = s.board := rfl
@[simp] theorem Hw.delJob_pkb (s : Hw) (k : Nat) : (s.delJob k).pkb = s.pkb := rfl
@[simp] theorem Hw.delJob_pku (s : Hw) (k : Nat) : (s.delJob k).pku = s.pku := rfl
@[simp] theorem Hw.delJob_ucode (s : Hw) (k : Nat) : (s.delJob k).ucode = s.ucode := rfl
@[simp] theorem Hw.delJob_keys (s : Hw) (k : Nat) : (s.delJob k).keys = s.keys := rfl
@[simp] theorem Hw.delJob_kp (s : Hw) (k : Nat) : (s.delJob k).kp = s.kp := rfl
@[simp] theorem Hw.delJob_mm (s : Hw) (k : Nat) : (s.delJob k).mm = s.mm := rfl
@[simp] theorem Hw.delJob_flt (s : Hw) (k : Nat) : (s.delJob k).flt = s.flt := rfl
@[simp] theorem Hw.delJob_ward (s : Hw) (k : Nat) : (s.delJob k).ward = s.ward := rfl
@[simp] theorem Hw.delJob_recd (s : Hw) (k : Nat) : (s.delJob k).recd = s.recd := rfl
@[simp] theorem Hw.delJob_cen (s : Hw) (k : Nat) : (s.delJob k).cen = s.cen := rfl
@[simp] theorem Hw.delJob_sec (s : Hw) (k : Nat) : (s.delJob k).sec = s.sec := rfl
@[simp] theorem Hw.delJob_hns (s : Hw) (k : Nat) : (s.delJob k).hns = s.hns := rfl
@[simp] theorem Hw.delJob_tap (s : Hw) (k : Nat) : (s.delJob k).tap = s.tap := rfl
@[simp] theorem Hw.delJob_viewA (s : Hw) (k : Nat) : (s.delJob k).viewA = s.viewA := rfl
@[simp] theorem Hw.delJob_viewB (s : Hw) (k : Nat) : (s.delJob k).viewB = s.viewB := rfl
@[simp] theorem Hw.delJob_dselA (s : Hw) (k : Nat) : (s.delJob k).dselA = s.dselA := rfl
@[simp] theorem Hw.delJob_dselB (s : Hw) (k : Nat) : (s.delJob k).dselB = s.dselB := rfl
@[simp] theorem Hw.delJob_freeCount (s : Hw) (k : Nat) : (s.delJob k).freeCount = s.freeCount := rfl

/-! ### Hw.modBlk -/

@[simp] theorem Hw.modBlk_clk (s : Hw) (u : Nat) (f : FltBlock → FltBlock) : (s.modBlk u f).clk = s.clk := rfl
@[simp] theorem Hw.modBlk_mc (s : Hw) (u : Nat) (f : FltBlock → FltBlock) : (s.modBlk u f).mc = s.mc := rfl
@[simp] theorem Hw.modBlk_cinch (s : Hw) (u : Nat) (f : FltBlock → FltBlock) : (s.modBlk u f).cinch = s.cinch := rfl
@[simp] theorem Hw.modBlk_seam (s : Hw) (u : Nat) (f : FltBlock → FltBlock) : (s.modBlk u f).seam = s.seam := rfl
@[simp] theorem Hw.modBlk_active (s : Hw) (u : Nat) (f : FltBlock → FltBlock) : (s.modBlk u f).active = s.active := rfl
@[simp] theorem Hw.modBlk_shadow (s : Hw) (u : Nat) (f : FltBlock → FltBlock) : (s.modBlk u f).shadow = s.shadow := rfl
@[simp] theorem Hw.modBlk_rings (s : Hw) (u : Nat) (f : FltBlock → FltBlock) : (s.modBlk u f).rings = s.rings := rfl
@[simp] theorem Hw.modBlk_rm (s : Hw) (u : Nat) (f : FltBlock → FltBlock) : (s.modBlk u f).rm = s.rm := rfl
@[simp] theorem Hw.modBlk_dbs (s : Hw) (u : Nat) (f : FltBlock → FltBlock) : (s.modBlk u f).dbs = s.dbs := rfl
@[simp] theorem Hw.modBlk_ctxs (s : Hw) (u : Nat) (f : FltBlock → FltBlock) : (s.modBlk u f).ctxs = s.ctxs := rfl
@[simp] theorem Hw.modBlk_jobs (s : Hw) (u : Nat) (f : FltBlock → FltBlock) : (s.modBlk u f).jobs = s.jobs := rfl
@[simp] theorem Hw.modBlk_jobSeq (s : Hw) (u : Nat) (f : FltBlock → FltBlock) : (s.modBlk u f).jobSeq = s.jobSeq := rfl
@[simp] theorem Hw.modBlk_trapq (s : Hw) (u : Nat) (f : FltBlock → FltBlock) : (s.modBlk u f).trapq = s.trapq := rfl
@[simp] theorem Hw.modBlk_awlLoad (s : Hw) (u : Nat) (f : FltBlock → FltBlock) : (s.modBlk u f).awlLoad = s.awlLoad := rfl
@[simp] theorem Hw.modBlk_libBad (s : Hw) (u : Nat) (f : FltBlock → FltBlock) : (s.modBlk u f).libBad = s.libBad := rfl
@[simp] theorem Hw.modBlk_cs (s : Hw) (u : Nat) (f : FltBlock → FltBlock) : (s.modBlk u f).cs = s.cs := rfl
@[simp] theorem Hw.modBlk_pairs (s : Hw) (u : Nat) (f : FltBlock → FltBlock) : (s.modBlk u f).pairs = s.pairs := rfl
@[simp] theorem Hw.modBlk_digs (s : Hw) (u : Nat) (f : FltBlock → FltBlock) : (s.modBlk u f).digs = s.digs := rfl
@[simp] theorem Hw.modBlk_board (s : Hw) (u : Nat) (f : FltBlock → FltBlock) : (s.modBlk u f).board = s.board := rfl
@[simp] theorem Hw.modBlk_pkb (s : Hw) (u : Nat) (f : FltBlock → FltBlock) : (s.modBlk u f).pkb = s.pkb := rfl
@[simp] theorem Hw.modBlk_pku (s : Hw) (u : Nat) (f : FltBlock → FltBlock) : (s.modBlk u f).pku = s.pku := rfl
@[simp] theorem Hw.modBlk_ucode (s : Hw) (u : Nat) (f : FltBlock → FltBlock) : (s.modBlk u f).ucode = s.ucode := rfl
@[simp] theorem Hw.modBlk_keys (s : Hw) (u : Nat) (f : FltBlock → FltBlock) : (s.modBlk u f).keys = s.keys := rfl
@[simp] theorem Hw.modBlk_kp (s : Hw) (u : Nat) (f : FltBlock → FltBlock) : (s.modBlk u f).kp = s.kp := rfl
@[simp] theorem Hw.modBlk_mm (s : Hw) (u : Nat) (f : FltBlock → FltBlock) : (s.modBlk u f).mm = s.mm := rfl
@[simp] theorem Hw.modBlk_ward (s : Hw) (u : Nat) (f : FltBlock → FltBlock) : (s.modBlk u f).ward = s.ward := rfl
@[simp] theorem Hw.modBlk_recd (s : Hw) (u : Nat) (f : FltBlock → FltBlock) : (s.modBlk u f).recd = s.recd := rfl
@[simp] theorem Hw.modBlk_cen (s : Hw) (u : Nat) (f : FltBlock → FltBlock) : (s.modBlk u f).cen = s.cen := rfl
@[simp] theorem Hw.modBlk_sec (s : Hw) (u : Nat) (f : FltBlock → FltBlock) : (s.modBlk u f).sec = s.sec := rfl
@[simp] theorem Hw.modBlk_hns (s : Hw) (u : Nat) (f : FltBlock → FltBlock) : (s.modBlk u f).hns = s.hns := rfl
@[simp] theorem Hw.modBlk_tap (s : Hw) (u : Nat) (f : FltBlock → FltBlock) : (s.modBlk u f).tap = s.tap := rfl
@[simp] theorem Hw.modBlk_viewA (s : Hw) (u : Nat) (f : FltBlock → FltBlock) : (s.modBlk u f).viewA = s.viewA := rfl
@[simp] theorem Hw.modBlk_viewB (s : Hw) (u : Nat) (f : FltBlock → FltBlock) : (s.modBlk u f).viewB = s.viewB := rfl
@[simp] theorem Hw.modBlk_dselA (s : Hw) (u : Nat) (f : FltBlock → FltBlock) : (s.modBlk u f).dselA = s.dselA := rfl
@[simp] theorem Hw.modBlk_dselB (s : Hw) (u : Nat) (f : FltBlock → FltBlock) : (s.modBlk u f).dselB = s.dselB := rfl
@[simp] theorem Hw.modBlk_freeCount (s : Hw) (u : Nat) (f : FltBlock → FltBlock) : (s.modBlk u f).freeCount = s.freeCount := rfl

/-! ### Hw.modRing -/

@[simp] theorem Hw.modRing_clk (s : Hw) (n : Nat) (f : Ring → Ring) : (s.modRing n f).clk = s.clk := rfl
@[simp] theorem Hw.modRing_mc (s : Hw) (n : Nat) (f : Ring → Ring) : (s.modRing n f).mc = s.mc := rfl
@[simp] theorem Hw.modRing_cinch (s : Hw) (n : Nat) (f : Ring → Ring) : (s.modRing n f).cinch = s.cinch := rfl
@[simp] theorem Hw.modRing_seam (s : Hw) (n : Nat) (f : Ring → Ring) : (s.modRing n f).seam = s.seam := rfl
@[simp] theorem Hw.modRing_active (s : Hw) (n : Nat) (f : Ring → Ring) : (s.modRing n f).active = s.active := rfl
@[simp] theorem Hw.modRing_shadow (s : Hw) (n : Nat) (f : Ring → Ring) : (s.modRing n f).shadow = s.shadow := rfl
@[simp] theorem Hw.modRing_rm (s : Hw) (n : Nat) (f : Ring → Ring) : (s.modRing n f).rm = s.rm := rfl
@[simp] theorem Hw.modRing_dbs (s : Hw) (n : Nat) (f : Ring → Ring) : (s.modRing n f).dbs = s.dbs := rfl
@[simp] theorem Hw.modRing_ctxs (s : Hw) (n : Nat) (f : Ring → Ring) : (s.modRing n f).ctxs = s.ctxs := rfl
@[simp] theorem Hw.modRing_jobs (s : Hw) (n : Nat) (f : Ring → Ring) : (s.modRing n f).jobs = s.jobs := rfl
@[simp] theorem Hw.modRing_jobSeq (s : Hw) (n : Nat) (f : Ring → Ring) : (s.modRing n f).jobSeq = s.jobSeq := rfl
@[simp] theorem Hw.modRing_trapq (s : Hw) (n : Nat) (f : Ring → Ring) : (s.modRing n f).trapq = s.trapq := rfl
@[simp] theorem Hw.modRing_awlLoad (s : Hw) (n : Nat) (f : Ring → Ring) : (s.modRing n f).awlLoad = s.awlLoad := rfl
@[simp] theorem Hw.modRing_libBad (s : Hw) (n : Nat) (f : Ring → Ring) : (s.modRing n f).libBad = s.libBad := rfl
@[simp] theorem Hw.modRing_cs (s : Hw) (n : Nat) (f : Ring → Ring) : (s.modRing n f).cs = s.cs := rfl
@[simp] theorem Hw.modRing_pairs (s : Hw) (n : Nat) (f : Ring → Ring) : (s.modRing n f).pairs = s.pairs := rfl
@[simp] theorem Hw.modRing_digs (s : Hw) (n : Nat) (f : Ring → Ring) : (s.modRing n f).digs = s.digs := rfl
@[simp] theorem Hw.modRing_board (s : Hw) (n : Nat) (f : Ring → Ring) : (s.modRing n f).board = s.board := rfl
@[simp] theorem Hw.modRing_pkb (s : Hw) (n : Nat) (f : Ring → Ring) : (s.modRing n f).pkb = s.pkb := rfl
@[simp] theorem Hw.modRing_pku (s : Hw) (n : Nat) (f : Ring → Ring) : (s.modRing n f).pku = s.pku := rfl
@[simp] theorem Hw.modRing_ucode (s : Hw) (n : Nat) (f : Ring → Ring) : (s.modRing n f).ucode = s.ucode := rfl
@[simp] theorem Hw.modRing_keys (s : Hw) (n : Nat) (f : Ring → Ring) : (s.modRing n f).keys = s.keys := rfl
@[simp] theorem Hw.modRing_kp (s : Hw) (n : Nat) (f : Ring → Ring) : (s.modRing n f).kp = s.kp := rfl
@[simp] theorem Hw.modRing_mm (s : Hw) (n : Nat) (f : Ring → Ring) : (s.modRing n f).mm = s.mm := rfl
@[simp] theorem Hw.modRing_flt (s : Hw) (n : Nat) (f : Ring → Ring) : (s.modRing n f).flt = s.flt := rfl
@[simp] theorem Hw.modRing_ward (s : Hw) (n : Nat) (f : Ring → Ring) : (s.modRing n f).ward = s.ward := rfl
@[simp] theorem Hw.modRing_recd (s : Hw) (n : Nat) (f : Ring → Ring) : (s.modRing n f).recd = s.recd := rfl
@[simp] theorem Hw.modRing_cen (s : Hw) (n : Nat) (f : Ring → Ring) : (s.modRing n f).cen = s.cen := rfl
@[simp] theorem Hw.modRing_sec (s : Hw) (n : Nat) (f : Ring → Ring) : (s.modRing n f).sec = s.sec := rfl
@[simp] theorem Hw.modRing_hns (s : Hw) (n : Nat) (f : Ring → Ring) : (s.modRing n f).hns = s.hns := rfl
@[simp] theorem Hw.modRing_tap (s : Hw) (n : Nat) (f : Ring → Ring) : (s.modRing n f).tap = s.tap := rfl
@[simp] theorem Hw.modRing_viewA (s : Hw) (n : Nat) (f : Ring → Ring) : (s.modRing n f).viewA = s.viewA := rfl
@[simp] theorem Hw.modRing_viewB (s : Hw) (n : Nat) (f : Ring → Ring) : (s.modRing n f).viewB = s.viewB := rfl
@[simp] theorem Hw.modRing_dselA (s : Hw) (n : Nat) (f : Ring → Ring) : (s.modRing n f).dselA = s.dselA := rfl
@[simp] theorem Hw.modRing_dselB (s : Hw) (n : Nat) (f : Ring → Ring) : (s.modRing n f).dselB = s.dselB := rfl
@[simp] theorem Hw.modRing_freeCount (s : Hw) (n : Nat) (f : Ring → Ring) : (s.modRing n f).freeCount = s.freeCount := rfl

/-! ### Hw.modDb -/

@[simp] theorem Hw.modDb_clk (s : Hw) (p : Nat) (f : DbPort → DbPort) : (s.modDb p f).clk = s.clk := rfl
@[simp] theorem Hw.modDb_mc (s : Hw) (p : Nat) (f : DbPort → DbPort) : (s.modDb p f).mc = s.mc := rfl
@[simp] theorem Hw.modDb_cinch (s : Hw) (p : Nat) (f : DbPort → DbPort) : (s.modDb p f).cinch = s.cinch := rfl
@[simp] theorem Hw.modDb_seam (s : Hw) (p : Nat) (f : DbPort → DbPort) : (s.modDb p f).seam = s.seam := rfl
@[simp] theorem Hw.modDb_active (s : Hw) (p : Nat) (f : DbPort → DbPort) : (s.modDb p f).active = s.active := rfl
@[simp] theorem Hw.modDb_shadow (s : Hw) (p : Nat) (f : DbPort → DbPort) : (s.modDb p f).shadow = s.shadow := rfl
@[simp] theorem Hw.modDb_rings (s : Hw) (p : Nat) (f : DbPort → DbPort) : (s.modDb p f).rings = s.rings := rfl
@[simp] theorem Hw.modDb_rm (s : Hw) (p : Nat) (f : DbPort → DbPort) : (s.modDb p f).rm = s.rm := rfl
@[simp] theorem Hw.modDb_ctxs (s : Hw) (p : Nat) (f : DbPort → DbPort) : (s.modDb p f).ctxs = s.ctxs := rfl
@[simp] theorem Hw.modDb_jobs (s : Hw) (p : Nat) (f : DbPort → DbPort) : (s.modDb p f).jobs = s.jobs := rfl
@[simp] theorem Hw.modDb_jobSeq (s : Hw) (p : Nat) (f : DbPort → DbPort) : (s.modDb p f).jobSeq = s.jobSeq := rfl
@[simp] theorem Hw.modDb_trapq (s : Hw) (p : Nat) (f : DbPort → DbPort) : (s.modDb p f).trapq = s.trapq := rfl
@[simp] theorem Hw.modDb_awlLoad (s : Hw) (p : Nat) (f : DbPort → DbPort) : (s.modDb p f).awlLoad = s.awlLoad := rfl
@[simp] theorem Hw.modDb_libBad (s : Hw) (p : Nat) (f : DbPort → DbPort) : (s.modDb p f).libBad = s.libBad := rfl
@[simp] theorem Hw.modDb_cs (s : Hw) (p : Nat) (f : DbPort → DbPort) : (s.modDb p f).cs = s.cs := rfl
@[simp] theorem Hw.modDb_pairs (s : Hw) (p : Nat) (f : DbPort → DbPort) : (s.modDb p f).pairs = s.pairs := rfl
@[simp] theorem Hw.modDb_digs (s : Hw) (p : Nat) (f : DbPort → DbPort) : (s.modDb p f).digs = s.digs := rfl
@[simp] theorem Hw.modDb_board (s : Hw) (p : Nat) (f : DbPort → DbPort) : (s.modDb p f).board = s.board := rfl
@[simp] theorem Hw.modDb_pkb (s : Hw) (p : Nat) (f : DbPort → DbPort) : (s.modDb p f).pkb = s.pkb := rfl
@[simp] theorem Hw.modDb_pku (s : Hw) (p : Nat) (f : DbPort → DbPort) : (s.modDb p f).pku = s.pku := rfl
@[simp] theorem Hw.modDb_ucode (s : Hw) (p : Nat) (f : DbPort → DbPort) : (s.modDb p f).ucode = s.ucode := rfl
@[simp] theorem Hw.modDb_keys (s : Hw) (p : Nat) (f : DbPort → DbPort) : (s.modDb p f).keys = s.keys := rfl
@[simp] theorem Hw.modDb_kp (s : Hw) (p : Nat) (f : DbPort → DbPort) : (s.modDb p f).kp = s.kp := rfl
@[simp] theorem Hw.modDb_mm (s : Hw) (p : Nat) (f : DbPort → DbPort) : (s.modDb p f).mm = s.mm := rfl
@[simp] theorem Hw.modDb_flt (s : Hw) (p : Nat) (f : DbPort → DbPort) : (s.modDb p f).flt = s.flt := rfl
@[simp] theorem Hw.modDb_ward (s : Hw) (p : Nat) (f : DbPort → DbPort) : (s.modDb p f).ward = s.ward := rfl
@[simp] theorem Hw.modDb_recd (s : Hw) (p : Nat) (f : DbPort → DbPort) : (s.modDb p f).recd = s.recd := rfl
@[simp] theorem Hw.modDb_cen (s : Hw) (p : Nat) (f : DbPort → DbPort) : (s.modDb p f).cen = s.cen := rfl
@[simp] theorem Hw.modDb_sec (s : Hw) (p : Nat) (f : DbPort → DbPort) : (s.modDb p f).sec = s.sec := rfl
@[simp] theorem Hw.modDb_hns (s : Hw) (p : Nat) (f : DbPort → DbPort) : (s.modDb p f).hns = s.hns := rfl
@[simp] theorem Hw.modDb_tap (s : Hw) (p : Nat) (f : DbPort → DbPort) : (s.modDb p f).tap = s.tap := rfl
@[simp] theorem Hw.modDb_viewA (s : Hw) (p : Nat) (f : DbPort → DbPort) : (s.modDb p f).viewA = s.viewA := rfl
@[simp] theorem Hw.modDb_viewB (s : Hw) (p : Nat) (f : DbPort → DbPort) : (s.modDb p f).viewB = s.viewB := rfl
@[simp] theorem Hw.modDb_dselA (s : Hw) (p : Nat) (f : DbPort → DbPort) : (s.modDb p f).dselA = s.dselA := rfl
@[simp] theorem Hw.modDb_dselB (s : Hw) (p : Nat) (f : DbPort → DbPort) : (s.modDb p f).dselB = s.dselB := rfl
@[simp] theorem Hw.modDb_freeCount (s : Hw) (p : Nat) (f : DbPort → DbPort) : (s.modDb p f).freeCount = s.freeCount := rfl

/-! ### Hw.modPair -/

@[simp] theorem Hw.modPair_clk (s : Hw) (p : Nat) (f : Pair → Pair) : (s.modPair p f).clk = s.clk := rfl
@[simp] theorem Hw.modPair_mc (s : Hw) (p : Nat) (f : Pair → Pair) : (s.modPair p f).mc = s.mc := rfl
@[simp] theorem Hw.modPair_cinch (s : Hw) (p : Nat) (f : Pair → Pair) : (s.modPair p f).cinch = s.cinch := rfl
@[simp] theorem Hw.modPair_seam (s : Hw) (p : Nat) (f : Pair → Pair) : (s.modPair p f).seam = s.seam := rfl
@[simp] theorem Hw.modPair_active (s : Hw) (p : Nat) (f : Pair → Pair) : (s.modPair p f).active = s.active := rfl
@[simp] theorem Hw.modPair_shadow (s : Hw) (p : Nat) (f : Pair → Pair) : (s.modPair p f).shadow = s.shadow := rfl
@[simp] theorem Hw.modPair_rings (s : Hw) (p : Nat) (f : Pair → Pair) : (s.modPair p f).rings = s.rings := rfl
@[simp] theorem Hw.modPair_rm (s : Hw) (p : Nat) (f : Pair → Pair) : (s.modPair p f).rm = s.rm := rfl
@[simp] theorem Hw.modPair_dbs (s : Hw) (p : Nat) (f : Pair → Pair) : (s.modPair p f).dbs = s.dbs := rfl
@[simp] theorem Hw.modPair_ctxs (s : Hw) (p : Nat) (f : Pair → Pair) : (s.modPair p f).ctxs = s.ctxs := rfl
@[simp] theorem Hw.modPair_jobs (s : Hw) (p : Nat) (f : Pair → Pair) : (s.modPair p f).jobs = s.jobs := rfl
@[simp] theorem Hw.modPair_jobSeq (s : Hw) (p : Nat) (f : Pair → Pair) : (s.modPair p f).jobSeq = s.jobSeq := rfl
@[simp] theorem Hw.modPair_trapq (s : Hw) (p : Nat) (f : Pair → Pair) : (s.modPair p f).trapq = s.trapq := rfl
@[simp] theorem Hw.modPair_awlLoad (s : Hw) (p : Nat) (f : Pair → Pair) : (s.modPair p f).awlLoad = s.awlLoad := rfl
@[simp] theorem Hw.modPair_libBad (s : Hw) (p : Nat) (f : Pair → Pair) : (s.modPair p f).libBad = s.libBad := rfl
@[simp] theorem Hw.modPair_cs (s : Hw) (p : Nat) (f : Pair → Pair) : (s.modPair p f).cs = s.cs := rfl
@[simp] theorem Hw.modPair_digs (s : Hw) (p : Nat) (f : Pair → Pair) : (s.modPair p f).digs = s.digs := rfl
@[simp] theorem Hw.modPair_board (s : Hw) (p : Nat) (f : Pair → Pair) : (s.modPair p f).board = s.board := rfl
@[simp] theorem Hw.modPair_pkb (s : Hw) (p : Nat) (f : Pair → Pair) : (s.modPair p f).pkb = s.pkb := rfl
@[simp] theorem Hw.modPair_pku (s : Hw) (p : Nat) (f : Pair → Pair) : (s.modPair p f).pku = s.pku := rfl
@[simp] theorem Hw.modPair_ucode (s : Hw) (p : Nat) (f : Pair → Pair) : (s.modPair p f).ucode = s.ucode := rfl
@[simp] theorem Hw.modPair_keys (s : Hw) (p : Nat) (f : Pair → Pair) : (s.modPair p f).keys = s.keys := rfl
@[simp] theorem Hw.modPair_kp (s : Hw) (p : Nat) (f : Pair → Pair) : (s.modPair p f).kp = s.kp := rfl
@[simp] theorem Hw.modPair_mm (s : Hw) (p : Nat) (f : Pair → Pair) : (s.modPair p f).mm = s.mm := rfl
@[simp] theorem Hw.modPair_flt (s : Hw) (p : Nat) (f : Pair → Pair) : (s.modPair p f).flt = s.flt := rfl
@[simp] theorem Hw.modPair_ward (s : Hw) (p : Nat) (f : Pair → Pair) : (s.modPair p f).ward = s.ward := rfl
@[simp] theorem Hw.modPair_recd (s : Hw) (p : Nat) (f : Pair → Pair) : (s.modPair p f).recd = s.recd := rfl
@[simp] theorem Hw.modPair_cen (s : Hw) (p : Nat) (f : Pair → Pair) : (s.modPair p f).cen = s.cen := rfl
@[simp] theorem Hw.modPair_sec (s : Hw) (p : Nat) (f : Pair → Pair) : (s.modPair p f).sec = s.sec := rfl
@[simp] theorem Hw.modPair_hns (s : Hw) (p : Nat) (f : Pair → Pair) : (s.modPair p f).hns = s.hns := rfl
@[simp] theorem Hw.modPair_tap (s : Hw) (p : Nat) (f : Pair → Pair) : (s.modPair p f).tap = s.tap := rfl
@[simp] theorem Hw.modPair_viewA (s : Hw) (p : Nat) (f : Pair → Pair) : (s.modPair p f).viewA = s.viewA := rfl
@[simp] theorem Hw.modPair_viewB (s : Hw) (p : Nat) (f : Pair → Pair) : (s.modPair p f).viewB = s.viewB := rfl
@[simp] theorem Hw.modPair_dselA (s : Hw) (p : Nat) (f : Pair → Pair) : (s.modPair p f).dselA = s.dselA := rfl
@[simp] theorem Hw.modPair_dselB (s : Hw) (p : Nat) (f : Pair → Pair) : (s.modPair p f).dselB = s.dselB := rfl
@[simp] theorem Hw.modPair_freeCount (s : Hw) (p : Nat) (f : Pair → Pair) : (s.modPair p f).freeCount = s.freeCount := rfl

/-! ### Hw.modDig -/

@[simp] theorem Hw.modDig_clk (s : Hw) (e : Nat) (f : DigestUnit → DigestUnit) : (s.modDig e f).clk = s.clk := rfl
@[simp] theorem Hw.modDig_mc (s : Hw) (e : Nat) (f : DigestUnit → DigestUnit) : (s.modDig e f).mc = s.mc := rfl
@[simp] theorem Hw.modDig_cinch (s : Hw) (e : Nat) (f : DigestUnit → DigestUnit) : (s.modDig e f).cinch = s.cinch := rfl
@[simp] theorem Hw.modDig_seam (s : Hw) (e : Nat) (f : DigestUnit → DigestUnit) : (s.modDig e f).seam = s.seam := rfl
@[simp] theorem Hw.modDig_active (s : Hw) (e : Nat) (f : DigestUnit → DigestUnit) : (s.modDig e f).active = s.active := rfl
@[simp] theorem Hw.modDig_shadow (s : Hw) (e : Nat) (f : DigestUnit → DigestUnit) : (s.modDig e f).shadow = s.shadow := rfl
@[simp] theorem Hw.modDig_rings (s : Hw) (e : Nat) (f : DigestUnit → DigestUnit) : (s.modDig e f).rings = s.rings := rfl
@[simp] theorem Hw.modDig_rm (s : Hw) (e : Nat) (f : DigestUnit → DigestUnit) : (s.modDig e f).rm = s.rm := rfl
@[simp] theorem Hw.modDig_dbs (s : Hw) (e : Nat) (f : DigestUnit → DigestUnit) : (s.modDig e f).dbs = s.dbs := rfl
@[simp] theorem Hw.modDig_ctxs (s : Hw) (e : Nat) (f : DigestUnit → DigestUnit) : (s.modDig e f).ctxs = s.ctxs := rfl
@[simp] theorem Hw.modDig_jobs (s : Hw) (e : Nat) (f : DigestUnit → DigestUnit) : (s.modDig e f).jobs = s.jobs := rfl
@[simp] theorem Hw.modDig_jobSeq (s : Hw) (e : Nat) (f : DigestUnit → DigestUnit) : (s.modDig e f).jobSeq = s.jobSeq := rfl
@[simp] theorem Hw.modDig_trapq (s : Hw) (e : Nat) (f : DigestUnit → DigestUnit) : (s.modDig e f).trapq = s.trapq := rfl
@[simp] theorem Hw.modDig_awlLoad (s : Hw) (e : Nat) (f : DigestUnit → DigestUnit) : (s.modDig e f).awlLoad = s.awlLoad := rfl
@[simp] theorem Hw.modDig_libBad (s : Hw) (e : Nat) (f : DigestUnit → DigestUnit) : (s.modDig e f).libBad = s.libBad := rfl
@[simp] theorem Hw.modDig_cs (s : Hw) (e : Nat) (f : DigestUnit → DigestUnit) : (s.modDig e f).cs = s.cs := rfl
@[simp] theorem Hw.modDig_pairs (s : Hw) (e : Nat) (f : DigestUnit → DigestUnit) : (s.modDig e f).pairs = s.pairs := rfl
@[simp] theorem Hw.modDig_board (s : Hw) (e : Nat) (f : DigestUnit → DigestUnit) : (s.modDig e f).board = s.board := rfl
@[simp] theorem Hw.modDig_pkb (s : Hw) (e : Nat) (f : DigestUnit → DigestUnit) : (s.modDig e f).pkb = s.pkb := rfl
@[simp] theorem Hw.modDig_pku (s : Hw) (e : Nat) (f : DigestUnit → DigestUnit) : (s.modDig e f).pku = s.pku := rfl
@[simp] theorem Hw.modDig_ucode (s : Hw) (e : Nat) (f : DigestUnit → DigestUnit) : (s.modDig e f).ucode = s.ucode := rfl
@[simp] theorem Hw.modDig_keys (s : Hw) (e : Nat) (f : DigestUnit → DigestUnit) : (s.modDig e f).keys = s.keys := rfl
@[simp] theorem Hw.modDig_kp (s : Hw) (e : Nat) (f : DigestUnit → DigestUnit) : (s.modDig e f).kp = s.kp := rfl
@[simp] theorem Hw.modDig_mm (s : Hw) (e : Nat) (f : DigestUnit → DigestUnit) : (s.modDig e f).mm = s.mm := rfl
@[simp] theorem Hw.modDig_flt (s : Hw) (e : Nat) (f : DigestUnit → DigestUnit) : (s.modDig e f).flt = s.flt := rfl
@[simp] theorem Hw.modDig_ward (s : Hw) (e : Nat) (f : DigestUnit → DigestUnit) : (s.modDig e f).ward = s.ward := rfl
@[simp] theorem Hw.modDig_recd (s : Hw) (e : Nat) (f : DigestUnit → DigestUnit) : (s.modDig e f).recd = s.recd := rfl
@[simp] theorem Hw.modDig_cen (s : Hw) (e : Nat) (f : DigestUnit → DigestUnit) : (s.modDig e f).cen = s.cen := rfl
@[simp] theorem Hw.modDig_sec (s : Hw) (e : Nat) (f : DigestUnit → DigestUnit) : (s.modDig e f).sec = s.sec := rfl
@[simp] theorem Hw.modDig_hns (s : Hw) (e : Nat) (f : DigestUnit → DigestUnit) : (s.modDig e f).hns = s.hns := rfl
@[simp] theorem Hw.modDig_tap (s : Hw) (e : Nat) (f : DigestUnit → DigestUnit) : (s.modDig e f).tap = s.tap := rfl
@[simp] theorem Hw.modDig_viewA (s : Hw) (e : Nat) (f : DigestUnit → DigestUnit) : (s.modDig e f).viewA = s.viewA := rfl
@[simp] theorem Hw.modDig_viewB (s : Hw) (e : Nat) (f : DigestUnit → DigestUnit) : (s.modDig e f).viewB = s.viewB := rfl
@[simp] theorem Hw.modDig_dselA (s : Hw) (e : Nat) (f : DigestUnit → DigestUnit) : (s.modDig e f).dselA = s.dselA := rfl
@[simp] theorem Hw.modDig_dselB (s : Hw) (e : Nat) (f : DigestUnit → DigestUnit) : (s.modDig e f).dselB = s.dselB := rfl
@[simp] theorem Hw.modDig_freeCount (s : Hw) (e : Nat) (f : DigestUnit → DigestUnit) : (s.modDig e f).freeCount = s.freeCount := rfl

/-! ### Hw.modPku -/

@[simp] theorem Hw.modPku_clk (s : Hw) (u : Nat) (f : PkUnit → PkUnit) : (s.modPku u f).clk = s.clk := rfl
@[simp] theorem Hw.modPku_mc (s : Hw) (u : Nat) (f : PkUnit → PkUnit) : (s.modPku u f).mc = s.mc := rfl
@[simp] theorem Hw.modPku_cinch (s : Hw) (u : Nat) (f : PkUnit → PkUnit) : (s.modPku u f).cinch = s.cinch := rfl
@[simp] theorem Hw.modPku_seam (s : Hw) (u : Nat) (f : PkUnit → PkUnit) : (s.modPku u f).seam = s.seam := rfl
@[simp] theorem Hw.modPku_active (s : Hw) (u : Nat) (f : PkUnit → PkUnit) : (s.modPku u f).active = s.active := rfl
@[simp] theorem Hw.modPku_shadow (s : Hw) (u : Nat) (f : PkUnit → PkUnit) : (s.modPku u f).shadow = s.shadow := rfl
@[simp] theorem Hw.modPku_rings (s : Hw) (u : Nat) (f : PkUnit → PkUnit) : (s.modPku u f).rings = s.rings := rfl
@[simp] theorem Hw.modPku_rm (s : Hw) (u : Nat) (f : PkUnit → PkUnit) : (s.modPku u f).rm = s.rm := rfl
@[simp] theorem Hw.modPku_dbs (s : Hw) (u : Nat) (f : PkUnit → PkUnit) : (s.modPku u f).dbs = s.dbs := rfl
@[simp] theorem Hw.modPku_ctxs (s : Hw) (u : Nat) (f : PkUnit → PkUnit) : (s.modPku u f).ctxs = s.ctxs := rfl
@[simp] theorem Hw.modPku_jobs (s : Hw) (u : Nat) (f : PkUnit → PkUnit) : (s.modPku u f).jobs = s.jobs := rfl
@[simp] theorem Hw.modPku_jobSeq (s : Hw) (u : Nat) (f : PkUnit → PkUnit) : (s.modPku u f).jobSeq = s.jobSeq := rfl
@[simp] theorem Hw.modPku_trapq (s : Hw) (u : Nat) (f : PkUnit → PkUnit) : (s.modPku u f).trapq = s.trapq := rfl
@[simp] theorem Hw.modPku_awlLoad (s : Hw) (u : Nat) (f : PkUnit → PkUnit) : (s.modPku u f).awlLoad = s.awlLoad := rfl
@[simp] theorem Hw.modPku_libBad (s : Hw) (u : Nat) (f : PkUnit → PkUnit) : (s.modPku u f).libBad = s.libBad := rfl
@[simp] theorem Hw.modPku_cs (s : Hw) (u : Nat) (f : PkUnit → PkUnit) : (s.modPku u f).cs = s.cs := rfl
@[simp] theorem Hw.modPku_pairs (s : Hw) (u : Nat) (f : PkUnit → PkUnit) : (s.modPku u f).pairs = s.pairs := rfl
@[simp] theorem Hw.modPku_digs (s : Hw) (u : Nat) (f : PkUnit → PkUnit) : (s.modPku u f).digs = s.digs := rfl
@[simp] theorem Hw.modPku_board (s : Hw) (u : Nat) (f : PkUnit → PkUnit) : (s.modPku u f).board = s.board := rfl
@[simp] theorem Hw.modPku_pkb (s : Hw) (u : Nat) (f : PkUnit → PkUnit) : (s.modPku u f).pkb = s.pkb := rfl
@[simp] theorem Hw.modPku_ucode (s : Hw) (u : Nat) (f : PkUnit → PkUnit) : (s.modPku u f).ucode = s.ucode := rfl
@[simp] theorem Hw.modPku_keys (s : Hw) (u : Nat) (f : PkUnit → PkUnit) : (s.modPku u f).keys = s.keys := rfl
@[simp] theorem Hw.modPku_kp (s : Hw) (u : Nat) (f : PkUnit → PkUnit) : (s.modPku u f).kp = s.kp := rfl
@[simp] theorem Hw.modPku_mm (s : Hw) (u : Nat) (f : PkUnit → PkUnit) : (s.modPku u f).mm = s.mm := rfl
@[simp] theorem Hw.modPku_flt (s : Hw) (u : Nat) (f : PkUnit → PkUnit) : (s.modPku u f).flt = s.flt := rfl
@[simp] theorem Hw.modPku_ward (s : Hw) (u : Nat) (f : PkUnit → PkUnit) : (s.modPku u f).ward = s.ward := rfl
@[simp] theorem Hw.modPku_recd (s : Hw) (u : Nat) (f : PkUnit → PkUnit) : (s.modPku u f).recd = s.recd := rfl
@[simp] theorem Hw.modPku_cen (s : Hw) (u : Nat) (f : PkUnit → PkUnit) : (s.modPku u f).cen = s.cen := rfl
@[simp] theorem Hw.modPku_sec (s : Hw) (u : Nat) (f : PkUnit → PkUnit) : (s.modPku u f).sec = s.sec := rfl
@[simp] theorem Hw.modPku_hns (s : Hw) (u : Nat) (f : PkUnit → PkUnit) : (s.modPku u f).hns = s.hns := rfl
@[simp] theorem Hw.modPku_tap (s : Hw) (u : Nat) (f : PkUnit → PkUnit) : (s.modPku u f).tap = s.tap := rfl
@[simp] theorem Hw.modPku_viewA (s : Hw) (u : Nat) (f : PkUnit → PkUnit) : (s.modPku u f).viewA = s.viewA := rfl
@[simp] theorem Hw.modPku_viewB (s : Hw) (u : Nat) (f : PkUnit → PkUnit) : (s.modPku u f).viewB = s.viewB := rfl
@[simp] theorem Hw.modPku_dselA (s : Hw) (u : Nat) (f : PkUnit → PkUnit) : (s.modPku u f).dselA = s.dselA := rfl
@[simp] theorem Hw.modPku_dselB (s : Hw) (u : Nat) (f : PkUnit → PkUnit) : (s.modPku u f).dselB = s.dselB := rfl
@[simp] theorem Hw.modPku_freeCount (s : Hw) (u : Nat) (f : PkUnit → PkUnit) : (s.modPku u f).freeCount = s.freeCount := rfl

/-! ### Hw.modMmp -/

@[simp] theorem Hw.modMmp_clk (s : Hw) (p : Nat) (f : MmPort → MmPort) : (s.modMmp p f).clk = s.clk := rfl
@[simp] theorem Hw.modMmp_mc (s : Hw) (p : Nat) (f : MmPort → MmPort) : (s.modMmp p f).mc = s.mc := rfl
@[simp] theorem Hw.modMmp_cinch (s : Hw) (p : Nat) (f : MmPort → MmPort) : (s.modMmp p f).cinch = s.cinch := rfl
@[simp] theorem Hw.modMmp_seam (s : Hw) (p : Nat) (f : MmPort → MmPort) : (s.modMmp p f).seam = s.seam := rfl
@[simp] theorem Hw.modMmp_active (s : Hw) (p : Nat) (f : MmPort → MmPort) : (s.modMmp p f).active = s.active := rfl
@[simp] theorem Hw.modMmp_shadow (s : Hw) (p : Nat) (f : MmPort → MmPort) : (s.modMmp p f).shadow = s.shadow := rfl
@[simp] theorem Hw.modMmp_rings (s : Hw) (p : Nat) (f : MmPort → MmPort) : (s.modMmp p f).rings = s.rings := rfl
@[simp] theorem Hw.modMmp_rm (s : Hw) (p : Nat) (f : MmPort → MmPort) : (s.modMmp p f).rm = s.rm := rfl
@[simp] theorem Hw.modMmp_dbs (s : Hw) (p : Nat) (f : MmPort → MmPort) : (s.modMmp p f).dbs = s.dbs := rfl
@[simp] theorem Hw.modMmp_ctxs (s : Hw) (p : Nat) (f : MmPort → MmPort) : (s.modMmp p f).ctxs = s.ctxs := rfl
@[simp] theorem Hw.modMmp_jobs (s : Hw) (p : Nat) (f : MmPort → MmPort) : (s.modMmp p f).jobs = s.jobs := rfl
@[simp] theorem Hw.modMmp_jobSeq (s : Hw) (p : Nat) (f : MmPort → MmPort) : (s.modMmp p f).jobSeq = s.jobSeq := rfl
@[simp] theorem Hw.modMmp_trapq (s : Hw) (p : Nat) (f : MmPort → MmPort) : (s.modMmp p f).trapq = s.trapq := rfl
@[simp] theorem Hw.modMmp_awlLoad (s : Hw) (p : Nat) (f : MmPort → MmPort) : (s.modMmp p f).awlLoad = s.awlLoad := rfl
@[simp] theorem Hw.modMmp_libBad (s : Hw) (p : Nat) (f : MmPort → MmPort) : (s.modMmp p f).libBad = s.libBad := rfl
@[simp] theorem Hw.modMmp_cs (s : Hw) (p : Nat) (f : MmPort → MmPort) : (s.modMmp p f).cs = s.cs := rfl
@[simp] theorem Hw.modMmp_pairs (s : Hw) (p : Nat) (f : MmPort → MmPort) : (s.modMmp p f).pairs = s.pairs := rfl
@[simp] theorem Hw.modMmp_digs (s : Hw) (p : Nat) (f : MmPort → MmPort) : (s.modMmp p f).digs = s.digs := rfl
@[simp] theorem Hw.modMmp_board (s : Hw) (p : Nat) (f : MmPort → MmPort) : (s.modMmp p f).board = s.board := rfl
@[simp] theorem Hw.modMmp_pkb (s : Hw) (p : Nat) (f : MmPort → MmPort) : (s.modMmp p f).pkb = s.pkb := rfl
@[simp] theorem Hw.modMmp_pku (s : Hw) (p : Nat) (f : MmPort → MmPort) : (s.modMmp p f).pku = s.pku := rfl
@[simp] theorem Hw.modMmp_ucode (s : Hw) (p : Nat) (f : MmPort → MmPort) : (s.modMmp p f).ucode = s.ucode := rfl
@[simp] theorem Hw.modMmp_keys (s : Hw) (p : Nat) (f : MmPort → MmPort) : (s.modMmp p f).keys = s.keys := rfl
@[simp] theorem Hw.modMmp_kp (s : Hw) (p : Nat) (f : MmPort → MmPort) : (s.modMmp p f).kp = s.kp := rfl
@[simp] theorem Hw.modMmp_flt (s : Hw) (p : Nat) (f : MmPort → MmPort) : (s.modMmp p f).flt = s.flt := rfl
@[simp] theorem Hw.modMmp_ward (s : Hw) (p : Nat) (f : MmPort → MmPort) : (s.modMmp p f).ward = s.ward := rfl
@[simp] theorem Hw.modMmp_recd (s : Hw) (p : Nat) (f : MmPort → MmPort) : (s.modMmp p f).recd = s.recd := rfl
@[simp] theorem Hw.modMmp_cen (s : Hw) (p : Nat) (f : MmPort → MmPort) : (s.modMmp p f).cen = s.cen := rfl
@[simp] theorem Hw.modMmp_sec (s : Hw) (p : Nat) (f : MmPort → MmPort) : (s.modMmp p f).sec = s.sec := rfl
@[simp] theorem Hw.modMmp_hns (s : Hw) (p : Nat) (f : MmPort → MmPort) : (s.modMmp p f).hns = s.hns := rfl
@[simp] theorem Hw.modMmp_tap (s : Hw) (p : Nat) (f : MmPort → MmPort) : (s.modMmp p f).tap = s.tap := rfl
@[simp] theorem Hw.modMmp_viewA (s : Hw) (p : Nat) (f : MmPort → MmPort) : (s.modMmp p f).viewA = s.viewA := rfl
@[simp] theorem Hw.modMmp_viewB (s : Hw) (p : Nat) (f : MmPort → MmPort) : (s.modMmp p f).viewB = s.viewB := rfl
@[simp] theorem Hw.modMmp_dselA (s : Hw) (p : Nat) (f : MmPort → MmPort) : (s.modMmp p f).dselA = s.dselA := rfl
@[simp] theorem Hw.modMmp_dselB (s : Hw) (p : Nat) (f : MmPort → MmPort) : (s.modMmp p f).dselB = s.dselB := rfl
@[simp] theorem Hw.modMmp_freeCount (s : Hw) (p : Nat) (f : MmPort → MmPort) : (s.modMmp p f).freeCount = s.freeCount := rfl

/-! ### Hw.modLink -/

@[simp] theorem Hw.modLink_clk (s : Hw) (k : Nat) (f : Link → Link) : (s.modLink k f).clk = s.clk := rfl
@[simp] theorem Hw.modLink_mc (s : Hw) (k : Nat) (f : Link → Link) : (s.modLink k f).mc = s.mc := rfl
@[simp] theorem Hw.modLink_cinch (s : Hw) (k : Nat) (f : Link → Link) : (s.modLink k f).cinch = s.cinch := rfl
@[simp] theorem Hw.modLink_seam (s : Hw) (k : Nat) (f : Link → Link) : (s.modLink k f).seam = s.seam := rfl
@[simp] theorem Hw.modLink_active (s : Hw) (k : Nat) (f : Link → Link) : (s.modLink k f).active = s.active := rfl
@[simp] theorem Hw.modLink_shadow (s : Hw) (k : Nat) (f : Link → Link) : (s.modLink k f).shadow = s.shadow := rfl
@[simp] theorem Hw.modLink_rings (s : Hw) (k : Nat) (f : Link → Link) : (s.modLink k f).rings = s.rings := rfl
@[simp] theorem Hw.modLink_rm (s : Hw) (k : Nat) (f : Link → Link) : (s.modLink k f).rm = s.rm := rfl
@[simp] theorem Hw.modLink_dbs (s : Hw) (k : Nat) (f : Link → Link) : (s.modLink k f).dbs = s.dbs := rfl
@[simp] theorem Hw.modLink_ctxs (s : Hw) (k : Nat) (f : Link → Link) : (s.modLink k f).ctxs = s.ctxs := rfl
@[simp] theorem Hw.modLink_jobs (s : Hw) (k : Nat) (f : Link → Link) : (s.modLink k f).jobs = s.jobs := rfl
@[simp] theorem Hw.modLink_jobSeq (s : Hw) (k : Nat) (f : Link → Link) : (s.modLink k f).jobSeq = s.jobSeq := rfl
@[simp] theorem Hw.modLink_trapq (s : Hw) (k : Nat) (f : Link → Link) : (s.modLink k f).trapq = s.trapq := rfl
@[simp] theorem Hw.modLink_awlLoad (s : Hw) (k : Nat) (f : Link → Link) : (s.modLink k f).awlLoad = s.awlLoad := rfl
@[simp] theorem Hw.modLink_libBad (s : Hw) (k : Nat) (f : Link → Link) : (s.modLink k f).libBad = s.libBad := rfl
@[simp] theorem Hw.modLink_cs (s : Hw) (k : Nat) (f : Link → Link) : (s.modLink k f).cs = s.cs := rfl
@[simp] theorem Hw.modLink_pairs (s : Hw) (k : Nat) (f : Link → Link) : (s.modLink k f).pairs = s.pairs := rfl
@[simp] theorem Hw.modLink_digs (s : Hw) (k : Nat) (f : Link → Link) : (s.modLink k f).digs = s.digs := rfl
@[simp] theorem Hw.modLink_board (s : Hw) (k : Nat) (f : Link → Link) : (s.modLink k f).board = s.board := rfl
@[simp] theorem Hw.modLink_pkb (s : Hw) (k : Nat) (f : Link → Link) : (s.modLink k f).pkb = s.pkb := rfl
@[simp] theorem Hw.modLink_pku (s : Hw) (k : Nat) (f : Link → Link) : (s.modLink k f).pku = s.pku := rfl
@[simp] theorem Hw.modLink_ucode (s : Hw) (k : Nat) (f : Link → Link) : (s.modLink k f).ucode = s.ucode := rfl
@[simp] theorem Hw.modLink_keys (s : Hw) (k : Nat) (f : Link → Link) : (s.modLink k f).keys = s.keys := rfl
@[simp] theorem Hw.modLink_kp (s : Hw) (k : Nat) (f : Link → Link) : (s.modLink k f).kp = s.kp := rfl
@[simp] theorem Hw.modLink_mm (s : Hw) (k : Nat) (f : Link → Link) : (s.modLink k f).mm = s.mm := rfl
@[simp] theorem Hw.modLink_flt (s : Hw) (k : Nat) (f : Link → Link) : (s.modLink k f).flt = s.flt := rfl
@[simp] theorem Hw.modLink_ward (s : Hw) (k : Nat) (f : Link → Link) : (s.modLink k f).ward = s.ward := rfl
@[simp] theorem Hw.modLink_recd (s : Hw) (k : Nat) (f : Link → Link) : (s.modLink k f).recd = s.recd := rfl
@[simp] theorem Hw.modLink_cen (s : Hw) (k : Nat) (f : Link → Link) : (s.modLink k f).cen = s.cen := rfl
@[simp] theorem Hw.modLink_sec (s : Hw) (k : Nat) (f : Link → Link) : (s.modLink k f).sec = s.sec := rfl
@[simp] theorem Hw.modLink_tap (s : Hw) (k : Nat) (f : Link → Link) : (s.modLink k f).tap = s.tap := rfl
@[simp] theorem Hw.modLink_viewA (s : Hw) (k : Nat) (f : Link → Link) : (s.modLink k f).viewA = s.viewA := rfl
@[simp] theorem Hw.modLink_viewB (s : Hw) (k : Nat) (f : Link → Link) : (s.modLink k f).viewB = s.viewB := rfl
@[simp] theorem Hw.modLink_dselA (s : Hw) (k : Nat) (f : Link → Link) : (s.modLink k f).dselA = s.dselA := rfl
@[simp] theorem Hw.modLink_dselB (s : Hw) (k : Nat) (f : Link → Link) : (s.modLink k f).dselB = s.dselB := rfl
@[simp] theorem Hw.modLink_freeCount (s : Hw) (k : Nat) (f : Link → Link) : (s.modLink k f).freeCount = s.freeCount := rfl

/-! ### Hw.setSlot -/

@[simp] theorem Hw.setSlot_clk (s : Hw) (n : Nat) (v : Slot) : (s.setSlot n v).clk = s.clk := rfl
@[simp] theorem Hw.setSlot_mc (s : Hw) (n : Nat) (v : Slot) : (s.setSlot n v).mc = s.mc := rfl
@[simp] theorem Hw.setSlot_cinch (s : Hw) (n : Nat) (v : Slot) : (s.setSlot n v).cinch = s.cinch := rfl
@[simp] theorem Hw.setSlot_seam (s : Hw) (n : Nat) (v : Slot) : (s.setSlot n v).seam = s.seam := rfl
@[simp] theorem Hw.setSlot_active (s : Hw) (n : Nat) (v : Slot) : (s.setSlot n v).active = s.active := rfl
@[simp] theorem Hw.setSlot_shadow (s : Hw) (n : Nat) (v : Slot) : (s.setSlot n v).shadow = s.shadow := rfl
@[simp] theorem Hw.setSlot_rings (s : Hw) (n : Nat) (v : Slot) : (s.setSlot n v).rings = s.rings := rfl
@[simp] theorem Hw.setSlot_rm (s : Hw) (n : Nat) (v : Slot) : (s.setSlot n v).rm = s.rm := rfl
@[simp] theorem Hw.setSlot_dbs (s : Hw) (n : Nat) (v : Slot) : (s.setSlot n v).dbs = s.dbs := rfl
@[simp] theorem Hw.setSlot_ctxs (s : Hw) (n : Nat) (v : Slot) : (s.setSlot n v).ctxs = s.ctxs := rfl
@[simp] theorem Hw.setSlot_jobs (s : Hw) (n : Nat) (v : Slot) : (s.setSlot n v).jobs = s.jobs := rfl
@[simp] theorem Hw.setSlot_jobSeq (s : Hw) (n : Nat) (v : Slot) : (s.setSlot n v).jobSeq = s.jobSeq := rfl
@[simp] theorem Hw.setSlot_trapq (s : Hw) (n : Nat) (v : Slot) : (s.setSlot n v).trapq = s.trapq := rfl
@[simp] theorem Hw.setSlot_awlLoad (s : Hw) (n : Nat) (v : Slot) : (s.setSlot n v).awlLoad = s.awlLoad := rfl
@[simp] theorem Hw.setSlot_libBad (s : Hw) (n : Nat) (v : Slot) : (s.setSlot n v).libBad = s.libBad := rfl
@[simp] theorem Hw.setSlot_cs (s : Hw) (n : Nat) (v : Slot) : (s.setSlot n v).cs = s.cs := rfl
@[simp] theorem Hw.setSlot_pairs (s : Hw) (n : Nat) (v : Slot) : (s.setSlot n v).pairs = s.pairs := rfl
@[simp] theorem Hw.setSlot_digs (s : Hw) (n : Nat) (v : Slot) : (s.setSlot n v).digs = s.digs := rfl
@[simp] theorem Hw.setSlot_board (s : Hw) (n : Nat) (v : Slot) : (s.setSlot n v).board = s.board := rfl
@[simp] theorem Hw.setSlot_pkb (s : Hw) (n : Nat) (v : Slot) : (s.setSlot n v).pkb = s.pkb := rfl
@[simp] theorem Hw.setSlot_pku (s : Hw) (n : Nat) (v : Slot) : (s.setSlot n v).pku = s.pku := rfl
@[simp] theorem Hw.setSlot_ucode (s : Hw) (n : Nat) (v : Slot) : (s.setSlot n v).ucode = s.ucode := rfl
@[simp] theorem Hw.setSlot_kp (s : Hw) (n : Nat) (v : Slot) : (s.setSlot n v).kp = s.kp := rfl
@[simp] theorem Hw.setSlot_mm (s : Hw) (n : Nat) (v : Slot) : (s.setSlot n v).mm = s.mm := rfl
@[simp] theorem Hw.setSlot_flt (s : Hw) (n : Nat) (v : Slot) : (s.setSlot n v).flt = s.flt := rfl
@[simp] theorem Hw.setSlot_ward (s : Hw) (n : Nat) (v : Slot) : (s.setSlot n v).ward = s.ward := rfl
@[simp] theorem Hw.setSlot_recd (s : Hw) (n : Nat) (v : Slot) : (s.setSlot n v).recd = s.recd := rfl
@[simp] theorem Hw.setSlot_cen (s : Hw) (n : Nat) (v : Slot) : (s.setSlot n v).cen = s.cen := rfl
@[simp] theorem Hw.setSlot_sec (s : Hw) (n : Nat) (v : Slot) : (s.setSlot n v).sec = s.sec := rfl
@[simp] theorem Hw.setSlot_hns (s : Hw) (n : Nat) (v : Slot) : (s.setSlot n v).hns = s.hns := rfl
@[simp] theorem Hw.setSlot_tap (s : Hw) (n : Nat) (v : Slot) : (s.setSlot n v).tap = s.tap := rfl
@[simp] theorem Hw.setSlot_viewA (s : Hw) (n : Nat) (v : Slot) : (s.setSlot n v).viewA = s.viewA := rfl
@[simp] theorem Hw.setSlot_viewB (s : Hw) (n : Nat) (v : Slot) : (s.setSlot n v).viewB = s.viewB := rfl
@[simp] theorem Hw.setSlot_dselA (s : Hw) (n : Nat) (v : Slot) : (s.setSlot n v).dselA = s.dselA := rfl
@[simp] theorem Hw.setSlot_dselB (s : Hw) (n : Nat) (v : Slot) : (s.setSlot n v).dselB = s.dselB := rfl
@[simp] theorem Hw.setSlot_freeCount (s : Hw) (n : Nat) (v : Slot) : (s.setSlot n v).freeCount = s.freeCount := rfl

/-! ### Hw.modBring -/

@[simp] theorem Hw.modBring_clk (s : Hw) (f : Bringup → Bringup) : (s.modBring f).clk = s.clk := rfl
@[simp] theorem Hw.modBring_cinch (s : Hw) (f : Bringup → Bringup) : (s.modBring f).cinch = s.cinch := rfl
@[simp] theorem Hw.modBring_seam (s : Hw) (f : Bringup → Bringup) : (s.modBring f).seam = s.seam := rfl
@[simp] theorem Hw.modBring_active (s : Hw) (f : Bringup → Bringup) : (s.modBring f).active = s.active := rfl
@[simp] theorem Hw.modBring_shadow (s : Hw) (f : Bringup → Bringup) : (s.modBring f).shadow = s.shadow := rfl
@[simp] theorem Hw.modBring_rings (s : Hw) (f : Bringup → Bringup) : (s.modBring f).rings = s.rings := rfl
@[simp] theorem Hw.modBring_rm (s : Hw) (f : Bringup → Bringup) : (s.modBring f).rm = s.rm := rfl
@[simp] theorem Hw.modBring_dbs (s : Hw) (f : Bringup → Bringup) : (s.modBring f).dbs = s.dbs := rfl
@[simp] theorem Hw.modBring_ctxs (s : Hw) (f : Bringup → Bringup) : (s.modBring f).ctxs = s.ctxs := rfl
@[simp] theorem Hw.modBring_jobs (s : Hw) (f : Bringup → Bringup) : (s.modBring f).jobs = s.jobs := rfl
@[simp] theorem Hw.modBring_jobSeq (s : Hw) (f : Bringup → Bringup) : (s.modBring f).jobSeq = s.jobSeq := rfl
@[simp] theorem Hw.modBring_trapq (s : Hw) (f : Bringup → Bringup) : (s.modBring f).trapq = s.trapq := rfl
@[simp] theorem Hw.modBring_awlLoad (s : Hw) (f : Bringup → Bringup) : (s.modBring f).awlLoad = s.awlLoad := rfl
@[simp] theorem Hw.modBring_libBad (s : Hw) (f : Bringup → Bringup) : (s.modBring f).libBad = s.libBad := rfl
@[simp] theorem Hw.modBring_cs (s : Hw) (f : Bringup → Bringup) : (s.modBring f).cs = s.cs := rfl
@[simp] theorem Hw.modBring_pairs (s : Hw) (f : Bringup → Bringup) : (s.modBring f).pairs = s.pairs := rfl
@[simp] theorem Hw.modBring_digs (s : Hw) (f : Bringup → Bringup) : (s.modBring f).digs = s.digs := rfl
@[simp] theorem Hw.modBring_board (s : Hw) (f : Bringup → Bringup) : (s.modBring f).board = s.board := rfl
@[simp] theorem Hw.modBring_pkb (s : Hw) (f : Bringup → Bringup) : (s.modBring f).pkb = s.pkb := rfl
@[simp] theorem Hw.modBring_pku (s : Hw) (f : Bringup → Bringup) : (s.modBring f).pku = s.pku := rfl
@[simp] theorem Hw.modBring_ucode (s : Hw) (f : Bringup → Bringup) : (s.modBring f).ucode = s.ucode := rfl
@[simp] theorem Hw.modBring_keys (s : Hw) (f : Bringup → Bringup) : (s.modBring f).keys = s.keys := rfl
@[simp] theorem Hw.modBring_kp (s : Hw) (f : Bringup → Bringup) : (s.modBring f).kp = s.kp := rfl
@[simp] theorem Hw.modBring_mm (s : Hw) (f : Bringup → Bringup) : (s.modBring f).mm = s.mm := rfl
@[simp] theorem Hw.modBring_flt (s : Hw) (f : Bringup → Bringup) : (s.modBring f).flt = s.flt := rfl
@[simp] theorem Hw.modBring_ward (s : Hw) (f : Bringup → Bringup) : (s.modBring f).ward = s.ward := rfl
@[simp] theorem Hw.modBring_recd (s : Hw) (f : Bringup → Bringup) : (s.modBring f).recd = s.recd := rfl
@[simp] theorem Hw.modBring_cen (s : Hw) (f : Bringup → Bringup) : (s.modBring f).cen = s.cen := rfl
@[simp] theorem Hw.modBring_sec (s : Hw) (f : Bringup → Bringup) : (s.modBring f).sec = s.sec := rfl
@[simp] theorem Hw.modBring_hns (s : Hw) (f : Bringup → Bringup) : (s.modBring f).hns = s.hns := rfl
@[simp] theorem Hw.modBring_tap (s : Hw) (f : Bringup → Bringup) : (s.modBring f).tap = s.tap := rfl
@[simp] theorem Hw.modBring_viewA (s : Hw) (f : Bringup → Bringup) : (s.modBring f).viewA = s.viewA := rfl
@[simp] theorem Hw.modBring_viewB (s : Hw) (f : Bringup → Bringup) : (s.modBring f).viewB = s.viewB := rfl
@[simp] theorem Hw.modBring_dselA (s : Hw) (f : Bringup → Bringup) : (s.modBring f).dselA = s.dselA := rfl
@[simp] theorem Hw.modBring_dselB (s : Hw) (f : Bringup → Bringup) : (s.modBring f).dselB = s.dselB := rfl
@[simp] theorem Hw.modBring_freeCount (s : Hw) (f : Bringup → Bringup) : (s.modBring f).freeCount = s.freeCount := rfl

/-! ### Moving the clock on -/

@[simp] theorem advanceTo_mc (s : Hw) (t : Nat) : (advanceTo s t).mc = s.mc := rfl
@[simp] theorem advanceTo_cinch (s : Hw) (t : Nat) : (advanceTo s t).cinch = s.cinch := rfl
@[simp] theorem advanceTo_seam (s : Hw) (t : Nat) : (advanceTo s t).seam = s.seam := rfl
@[simp] theorem advanceTo_active (s : Hw) (t : Nat) : (advanceTo s t).active = s.active := rfl
@[simp] theorem advanceTo_shadow (s : Hw) (t : Nat) : (advanceTo s t).shadow = s.shadow := rfl
@[simp] theorem advanceTo_rings (s : Hw) (t : Nat) : (advanceTo s t).rings = s.rings := rfl
@[simp] theorem advanceTo_rm (s : Hw) (t : Nat) : (advanceTo s t).rm = s.rm := rfl
@[simp] theorem advanceTo_dbs (s : Hw) (t : Nat) : (advanceTo s t).dbs = s.dbs := rfl
@[simp] theorem advanceTo_ctxs (s : Hw) (t : Nat) : (advanceTo s t).ctxs = s.ctxs := rfl
@[simp] theorem advanceTo_jobs (s : Hw) (t : Nat) : (advanceTo s t).jobs = s.jobs := rfl
@[simp] theorem advanceTo_jobSeq (s : Hw) (t : Nat) : (advanceTo s t).jobSeq = s.jobSeq := rfl
@[simp] theorem advanceTo_trapq (s : Hw) (t : Nat) : (advanceTo s t).trapq = s.trapq := rfl
@[simp] theorem advanceTo_awlLoad (s : Hw) (t : Nat) : (advanceTo s t).awlLoad = s.awlLoad := rfl
@[simp] theorem advanceTo_libBad (s : Hw) (t : Nat) : (advanceTo s t).libBad = s.libBad := rfl
@[simp] theorem advanceTo_cs (s : Hw) (t : Nat) : (advanceTo s t).cs = s.cs := rfl
@[simp] theorem advanceTo_pairs (s : Hw) (t : Nat) : (advanceTo s t).pairs = s.pairs := rfl
@[simp] theorem advanceTo_digs (s : Hw) (t : Nat) : (advanceTo s t).digs = s.digs := rfl
@[simp] theorem advanceTo_board (s : Hw) (t : Nat) : (advanceTo s t).board = s.board := rfl
@[simp] theorem advanceTo_pkb (s : Hw) (t : Nat) : (advanceTo s t).pkb = s.pkb := rfl
@[simp] theorem advanceTo_pku (s : Hw) (t : Nat) : (advanceTo s t).pku = s.pku := rfl
@[simp] theorem advanceTo_ucode (s : Hw) (t : Nat) : (advanceTo s t).ucode = s.ucode := rfl
@[simp] theorem advanceTo_keys (s : Hw) (t : Nat) : (advanceTo s t).keys = s.keys := rfl
@[simp] theorem advanceTo_kp (s : Hw) (t : Nat) : (advanceTo s t).kp = s.kp := rfl
@[simp] theorem advanceTo_mm (s : Hw) (t : Nat) : (advanceTo s t).mm = s.mm := rfl
@[simp] theorem advanceTo_flt (s : Hw) (t : Nat) : (advanceTo s t).flt = s.flt := rfl
@[simp] theorem advanceTo_ward (s : Hw) (t : Nat) : (advanceTo s t).ward = s.ward := rfl
@[simp] theorem advanceTo_recd (s : Hw) (t : Nat) : (advanceTo s t).recd = s.recd := rfl
@[simp] theorem advanceTo_cen (s : Hw) (t : Nat) : (advanceTo s t).cen = s.cen := rfl
@[simp] theorem advanceTo_sec (s : Hw) (t : Nat) : (advanceTo s t).sec = s.sec := rfl
@[simp] theorem advanceTo_hns (s : Hw) (t : Nat) : (advanceTo s t).hns = s.hns := rfl
@[simp] theorem advanceTo_tap (s : Hw) (t : Nat) : (advanceTo s t).tap = s.tap := rfl
@[simp] theorem advanceTo_viewA (s : Hw) (t : Nat) : (advanceTo s t).viewA = s.viewA := rfl
@[simp] theorem advanceTo_viewB (s : Hw) (t : Nat) : (advanceTo s t).viewB = s.viewB := rfl
@[simp] theorem advanceTo_dselA (s : Hw) (t : Nat) : (advanceTo s t).dselA = s.dselA := rfl
@[simp] theorem advanceTo_dselB (s : Hw) (t : Nat) : (advanceTo s t).dselB = s.dselB := rfl
@[simp] theorem advanceTo_freeCount (s : Hw) (t : Nat) : (advanceTo s t).freeCount = s.freeCount := rfl
@[simp] theorem advanceAon_mc (s : Hw) (t : Nat) : (advanceAon s t).mc = s.mc := rfl
@[simp] theorem advanceAon_cinch (s : Hw) (t : Nat) : (advanceAon s t).cinch = s.cinch := rfl
@[simp] theorem advanceAon_seam (s : Hw) (t : Nat) : (advanceAon s t).seam = s.seam := rfl
@[simp] theorem advanceAon_active (s : Hw) (t : Nat) : (advanceAon s t).active = s.active := rfl
@[simp] theorem advanceAon_shadow (s : Hw) (t : Nat) : (advanceAon s t).shadow = s.shadow := rfl
@[simp] theorem advanceAon_rings (s : Hw) (t : Nat) : (advanceAon s t).rings = s.rings := rfl
@[simp] theorem advanceAon_rm (s : Hw) (t : Nat) : (advanceAon s t).rm = s.rm := rfl
@[simp] theorem advanceAon_dbs (s : Hw) (t : Nat) : (advanceAon s t).dbs = s.dbs := rfl
@[simp] theorem advanceAon_ctxs (s : Hw) (t : Nat) : (advanceAon s t).ctxs = s.ctxs := rfl
@[simp] theorem advanceAon_jobs (s : Hw) (t : Nat) : (advanceAon s t).jobs = s.jobs := rfl
@[simp] theorem advanceAon_jobSeq (s : Hw) (t : Nat) : (advanceAon s t).jobSeq = s.jobSeq := rfl
@[simp] theorem advanceAon_trapq (s : Hw) (t : Nat) : (advanceAon s t).trapq = s.trapq := rfl
@[simp] theorem advanceAon_awlLoad (s : Hw) (t : Nat) : (advanceAon s t).awlLoad = s.awlLoad := rfl
@[simp] theorem advanceAon_libBad (s : Hw) (t : Nat) : (advanceAon s t).libBad = s.libBad := rfl
@[simp] theorem advanceAon_cs (s : Hw) (t : Nat) : (advanceAon s t).cs = s.cs := rfl
@[simp] theorem advanceAon_pairs (s : Hw) (t : Nat) : (advanceAon s t).pairs = s.pairs := rfl
@[simp] theorem advanceAon_digs (s : Hw) (t : Nat) : (advanceAon s t).digs = s.digs := rfl
@[simp] theorem advanceAon_board (s : Hw) (t : Nat) : (advanceAon s t).board = s.board := rfl
@[simp] theorem advanceAon_pkb (s : Hw) (t : Nat) : (advanceAon s t).pkb = s.pkb := rfl
@[simp] theorem advanceAon_pku (s : Hw) (t : Nat) : (advanceAon s t).pku = s.pku := rfl
@[simp] theorem advanceAon_ucode (s : Hw) (t : Nat) : (advanceAon s t).ucode = s.ucode := rfl
@[simp] theorem advanceAon_keys (s : Hw) (t : Nat) : (advanceAon s t).keys = s.keys := rfl
@[simp] theorem advanceAon_kp (s : Hw) (t : Nat) : (advanceAon s t).kp = s.kp := rfl
@[simp] theorem advanceAon_mm (s : Hw) (t : Nat) : (advanceAon s t).mm = s.mm := rfl
@[simp] theorem advanceAon_flt (s : Hw) (t : Nat) : (advanceAon s t).flt = s.flt := rfl
@[simp] theorem advanceAon_ward (s : Hw) (t : Nat) : (advanceAon s t).ward = s.ward := rfl
@[simp] theorem advanceAon_recd (s : Hw) (t : Nat) : (advanceAon s t).recd = s.recd := rfl
@[simp] theorem advanceAon_cen (s : Hw) (t : Nat) : (advanceAon s t).cen = s.cen := rfl
@[simp] theorem advanceAon_sec (s : Hw) (t : Nat) : (advanceAon s t).sec = s.sec := rfl
@[simp] theorem advanceAon_hns (s : Hw) (t : Nat) : (advanceAon s t).hns = s.hns := rfl
@[simp] theorem advanceAon_tap (s : Hw) (t : Nat) : (advanceAon s t).tap = s.tap := rfl
@[simp] theorem advanceAon_viewA (s : Hw) (t : Nat) : (advanceAon s t).viewA = s.viewA := rfl
@[simp] theorem advanceAon_viewB (s : Hw) (t : Nat) : (advanceAon s t).viewB = s.viewB := rfl
@[simp] theorem advanceAon_dselA (s : Hw) (t : Nat) : (advanceAon s t).dselA = s.dselA := rfl
@[simp] theorem advanceAon_dselB (s : Hw) (t : Nat) : (advanceAon s t).dselB = s.dselB := rfl
@[simp] theorem advanceAon_freeCount (s : Hw) (t : Nat) : (advanceAon s t).freeCount = s.freeCount := rfl

/-! ### Fields of a context -/

@[simp] theorem Ctx.setTk_st (x : Ctx) (t : Nat) (k : Ticket) : (x.setTk t k).st = x.st := rfl
@[simp] theorem Ctx.setTk_hold (x : Ctx) (t : Nat) (k : Ticket) : (x.setTk t k).hold = x.hold := rfl
@[simp] theorem Ctx.setTk_regs (x : Ctx) (t : Nat) (k : Ticket) : (x.setTk t k).regs = x.regs := rfl
@[simp] theorem Ctx.setTk_lc (x : Ctx) (t : Nat) (k : Ticket) : (x.setTk t k).lc = x.lc := rfl
@[simp] theorem Ctx.setTk_mbase (x : Ctx) (t : Nat) (k : Ticket) : (x.setTk t k).mbase = x.mbase := rfl
@[simp] theorem Ctx.setTk_mlen (x : Ctx) (t : Nat) (k : Ticket) : (x.setTk t k).mlen = x.mlen := rfl
@[simp] theorem Ctx.setTk_brw (x : Ctx) (t : Nat) (k : Ticket) : (x.setTk t k).brw = x.brw := rfl
@[simp] theorem Ctx.setTk_flags (x : Ctx) (t : Nat) (k : Ticket) : (x.setTk t k).flags = x.flags := rfl
@[simp] theorem Ctx.setTk_dztrap (x : Ctx) (t : Nat) (k : Ticket) : (x.setTk t k).dztrap = x.dztrap := rfl
@[simp] theorem Ctx.setTk_pc (x : Ctx) (t : Nat) (k : Ticket) : (x.setTk t k).pc = x.pc := rfl
@[simp] theorem Ctx.setTk_scratch (x : Ctx) (t : Nat) (k : Ticket) : (x.setTk t k).scratch = x.scratch := rfl
@[simp] theorem Ctx.setTk_rep (x : Ctx) (t : Nat) (k : Ticket) : (x.setTk t k).rep = x.rep := rfl
@[simp] theorem Ctx.setTk_retired (x : Ctx) (t : Nat) (k : Ticket) : (x.setTk t k).retired = x.retired := rfl
@[simp] theorem Ctx.setTk_entry (x : Ctx) (t : Nat) (k : Ticket) : (x.setTk t k).entry = x.entry := rfl
@[simp] theorem Ctx.setTk_req (x : Ctx) (t : Nat) (k : Ticket) : (x.setTk t k).req = x.req := rfl
@[simp] theorem Ctx.setTk_inWalk (x : Ctx) (t : Nat) (k : Ticket) : (x.setTk t k).inWalk = x.inWalk := rfl
@[simp] theorem Ctx.setTk_outWalk (x : Ctx) (t : Nat) (k : Ticket) : (x.setTk t k).outWalk = x.outWalk := rfl
@[simp] theorem Ctx.setTk_inCursor (x : Ctx) (t : Nat) (k : Ticket) : (x.setTk t k).inCursor = x.inCursor := rfl
@[simp] theorem Ctx.setTk_outCursor (x : Ctx) (t : Nat) (k : Ticket) : (x.setTk t k).outCursor = x.outCursor := rfl
@[simp] theorem Ctx.setTk_handles (x : Ctx) (t : Nat) (k : Ticket) : (x.setTk t k).handles = x.handles := rfl
@[simp] theorem Ctx.setTk_holders (x : Ctx) (t : Nat) (k : Ticket) : (x.setTk t k).holders = x.holders := rfl
@[simp] theorem Ctx.setTk_cstreams (x : Ctx) (t : Nat) (k : Ticket) : (x.setTk t k).cstreams = x.cstreams := rfl
@[simp] theorem Ctx.setTk_dstreams (x : Ctx) (t : Nat) (k : Ticket) : (x.setTk t k).dstreams = x.dstreams := rfl
@[simp] theorem Ctx.setTk_scrub (x : Ctx) (t : Nat) (k : Ticket) : (x.setTk t k).scrub = x.scrub := rfl
@[simp] theorem Ctx.setTk_scrubbing (x : Ctx) (t : Nat) (k : Ticket) : (x.setTk t k).scrubbing = x.scrubbing := rfl
@[simp] theorem Ctx.setTk_posted (x : Ctx) (t : Nat) (k : Ticket) : (x.setTk t k).posted = x.posted := rfl
@[simp] theorem Ctx.setTk_withdrawn (x : Ctx) (t : Nat) (k : Ticket) : (x.setTk t k).withdrawn = x.withdrawn := rfl
@[simp] theorem Ctx.setTk_noRecord (x : Ctx) (t : Nat) (k : Ticket) : (x.setTk t k).noRecord = x.noRecord := rfl
@[simp] theorem Ctx.setTk_deferred (x : Ctx) (t : Nat) (k : Ticket) : (x.setTk t k).deferred = x.deferred := rfl
@[simp] theorem Ctx.setTk_committed (x : Ctx) (t : Nat) (k : Ticket) : (x.setTk t k).committed = x.committed := rfl
@[simp] theorem Ctx.setTk_mismatch (x : Ctx) (t : Nat) (k : Ticket) : (x.setTk t k).mismatch = x.mismatch := rfl
@[simp] theorem Ctx.setTk_lostData (x : Ctx) (t : Nat) (k : Ticket) : (x.setTk t k).lostData = x.lostData := rfl
@[simp] theorem Ctx.setTk_held (x : Ctx) (t : Nat) (k : Ticket) : (x.setTk t k).held = x.held := rfl
@[simp] theorem Ctx.setTk_scrubbed (x : Ctx) (t : Nat) (k : Ticket) : (x.setTk t k).scrubbed = x.scrubbed := rfl
@[simp] theorem Ctx.setTk_unscrubbed (x : Ctx) (t : Nat) (k : Ticket) : (x.setTk t k).unscrubbed = x.unscrubbed := rfl
@[simp] theorem Ctx.setTk_emulated (x : Ctx) (t : Nat) (k : Ticket) : (x.setTk t k).emulated = x.emulated := rfl
@[simp] theorem Ctx.setTk_bytes (x : Ctx) (t : Nat) (k : Ticket) : (x.setTk t k).bytes = x.bytes := rfl
@[simp] theorem Ctx.setTk_invocation (x : Ctx) (t : Nat) (k : Ticket) : (x.setTk t k).invocation = x.invocation := rfl
@[simp] theorem Ctx.setTk_attempts (x : Ctx) (t : Nat) (k : Ticket) : (x.setTk t k).attempts = x.attempts := rfl

@[simp] theorem Ctx.setHnd_st (x : Ctx) (h : Nat) (v : Handle) : (x.setHnd h v).st = x.st := rfl
@[simp] theorem Ctx.setHnd_hold (x : Ctx) (h : Nat) (v : Handle) : (x.setHnd h v).hold = x.hold := rfl
@[simp] theorem Ctx.setHnd_regs (x : Ctx) (h : Nat) (v : Handle) : (x.setHnd h v).regs = x.regs := rfl
@[simp] theorem Ctx.setHnd_lc (x : Ctx) (h : Nat) (v : Handle) : (x.setHnd h v).lc = x.lc := rfl
@[simp] theorem Ctx.setHnd_mbase (x : Ctx) (h : Nat) (v : Handle) : (x.setHnd h v).mbase = x.mbase := rfl
@[simp] theorem Ctx.setHnd_mlen (x : Ctx) (h : Nat) (v : Handle) : (x.setHnd h v).mlen = x.mlen := rfl
@[simp] theorem Ctx.setHnd_brw (x : Ctx) (h : Nat) (v : Handle) : (x.setHnd h v).brw = x.brw := rfl
@[simp] theorem Ctx.setHnd_flags (x : Ctx) (h : Nat) (v : Handle) : (x.setHnd h v).flags = x.flags := rfl
@[simp] theorem Ctx.setHnd_dztrap (x : Ctx) (h : Nat) (v : Handle) : (x.setHnd h v).dztrap = x.dztrap := rfl
@[simp] theorem Ctx.setHnd_pc (x : Ctx) (h : Nat) (v : Handle) : (x.setHnd h v).pc = x.pc := rfl
@[simp] theorem Ctx.setHnd_scratch (x : Ctx) (h : Nat) (v : Handle) : (x.setHnd h v).scratch = x.scratch := rfl
@[simp] theorem Ctx.setHnd_rep (x : Ctx) (h : Nat) (v : Handle) : (x.setHnd h v).rep = x.rep := rfl
@[simp] theorem Ctx.setHnd_retired (x : Ctx) (h : Nat) (v : Handle) : (x.setHnd h v).retired = x.retired := rfl
@[simp] theorem Ctx.setHnd_entry (x : Ctx) (h : Nat) (v : Handle) : (x.setHnd h v).entry = x.entry := rfl
@[simp] theorem Ctx.setHnd_req (x : Ctx) (h : Nat) (v : Handle) : (x.setHnd h v).req = x.req := rfl
@[simp] theorem Ctx.setHnd_inWalk (x : Ctx) (h : Nat) (v : Handle) : (x.setHnd h v).inWalk = x.inWalk := rfl
@[simp] theorem Ctx.setHnd_outWalk (x : Ctx) (h : Nat) (v : Handle) : (x.setHnd h v).outWalk = x.outWalk := rfl
@[simp] theorem Ctx.setHnd_inCursor (x : Ctx) (h : Nat) (v : Handle) : (x.setHnd h v).inCursor = x.inCursor := rfl
@[simp] theorem Ctx.setHnd_outCursor (x : Ctx) (h : Nat) (v : Handle) : (x.setHnd h v).outCursor = x.outCursor := rfl
@[simp] theorem Ctx.setHnd_tickets (x : Ctx) (h : Nat) (v : Handle) : (x.setHnd h v).tickets = x.tickets := rfl
@[simp] theorem Ctx.setHnd_holders (x : Ctx) (h : Nat) (v : Handle) : (x.setHnd h v).holders = x.holders := rfl
@[simp] theorem Ctx.setHnd_cstreams (x : Ctx) (h : Nat) (v : Handle) : (x.setHnd h v).cstreams = x.cstreams := rfl
@[simp] theorem Ctx.setHnd_dstreams (x : Ctx) (h : Nat) (v : Handle) : (x.setHnd h v).dstreams = x.dstreams := rfl
@[simp] theorem Ctx.setHnd_scrub (x : Ctx) (h : Nat) (v : Handle) : (x.setHnd h v).scrub = x.scrub := rfl
@[simp] theorem Ctx.setHnd_scrubbing (x : Ctx) (h : Nat) (v : Handle) : (x.setHnd h v).scrubbing = x.scrubbing := rfl
@[simp] theorem Ctx.setHnd_posted (x : Ctx) (h : Nat) (v : Handle) : (x.setHnd h v).posted = x.posted := rfl
@[simp] theorem Ctx.setHnd_withdrawn (x : Ctx) (h : Nat) (v : Handle) : (x.setHnd h v).withdrawn = x.withdrawn := rfl
@[simp] theorem Ctx.setHnd_noRecord (x : Ctx) (h : Nat) (v : Handle) : (x.setHnd h v).noRecord = x.noRecord := rfl
@[simp] theorem Ctx.setHnd_deferred (x : Ctx) (h : Nat) (v : Handle) : (x.setHnd h v).deferred = x.deferred := rfl
@[simp] theorem Ctx.setHnd_committed (x : Ctx) (h : Nat) (v : Handle) : (x.setHnd h v).committed = x.committed := rfl
@[simp] theorem Ctx.setHnd_mismatch (x : Ctx) (h : Nat) (v : Handle) : (x.setHnd h v).mismatch = x.mismatch := rfl
@[simp] theorem Ctx.setHnd_lostData (x : Ctx) (h : Nat) (v : Handle) : (x.setHnd h v).lostData = x.lostData := rfl
@[simp] theorem Ctx.setHnd_held (x : Ctx) (h : Nat) (v : Handle) : (x.setHnd h v).held = x.held := rfl
@[simp] theorem Ctx.setHnd_scrubbed (x : Ctx) (h : Nat) (v : Handle) : (x.setHnd h v).scrubbed = x.scrubbed := rfl
@[simp] theorem Ctx.setHnd_unscrubbed (x : Ctx) (h : Nat) (v : Handle) : (x.setHnd h v).unscrubbed = x.unscrubbed := rfl
@[simp] theorem Ctx.setHnd_emulated (x : Ctx) (h : Nat) (v : Handle) : (x.setHnd h v).emulated = x.emulated := rfl
@[simp] theorem Ctx.setHnd_bytes (x : Ctx) (h : Nat) (v : Handle) : (x.setHnd h v).bytes = x.bytes := rfl
@[simp] theorem Ctx.setHnd_invocation (x : Ctx) (h : Nat) (v : Handle) : (x.setHnd h v).invocation = x.invocation := rfl
@[simp] theorem Ctx.setHnd_attempts (x : Ctx) (h : Nat) (v : Handle) : (x.setHnd h v).attempts = x.attempts := rfl

@[simp] theorem Ctx.setCs_st (x : Ctx) (n : Nat) (v : CipherStream) : (x.setCs n v).st = x.st := rfl
@[simp] theorem Ctx.setCs_hold (x : Ctx) (n : Nat) (v : CipherStream) : (x.setCs n v).hold = x.hold := rfl
@[simp] theorem Ctx.setCs_regs (x : Ctx) (n : Nat) (v : CipherStream) : (x.setCs n v).regs = x.regs := rfl
@[simp] theorem Ctx.setCs_lc (x : Ctx) (n : Nat) (v : CipherStream) : (x.setCs n v).lc = x.lc := rfl
@[simp] theorem Ctx.setCs_mbase (x : Ctx) (n : Nat) (v : CipherStream) : (x.setCs n v).mbase = x.mbase := rfl
@[simp] theorem Ctx.setCs_mlen (x : Ctx) (n : Nat) (v : CipherStream) : (x.setCs n v).mlen = x.mlen := rfl
@[simp] theorem Ctx.setCs_brw (x : Ctx) (n : Nat) (v : CipherStream) : (x.setCs n v).brw = x.brw := rfl
@[simp] theorem Ctx.setCs_flags (x : Ctx) (n : Nat) (v : CipherStream) : (x.setCs n v).flags = x.flags := rfl
@[simp] theorem Ctx.setCs_dztrap (x : Ctx) (n : Nat) (v : CipherStream) : (x.setCs n v).dztrap = x.dztrap := rfl
@[simp] theorem Ctx.setCs_pc (x : Ctx) (n : Nat) (v : CipherStream) : (x.setCs n v).pc = x.pc := rfl
@[simp] theorem Ctx.setCs_scratch (x : Ctx) (n : Nat) (v : CipherStream) : (x.setCs n v).scratch = x.scratch := rfl
@[simp] theorem Ctx.setCs_rep (x : Ctx) (n : Nat) (v : CipherStream) : (x.setCs n v).rep = x.rep := rfl
@[simp] theorem Ctx.setCs_retired (x : Ctx) (n : Nat) (v : CipherStream) : (x.setCs n v).retired = x.retired := rfl
@[simp] theorem Ctx.setCs_entry (x : Ctx) (n : Nat) (v : CipherStream) : (x.setCs n v).entry = x.entry := rfl
@[simp] theorem Ctx.setCs_req (x : Ctx) (n : Nat) (v : CipherStream) : (x.setCs n v).req = x.req := rfl
@[simp] theorem Ctx.setCs_inWalk (x : Ctx) (n : Nat) (v : CipherStream) : (x.setCs n v).inWalk = x.inWalk := rfl
@[simp] theorem Ctx.setCs_outWalk (x : Ctx) (n : Nat) (v : CipherStream) : (x.setCs n v).outWalk = x.outWalk := rfl
@[simp] theorem Ctx.setCs_inCursor (x : Ctx) (n : Nat) (v : CipherStream) : (x.setCs n v).inCursor = x.inCursor := rfl
@[simp] theorem Ctx.setCs_outCursor (x : Ctx) (n : Nat) (v : CipherStream) : (x.setCs n v).outCursor = x.outCursor := rfl
@[simp] theorem Ctx.setCs_tickets (x : Ctx) (n : Nat) (v : CipherStream) : (x.setCs n v).tickets = x.tickets := rfl
@[simp] theorem Ctx.setCs_handles (x : Ctx) (n : Nat) (v : CipherStream) : (x.setCs n v).handles = x.handles := rfl
@[simp] theorem Ctx.setCs_holders (x : Ctx) (n : Nat) (v : CipherStream) : (x.setCs n v).holders = x.holders := rfl
@[simp] theorem Ctx.setCs_dstreams (x : Ctx) (n : Nat) (v : CipherStream) : (x.setCs n v).dstreams = x.dstreams := rfl
@[simp] theorem Ctx.setCs_scrub (x : Ctx) (n : Nat) (v : CipherStream) : (x.setCs n v).scrub = x.scrub := rfl
@[simp] theorem Ctx.setCs_scrubbing (x : Ctx) (n : Nat) (v : CipherStream) : (x.setCs n v).scrubbing = x.scrubbing := rfl
@[simp] theorem Ctx.setCs_posted (x : Ctx) (n : Nat) (v : CipherStream) : (x.setCs n v).posted = x.posted := rfl
@[simp] theorem Ctx.setCs_withdrawn (x : Ctx) (n : Nat) (v : CipherStream) : (x.setCs n v).withdrawn = x.withdrawn := rfl
@[simp] theorem Ctx.setCs_noRecord (x : Ctx) (n : Nat) (v : CipherStream) : (x.setCs n v).noRecord = x.noRecord := rfl
@[simp] theorem Ctx.setCs_deferred (x : Ctx) (n : Nat) (v : CipherStream) : (x.setCs n v).deferred = x.deferred := rfl
@[simp] theorem Ctx.setCs_committed (x : Ctx) (n : Nat) (v : CipherStream) : (x.setCs n v).committed = x.committed := rfl
@[simp] theorem Ctx.setCs_mismatch (x : Ctx) (n : Nat) (v : CipherStream) : (x.setCs n v).mismatch = x.mismatch := rfl
@[simp] theorem Ctx.setCs_lostData (x : Ctx) (n : Nat) (v : CipherStream) : (x.setCs n v).lostData = x.lostData := rfl
@[simp] theorem Ctx.setCs_held (x : Ctx) (n : Nat) (v : CipherStream) : (x.setCs n v).held = x.held := rfl
@[simp] theorem Ctx.setCs_scrubbed (x : Ctx) (n : Nat) (v : CipherStream) : (x.setCs n v).scrubbed = x.scrubbed := rfl
@[simp] theorem Ctx.setCs_unscrubbed (x : Ctx) (n : Nat) (v : CipherStream) : (x.setCs n v).unscrubbed = x.unscrubbed := rfl
@[simp] theorem Ctx.setCs_emulated (x : Ctx) (n : Nat) (v : CipherStream) : (x.setCs n v).emulated = x.emulated := rfl
@[simp] theorem Ctx.setCs_bytes (x : Ctx) (n : Nat) (v : CipherStream) : (x.setCs n v).bytes = x.bytes := rfl
@[simp] theorem Ctx.setCs_invocation (x : Ctx) (n : Nat) (v : CipherStream) : (x.setCs n v).invocation = x.invocation := rfl
@[simp] theorem Ctx.setCs_attempts (x : Ctx) (n : Nat) (v : CipherStream) : (x.setCs n v).attempts = x.attempts := rfl

@[simp] theorem Ctx.setDs_st (x : Ctx) (n : Nat) (v : DigestStream) : (x.setDs n v).st = x.st := rfl
@[simp] theorem Ctx.setDs_hold (x : Ctx) (n : Nat) (v : DigestStream) : (x.setDs n v).hold = x.hold := rfl
@[simp] theorem Ctx.setDs_regs (x : Ctx) (n : Nat) (v : DigestStream) : (x.setDs n v).regs = x.regs := rfl
@[simp] theorem Ctx.setDs_lc (x : Ctx) (n : Nat) (v : DigestStream) : (x.setDs n v).lc = x.lc := rfl
@[simp] theorem Ctx.setDs_mbase (x : Ctx) (n : Nat) (v : DigestStream) : (x.setDs n v).mbase = x.mbase := rfl
@[simp] theorem Ctx.setDs_mlen (x : Ctx) (n : Nat) (v : DigestStream) : (x.setDs n v).mlen = x.mlen := rfl
@[simp] theorem Ctx.setDs_brw (x : Ctx) (n : Nat) (v : DigestStream) : (x.setDs n v).brw = x.brw := rfl
@[simp] theorem Ctx.setDs_flags (x : Ctx) (n : Nat) (v : DigestStream) : (x.setDs n v).flags = x.flags := rfl
@[simp] theorem Ctx.setDs_dztrap (x : Ctx) (n : Nat) (v : DigestStream) : (x.setDs n v).dztrap = x.dztrap := rfl
@[simp] theorem Ctx.setDs_pc (x : Ctx) (n : Nat) (v : DigestStream) : (x.setDs n v).pc = x.pc := rfl
@[simp] theorem Ctx.setDs_scratch (x : Ctx) (n : Nat) (v : DigestStream) : (x.setDs n v).scratch = x.scratch := rfl
@[simp] theorem Ctx.setDs_rep (x : Ctx) (n : Nat) (v : DigestStream) : (x.setDs n v).rep = x.rep := rfl
@[simp] theorem Ctx.setDs_retired (x : Ctx) (n : Nat) (v : DigestStream) : (x.setDs n v).retired = x.retired := rfl
@[simp] theorem Ctx.setDs_entry (x : Ctx) (n : Nat) (v : DigestStream) : (x.setDs n v).entry = x.entry := rfl
@[simp] theorem Ctx.setDs_req (x : Ctx) (n : Nat) (v : DigestStream) : (x.setDs n v).req = x.req := rfl
@[simp] theorem Ctx.setDs_inWalk (x : Ctx) (n : Nat) (v : DigestStream) : (x.setDs n v).inWalk = x.inWalk := rfl
@[simp] theorem Ctx.setDs_outWalk (x : Ctx) (n : Nat) (v : DigestStream) : (x.setDs n v).outWalk = x.outWalk := rfl
@[simp] theorem Ctx.setDs_inCursor (x : Ctx) (n : Nat) (v : DigestStream) : (x.setDs n v).inCursor = x.inCursor := rfl
@[simp] theorem Ctx.setDs_outCursor (x : Ctx) (n : Nat) (v : DigestStream) : (x.setDs n v).outCursor = x.outCursor := rfl
@[simp] theorem Ctx.setDs_tickets (x : Ctx) (n : Nat) (v : DigestStream) : (x.setDs n v).tickets = x.tickets := rfl
@[simp] theorem Ctx.setDs_handles (x : Ctx) (n : Nat) (v : DigestStream) : (x.setDs n v).handles = x.handles := rfl
@[simp] theorem Ctx.setDs_holders (x : Ctx) (n : Nat) (v : DigestStream) : (x.setDs n v).holders = x.holders := rfl
@[simp] theorem Ctx.setDs_cstreams (x : Ctx) (n : Nat) (v : DigestStream) : (x.setDs n v).cstreams = x.cstreams := rfl
@[simp] theorem Ctx.setDs_scrub (x : Ctx) (n : Nat) (v : DigestStream) : (x.setDs n v).scrub = x.scrub := rfl
@[simp] theorem Ctx.setDs_scrubbing (x : Ctx) (n : Nat) (v : DigestStream) : (x.setDs n v).scrubbing = x.scrubbing := rfl
@[simp] theorem Ctx.setDs_posted (x : Ctx) (n : Nat) (v : DigestStream) : (x.setDs n v).posted = x.posted := rfl
@[simp] theorem Ctx.setDs_withdrawn (x : Ctx) (n : Nat) (v : DigestStream) : (x.setDs n v).withdrawn = x.withdrawn := rfl
@[simp] theorem Ctx.setDs_noRecord (x : Ctx) (n : Nat) (v : DigestStream) : (x.setDs n v).noRecord = x.noRecord := rfl
@[simp] theorem Ctx.setDs_deferred (x : Ctx) (n : Nat) (v : DigestStream) : (x.setDs n v).deferred = x.deferred := rfl
@[simp] theorem Ctx.setDs_committed (x : Ctx) (n : Nat) (v : DigestStream) : (x.setDs n v).committed = x.committed := rfl
@[simp] theorem Ctx.setDs_mismatch (x : Ctx) (n : Nat) (v : DigestStream) : (x.setDs n v).mismatch = x.mismatch := rfl
@[simp] theorem Ctx.setDs_lostData (x : Ctx) (n : Nat) (v : DigestStream) : (x.setDs n v).lostData = x.lostData := rfl
@[simp] theorem Ctx.setDs_held (x : Ctx) (n : Nat) (v : DigestStream) : (x.setDs n v).held = x.held := rfl
@[simp] theorem Ctx.setDs_scrubbed (x : Ctx) (n : Nat) (v : DigestStream) : (x.setDs n v).scrubbed = x.scrubbed := rfl
@[simp] theorem Ctx.setDs_unscrubbed (x : Ctx) (n : Nat) (v : DigestStream) : (x.setDs n v).unscrubbed = x.unscrubbed := rfl
@[simp] theorem Ctx.setDs_emulated (x : Ctx) (n : Nat) (v : DigestStream) : (x.setDs n v).emulated = x.emulated := rfl
@[simp] theorem Ctx.setDs_bytes (x : Ctx) (n : Nat) (v : DigestStream) : (x.setDs n v).bytes = x.bytes := rfl
@[simp] theorem Ctx.setDs_invocation (x : Ctx) (n : Nat) (v : DigestStream) : (x.setDs n v).invocation = x.invocation := rfl
@[simp] theorem Ctx.setDs_attempts (x : Ctx) (n : Nat) (v : DigestStream) : (x.setDs n v).attempts = x.attempts := rfl

@[simp] theorem Ctx.rset_st (x : Ctx) (r : BitVec 5) (v : Word) : (x.rset r v).st = x.st := by
  unfold Ctx.rset; split <;> rfl
@[simp] theorem Ctx.rset_hold (x : Ctx) (r : BitVec 5) (v : Word) : (x.rset r v).hold = x.hold := by
  unfold Ctx.rset; split <;> rfl
@[simp] theorem Ctx.rset_lc (x : Ctx) (r : BitVec 5) (v : Word) : (x.rset r v).lc = x.lc := by
  unfold Ctx.rset; split <;> rfl
@[simp] theorem Ctx.rset_mbase (x : Ctx) (r : BitVec 5) (v : Word) : (x.rset r v).mbase = x.mbase := by
  unfold Ctx.rset; split <;> rfl
@[simp] theorem Ctx.rset_mlen (x : Ctx) (r : BitVec 5) (v : Word) : (x.rset r v).mlen = x.mlen := by
  unfold Ctx.rset; split <;> rfl
@[simp] theorem Ctx.rset_brw (x : Ctx) (r : BitVec 5) (v : Word) : (x.rset r v).brw = x.brw := by
  unfold Ctx.rset; split <;> rfl
@[simp] theorem Ctx.rset_flags (x : Ctx) (r : BitVec 5) (v : Word) : (x.rset r v).flags = x.flags := by
  unfold Ctx.rset; split <;> rfl
@[simp] theorem Ctx.rset_dztrap (x : Ctx) (r : BitVec 5) (v : Word) : (x.rset r v).dztrap = x.dztrap := by
  unfold Ctx.rset; split <;> rfl
@[simp] theorem Ctx.rset_pc (x : Ctx) (r : BitVec 5) (v : Word) : (x.rset r v).pc = x.pc := by
  unfold Ctx.rset; split <;> rfl
@[simp] theorem Ctx.rset_scratch (x : Ctx) (r : BitVec 5) (v : Word) : (x.rset r v).scratch = x.scratch := by
  unfold Ctx.rset; split <;> rfl
@[simp] theorem Ctx.rset_rep (x : Ctx) (r : BitVec 5) (v : Word) : (x.rset r v).rep = x.rep := by
  unfold Ctx.rset; split <;> rfl
@[simp] theorem Ctx.rset_retired (x : Ctx) (r : BitVec 5) (v : Word) : (x.rset r v).retired = x.retired := by
  unfold Ctx.rset; split <;> rfl
@[simp] theorem Ctx.rset_entry (x : Ctx) (r : BitVec 5) (v : Word) : (x.rset r v).entry = x.entry := by
  unfold Ctx.rset; split <;> rfl
@[simp] theorem Ctx.rset_req (x : Ctx) (r : BitVec 5) (v : Word) : (x.rset r v).req = x.req := by
  unfold Ctx.rset; split <;> rfl
@[simp] theorem Ctx.rset_inWalk (x : Ctx) (r : BitVec 5) (v : Word) : (x.rset r v).inWalk = x.inWalk := by
  unfold Ctx.rset; split <;> rfl
@[simp] theorem Ctx.rset_outWalk (x : Ctx) (r : BitVec 5) (v : Word) : (x.rset r v).outWalk = x.outWalk := by
  unfold Ctx.rset; split <;> rfl
@[simp] theorem Ctx.rset_inCursor (x : Ctx) (r : BitVec 5) (v : Word) : (x.rset r v).inCursor = x.inCursor := by
  unfold Ctx.rset; split <;> rfl
@[simp] theorem Ctx.rset_outCursor (x : Ctx) (r : BitVec 5) (v : Word) : (x.rset r v).outCursor = x.outCursor := by
  unfold Ctx.rset; split <;> rfl
@[simp] theorem Ctx.rset_tickets (x : Ctx) (r : BitVec 5) (v : Word) : (x.rset r v).tickets = x.tickets := by
  unfold Ctx.rset; split <;> rfl
@[simp] theorem Ctx.rset_handles (x : Ctx) (r : BitVec 5) (v : Word) : (x.rset r v).handles = x.handles := by
  unfold Ctx.rset; split <;> rfl
@[simp] theorem Ctx.rset_holders (x : Ctx) (r : BitVec 5) (v : Word) : (x.rset r v).holders = x.holders := by
  unfold Ctx.rset; split <;> rfl
@[simp] theorem Ctx.rset_cstreams (x : Ctx) (r : BitVec 5) (v : Word) : (x.rset r v).cstreams = x.cstreams := by
  unfold Ctx.rset; split <;> rfl
@[simp] theorem Ctx.rset_dstreams (x : Ctx) (r : BitVec 5) (v : Word) : (x.rset r v).dstreams = x.dstreams := by
  unfold Ctx.rset; split <;> rfl
@[simp] theorem Ctx.rset_scrub (x : Ctx) (r : BitVec 5) (v : Word) : (x.rset r v).scrub = x.scrub := by
  unfold Ctx.rset; split <;> rfl
@[simp] theorem Ctx.rset_scrubbing (x : Ctx) (r : BitVec 5) (v : Word) : (x.rset r v).scrubbing = x.scrubbing := by
  unfold Ctx.rset; split <;> rfl
@[simp] theorem Ctx.rset_posted (x : Ctx) (r : BitVec 5) (v : Word) : (x.rset r v).posted = x.posted := by
  unfold Ctx.rset; split <;> rfl
@[simp] theorem Ctx.rset_withdrawn (x : Ctx) (r : BitVec 5) (v : Word) : (x.rset r v).withdrawn = x.withdrawn := by
  unfold Ctx.rset; split <;> rfl
@[simp] theorem Ctx.rset_noRecord (x : Ctx) (r : BitVec 5) (v : Word) : (x.rset r v).noRecord = x.noRecord := by
  unfold Ctx.rset; split <;> rfl
@[simp] theorem Ctx.rset_deferred (x : Ctx) (r : BitVec 5) (v : Word) : (x.rset r v).deferred = x.deferred := by
  unfold Ctx.rset; split <;> rfl
@[simp] theorem Ctx.rset_committed (x : Ctx) (r : BitVec 5) (v : Word) : (x.rset r v).committed = x.committed := by
  unfold Ctx.rset; split <;> rfl
@[simp] theorem Ctx.rset_mismatch (x : Ctx) (r : BitVec 5) (v : Word) : (x.rset r v).mismatch = x.mismatch := by
  unfold Ctx.rset; split <;> rfl
@[simp] theorem Ctx.rset_lostData (x : Ctx) (r : BitVec 5) (v : Word) : (x.rset r v).lostData = x.lostData := by
  unfold Ctx.rset; split <;> rfl
@[simp] theorem Ctx.rset_held (x : Ctx) (r : BitVec 5) (v : Word) : (x.rset r v).held = x.held := by
  unfold Ctx.rset; split <;> rfl
@[simp] theorem Ctx.rset_scrubbed (x : Ctx) (r : BitVec 5) (v : Word) : (x.rset r v).scrubbed = x.scrubbed := by
  unfold Ctx.rset; split <;> rfl
@[simp] theorem Ctx.rset_unscrubbed (x : Ctx) (r : BitVec 5) (v : Word) : (x.rset r v).unscrubbed = x.unscrubbed := by
  unfold Ctx.rset; split <;> rfl
@[simp] theorem Ctx.rset_emulated (x : Ctx) (r : BitVec 5) (v : Word) : (x.rset r v).emulated = x.emulated := by
  unfold Ctx.rset; split <;> rfl
@[simp] theorem Ctx.rset_bytes (x : Ctx) (r : BitVec 5) (v : Word) : (x.rset r v).bytes = x.bytes := by
  unfold Ctx.rset; split <;> rfl
@[simp] theorem Ctx.rset_invocation (x : Ctx) (r : BitVec 5) (v : Word) : (x.rset r v).invocation = x.invocation := by
  unfold Ctx.rset; split <;> rfl
@[simp] theorem Ctx.rset_attempts (x : Ctx) (r : BitVec 5) (v : Word) : (x.rset r v).attempts = x.attempts := by
  unfold Ctx.rset; split <;> rfl

end Sys2Proof.Machine
end

