-- ==== Sys2Proof/Laws/Table.lean ====
section
/-! SUPPORT. Sparse tables and byte memories: a read after a write, and the canonical form that every operation keeps. -/

namespace Sys2Proof.Machine

variable {α : Type}

theorem tget_tput_same (d v : α) (k : Nat) (t : Table α) : tget d (tput k v t) k = v := by
  induction t with
  | nil => simp [tput, tget]
  | cons e r ih =>
    obtain ⟨n, w⟩ := e
    simp only [tput]
    split
    · simp [tget]
    · split
      · simp [tget]
      · rename_i h1 h2
        simp only [tget]
        rw [if_neg (by omega)]
        exact ih

theorem tget_tput_ne (d v : α) {k a : Nat} (h : a ≠ k) (t : Table α) : tget d (tput k v t) a = tget d t a := by
  induction t with
  | nil => simp [tput, tget, Ne.symm h]
  | cons e r ih =>
    obtain ⟨n, w⟩ := e
    simp only [tput]
    split
    · simp [tget, Ne.symm h]
    · split
      · subst_vars; simp [tget, Ne.symm h]
      · simp only [tget, ih]

theorem tget_tdel_ne (d : α) {k a : Nat} (h : a ≠ k) (t : Table α) : tget d (tdel k t) a = tget d t a := by
  induction t with
  | nil => rfl
  | cons e r ih =>
    obtain ⟨n, w⟩ := e
    simp only [tdel]
    split
    · subst_vars; rw [ih]; simp [tget, Ne.symm h]
    · simp only [tget, ih]

section
variable [DecidableEq α]

/-- A canonical table lists nothing below its bound. -/
theorem tget_below {d : α} {n a : Nat} {t : Table α} (h : tableFrom d n t = true) (ha : a < n) : tget d t a = d := by
  induction t generalizing n with
  | nil => rfl
  | cons e r ih =>
    obtain ⟨k, v⟩ := e
    simp only [tableFrom, Bool.and_eq_true, decide_eq_true_eq] at h
    simp only [tget]
    rw [if_neg (by omega)]
    exact ih h.2 (by omega)

theorem tableFrom_mono {d : α} {n m : Nat} {t : Table α} (h : tableFrom d n t = true) (hm : m ≤ n) :
    tableFrom d m t = true := by
  cases t with
  | nil => rfl
  | cons e r =>
    obtain ⟨k, v⟩ := e
    simp only [tableFrom, Bool.and_eq_true, decide_eq_true_eq] at h ⊢
    exact ⟨⟨by omega, h.1.2⟩, h.2⟩

theorem tableFrom_tdel {d : α} {n : Nat} (k : Nat) {t : Table α} (h : tableFrom d n t = true) :
    tableFrom d n (tdel k t) = true := by
  induction t generalizing n with
  | nil => rfl
  | cons e r ih =>
    obtain ⟨m, v⟩ := e
    have h' := h
    simp only [tableFrom, Bool.and_eq_true, decide_eq_true_eq] at h
    simp only [tdel]
    split
    · exact tableFrom_mono (ih h.2) (by omega)
    · simp only [tableFrom, Bool.and_eq_true, decide_eq_true_eq]
      exact ⟨h.1, ih h.2⟩

theorem tableFrom_tput {d v : α} (hv : v ≠ d) {n k : Nat} (hk : n ≤ k) {t : Table α} (h : tableFrom d n t = true) :
    tableFrom d n (tput k v t) = true := by
  induction t generalizing n with
  | nil => simp [tput, tableFrom, hv, hk]
  | cons e r ih =>
    obtain ⟨m, w⟩ := e
    simp only [tableFrom, Bool.and_eq_true, decide_eq_true_eq, bne_iff_ne, ne_eq] at h
    simp only [tput]
    split
    · simp only [tableFrom, Bool.and_eq_true, decide_eq_true_eq, bne_iff_ne, ne_eq]
      exact ⟨⟨hk, hv⟩, ⟨by omega, h.1.2⟩, h.2⟩
    · split
      · subst_vars
        simp only [tableFrom, Bool.and_eq_true, decide_eq_true_eq, bne_iff_ne, ne_eq]
        exact ⟨⟨hk, hv⟩, h.2⟩
      · simp only [tableFrom, Bool.and_eq_true, decide_eq_true_eq, bne_iff_ne, ne_eq]
        exact ⟨h.1, ih (by omega) h.2⟩

/-- Setting a key keeps the canonical form. -/
theorem tableWf_tset {d : α} {t : Table α} (k : Nat) (v : α) (h : tableWf d t = true) : tableWf d (tset d t k v) = true := by
  unfold tset
  split
  · exact tableFrom_tdel k h
  · rename_i hv
    exact tableFrom_tput hv (Nat.zero_le k) h

theorem tableWf_tmod {d : α} {t : Table α} (k : Nat) (f : α → α) (h : tableWf d t = true) :
    tableWf d (tmod d t k f) = true := tableWf_tset k _ h

/-- Another key is not touched. -/
theorem tget_tset_ne (d : α) {k a : Nat} (h : a ≠ k) (t : Table α) (v : α) : tget d (tset d t k v) a = tget d t a := by
  unfold tset
  split
  · exact tget_tdel_ne d h t
  · exact tget_tput_ne d v h t

theorem tget_tdel_same {α : Type} (d : α) (k : Nat) (t : Table α) : tget d (tdel k t) k = d := by
  induction t with
  | nil => rfl
  | cons e r ih =>
    obtain ⟨m, v⟩ := e
    simp only [tdel]
    split
    · exact ih
    · rename_i hm
      simp only [tget]
      rw [if_neg hm]
      exact ih

/-- A read of the key just set. -/
@[simp] theorem tget_tset (d : α) (t : Table α) (k : Nat) (v : α) : tget d (tset d t k v) k = v := by
  unfold tset
  split
  · subst_vars; exact tget_tdel_same _ k t
  · exact tget_tput_same d v k t

theorem tget_tmod_ne (d : α) {k a : Nat} (h : a ≠ k) (t : Table α) (f : α → α) :
    tget d (tmod d t k f) a = tget d t a := tget_tset_ne d h t _

@[simp] theorem tget_tmod (d : α) (t : Table α) (k : Nat) (f : α → α) : tget d (tmod d t k f) k = f (tget d t k) :=
  tget_tset d t k _

end

/-! ### Byte memories -/

@[simp] theorem mget_mset (m : Memory) (a : Nat) (b : Byte) : mget (mset m a b) a = b := tget_tset 0 m a b

theorem mget_mset_ne (m : Memory) {a x : Nat} (b : Byte) (h : x ≠ a) : mget (mset m a b) x = mget m x := tget_tset_ne 0 h m b

theorem memoryWf_mset {m : Memory} (a : Nat) (b : Byte) (h : Memory.wf m = true) : Memory.wf (mset m a b) = true :=
  tableWf_tset a b h

/-- A write of a string keeps the canonical form. -/
theorem memoryWf_mwrite {m : Memory} (a : Nat) (l : Bytes) (h : Memory.wf m = true) : Memory.wf (mwrite m a l) = true := by
  induction l generalizing m a with
  | nil => exact h
  | cons b r ih => exact ih (a + 1) (memoryWf_mset a b h)

/-- A write of a string changes no byte outside it. -/
theorem mget_mwrite_outside (m : Memory) (a x : Nat) (l : Bytes) (h : x < a ∨ a + l.length ≤ x) :
    mget (mwrite m a l) x = mget m x := by
  induction l generalizing m a with
  | nil => rfl
  | cons b r ih =>
    simp only [mwrite]
    rw [ih _ (a + 1) (by simp only [List.length_cons] at h; omega)]
    exact mget_mset_ne m b (by simp only [List.length_cons] at h; omega)

/-- A read of a string just written gives it. -/
theorem mread_mwrite (m : Memory) (a : Nat) (l : Bytes) : mread (mwrite m a l) a l.length = l := by
  induction l generalizing m a with
  | nil => rfl
  | cons b r ih =>
    simp only [mwrite, List.length_cons, mread]
    rw [ih _ (a + 1), mget_mwrite_outside _ _ _ _ (by omega), mget_mset m a b]

/-! ### Contexts, registers and the other tables of the block -/

@[simp] theorem Hw.setCtx_ctx (s : Hw) (c : Nat) (x : Ctx) : (s.setCtx c x).ctx c = x := tget_tset _ _ c x

theorem Hw.setCtx_ctx_ne (s : Hw) {c a : Nat} (x : Ctx) (h : a ≠ c) : (s.setCtx c x).ctx a = s.ctx a :=
  tget_tset_ne ({} : Ctx) h s.ctxs x

@[simp] theorem Hw.modCtx_ctx (s : Hw) (c : Nat) (f : Ctx → Ctx) : (s.modCtx c f).ctx c = f (s.ctx c) :=
  tget_tset _ _ c _

theorem Hw.modCtx_ctx_ne (s : Hw) {c a : Nat} (f : Ctx → Ctx) (h : a ≠ c) : (s.modCtx c f).ctx a = s.ctx a :=
  Hw.setCtx_ctx_ne s _ h

theorem Ctx.rget_zero (x : Ctx) : x.rget 0 = 0 := by simp [Ctx.rget]

/-- The register just written reads as written. -/
theorem Ctx.rget_rset (x : Ctx) (r : BitVec 5) (v : Word) (hr : r ≠ 0) : (x.rset r v).rget r = v := by
  simp only [Ctx.rget, Ctx.rset, if_neg hr, tget_tset]

/-- Another register is not touched. -/
theorem Ctx.rget_rset_ne (x : Ctx) {r a : BitVec 5} (v : Word) (h : a ≠ r) : (x.rset r v).rget a = x.rget a := by
  unfold Ctx.rget Ctx.rset
  split
  · rfl
  · split
    · rfl
    · exact tget_tset_ne 0 (fun e => h (BitVec.eq_of_toNat_eq e)) x.regs v

@[simp] theorem Ctx.setTk_tk (x : Ctx) (t : Nat) (k : Ticket) : (x.setTk t k).tk t = k := tget_tset _ _ t k

theorem Ctx.setTk_tk_ne (x : Ctx) {t a : Nat} (k : Ticket) (h : a ≠ t) : (x.setTk t k).tk a = x.tk a :=
  tget_tset_ne ({} : Ticket) h x.tickets k

/-! ### Numbers and bytes -/

/-- The bytes of a number below 256 to the n give it back. -/
theorem leNat_leBytes (n v : Nat) (h : v < 256 ^ n) : leNat (leBytes n v) = v := by
  induction n generalizing v with
  | zero => simp only [Nat.pow_zero, Nat.lt_one_iff] at h; simp [leBytes, leNat, h]
  | succ n ih =>
    have h2 : v / 256 < 256 ^ n := Nat.div_lt_of_lt_mul (by rw [Nat.pow_succ, Nat.mul_comm] at h; exact h)
    simp only [leBytes, leNat, ih _ h2, BitVec.toNat_ofNat]
    exact Nat.mod_add_div v 256

theorem leBytes_length (n v : Nat) : (leBytes n v).length = n := by
  induction n generalizing v with
  | zero => rfl
  | succ n ih => simp [leBytes, ih]

end Sys2Proof.Machine
end

