-- ==== Sys2Proof/Laws/Frames.lean ====
section
/-! SUPPORT. What the shared operations leave alone: logging (`note`), ending a job, settling the records that have become
ready (`settleAll`) and withdrawing a request. -/

namespace Sys2Proof.Machine

/-! ### Logging an event touches the fault blocks, the recorder and err_o alone -/

/-- The block with what logging writes blanked. -/
def Hw.sansLog (s : Hw) : Hw := { s with flt := [], recd := {}, ward := {} }

theorem modBlk_sansLog (s : Hw) (u : Nat) (f : FltBlock → FltBlock) : (s.modBlk u f).sansLog = s.sansLog := rfl

theorem recCount_sansLog (s : Hw) (u e : Nat) : (recCount s u e).sansLog = s.sansLog := by
  unfold recCount
  split
  · rfl
  · dsimp only; split <;> rfl

theorem logRow_sansLog (s : Hw) (u e : Nat) (d : BitVec 16) (row : EvRow) : (logRow s u e d row).sansLog = s.sansLog := by
  unfold logRow
  dsimp only
  split <;> split <;> split <;> first
    | rfl
    | exact recCount_sansLog s u e

theorem note_sansLog (s : Hw) (u e : Nat) (d : BitVec 16) : (note s u e d).sansLog = s.sansLog := by
  unfold note
  split
  · exact logRow_sansLog _ _ _ _ _
  · rfl

@[simp] theorem note_clk (s : Hw) (u e : Nat) (d : BitVec 16) : (note s u e d).clk = s.clk :=
  (congrArg Hw.clk (note_sansLog s u e d) :)
@[simp] theorem note_mc (s : Hw) (u e : Nat) (d : BitVec 16) : (note s u e d).mc = s.mc :=
  (congrArg Hw.mc (note_sansLog s u e d) :)
@[simp] theorem note_cinch (s : Hw) (u e : Nat) (d : BitVec 16) : (note s u e d).cinch = s.cinch :=
  (congrArg Hw.cinch (note_sansLog s u e d) :)
@[simp] theorem note_seam (s : Hw) (u e : Nat) (d : BitVec 16) : (note s u e d).seam = s.seam :=
  (congrArg Hw.seam (note_sansLog s u e d) :)
@[simp] theorem note_active (s : Hw) (u e : Nat) (d : BitVec 16) : (note s u e d).active = s.active :=
  (congrArg Hw.active (note_sansLog s u e d) :)
@[simp] theorem note_shadow (s : Hw) (u e : Nat) (d : BitVec 16) : (note s u e d).shadow = s.shadow :=
  (congrArg Hw.shadow (note_sansLog s u e d) :)
@[simp] theorem note_rings (s : Hw) (u e : Nat) (d : BitVec 16) : (note s u e d).rings = s.rings :=
  (congrArg Hw.rings (note_sansLog s u e d) :)
@[simp] theorem note_rm (s : Hw) (u e : Nat) (d : BitVec 16) : (note s u e d).rm = s.rm :=
  (congrArg Hw.rm (note_sansLog s u e d) :)
@[simp] theorem note_dbs (s : Hw) (u e : Nat) (d : BitVec 16) : (note s u e d).dbs = s.dbs :=
  (congrArg Hw.dbs (note_sansLog s u e d) :)
@[simp] theorem note_ctxs (s : Hw) (u e : Nat) (d : BitVec 16) : (note s u e d).ctxs = s.ctxs :=
  (congrArg Hw.ctxs (note_sansLog s u e d) :)
@[simp] theorem note_jobs (s : Hw) (u e : Nat) (d : BitVec 16) : (note s u e d).jobs = s.jobs :=
  (congrArg Hw.jobs (note_sansLog s u e d) :)
@[simp] theorem note_jobSeq (s : Hw) (u e : Nat) (d : BitVec 16) : (note s u e d).jobSeq = s.jobSeq :=
  (congrArg Hw.jobSeq (note_sansLog s u e d) :)
@[simp] theorem note_trapq (s : Hw) (u e : Nat) (d : BitVec 16) : (note s u e d).trapq = s.trapq :=
  (congrArg Hw.trapq (note_sansLog s u e d) :)
@[simp] theorem note_awlLoad (s : Hw) (u e : Nat) (d : BitVec 16) : (note s u e d).awlLoad = s.awlLoad :=
  (congrArg Hw.awlLoad (note_sansLog s u e d) :)
@[simp] theorem note_libBad (s : Hw) (u e : Nat) (d : BitVec 16) : (note s u e d).libBad = s.libBad :=
  (congrArg Hw.libBad (note_sansLog s u e d) :)
@[simp] theorem note_tap (s : Hw) (u e : Nat) (d : BitVec 16) : (note s u e d).tap = s.tap :=
  (congrArg Hw.tap (note_sansLog s u e d) :)
@[simp] theorem note_cs (s : Hw) (u e : Nat) (d : BitVec 16) : (note s u e d).cs = s.cs :=
  (congrArg Hw.cs (note_sansLog s u e d) :)
@[simp] theorem note_pairs (s : Hw) (u e : Nat) (d : BitVec 16) : (note s u e d).pairs = s.pairs :=
  (congrArg Hw.pairs (note_sansLog s u e d) :)
@[simp] theorem note_digs (s : Hw) (u e : Nat) (d : BitVec 16) : (note s u e d).digs = s.digs :=
  (congrArg Hw.digs (note_sansLog s u e d) :)
@[simp] theorem note_board (s : Hw) (u e : Nat) (d : BitVec 16) : (note s u e d).board = s.board :=
  (congrArg Hw.board (note_sansLog s u e d) :)
@[simp] theorem note_pkb (s : Hw) (u e : Nat) (d : BitVec 16) : (note s u e d).pkb = s.pkb :=
  (congrArg Hw.pkb (note_sansLog s u e d) :)
@[simp] theorem note_pku (s : Hw) (u e : Nat) (d : BitVec 16) : (note s u e d).pku = s.pku :=
  (congrArg Hw.pku (note_sansLog s u e d) :)
@[simp] theorem note_ucode (s : Hw) (u e : Nat) (d : BitVec 16) : (note s u e d).ucode = s.ucode :=
  (congrArg Hw.ucode (note_sansLog s u e d) :)
@[simp] theorem note_keys (s : Hw) (u e : Nat) (d : BitVec 16) : (note s u e d).keys = s.keys :=
  (congrArg Hw.keys (note_sansLog s u e d) :)
@[simp] theorem note_kp (s : Hw) (u e : Nat) (d : BitVec 16) : (note s u e d).kp = s.kp :=
  (congrArg Hw.kp (note_sansLog s u e d) :)
@[simp] theorem note_mm (s : Hw) (u e : Nat) (d : BitVec 16) : (note s u e d).mm = s.mm :=
  (congrArg Hw.mm (note_sansLog s u e d) :)
@[simp] theorem note_cen (s : Hw) (u e : Nat) (d : BitVec 16) : (note s u e d).cen = s.cen :=
  (congrArg Hw.cen (note_sansLog s u e d) :)
@[simp] theorem note_sec (s : Hw) (u e : Nat) (d : BitVec 16) : (note s u e d).sec = s.sec :=
  (congrArg Hw.sec (note_sansLog s u e d) :)
@[simp] theorem note_hns (s : Hw) (u e : Nat) (d : BitVec 16) : (note s u e d).hns = s.hns :=
  (congrArg Hw.hns (note_sansLog s u e d) :)
@[simp] theorem note_viewA (s : Hw) (u e : Nat) (d : BitVec 16) : (note s u e d).viewA = s.viewA :=
  (congrArg Hw.viewA (note_sansLog s u e d) :)
@[simp] theorem note_viewB (s : Hw) (u e : Nat) (d : BitVec 16) : (note s u e d).viewB = s.viewB :=
  (congrArg Hw.viewB (note_sansLog s u e d) :)
@[simp] theorem note_dselA (s : Hw) (u e : Nat) (d : BitVec 16) : (note s u e d).dselA = s.dselA :=
  (congrArg Hw.dselA (note_sansLog s u e d) :)
@[simp] theorem note_dselB (s : Hw) (u e : Nat) (d : BitVec 16) : (note s u e d).dselB = s.dselB :=
  (congrArg Hw.dselB (note_sansLog s u e d) :)
@[simp] theorem note_freeCount (s : Hw) (u e : Nat) (d : BitVec 16) : (note s u e d).freeCount = s.freeCount :=
  (congrArg Hw.freeCount (note_sansLog s u e d) :)

@[simp] theorem note_inert (s : Hw) (u e : Nat) (d : BitVec 16) : (note s u e d).inert = s.inert := by simp [Hw.inert]
@[simp] theorem note_ctx (s : Hw) (u e : Nat) (d : BitVec 16) (c : Nat) : (note s u e d).ctx c = s.ctx c := by simp [Hw.ctx]

/-! ### Ending work -/

/-- A fold of steps that keep a view keeps it. -/
theorem foldl_keeps {α β γ : Type} (E : α → γ) (f : α → β → α) (h : ∀ a b, E (f a b) = E a) (l : List β) (a : α) :
    E (l.foldl f a) = E a := by
  induction l generalizing a with
  | nil => rfl
  | cons b r ih => rw [List.foldl_cons, ih, h]

/-- The block with what the end of jobs and streams writes blanked: contexts, jobs, the central store, waits for masks,
reservations of XTS units, waiting charges and free values drawn. -/
def Hw.sansJobs (s : Hw) : Hw :=
  { s with ctxs := [], jobs := [], cs := {}, pairs := [], keys := { s.keys with slots := [], charges := [] }, freeCount := 0 }

theorem modCtx_sansJobs (s : Hw) (c : Nat) (f : Ctx → Ctx) : (s.modCtx c f).sansJobs = s.sansJobs := rfl

theorem setJob_sansJobs (s : Hw) (k : Nat) (j : Job) : (s.setJob k j).sansJobs = s.sansJobs := rfl

theorem stallEnd_sansJobs (s : Hw) (p k : Nat) : (stallEnd s p k).sansJobs = s.sansJobs := by
  unfold stallEnd
  split <;> rfl

theorem releaseJob_sansJobs (s : Hw) (k : Nat) : (releaseJob s k).sansJobs = s.sansJobs := by
  unfold releaseJob
  dsimp only
  split
  · split
    · split <;> exact stallEnd_sansJobs s _ k
    · rfl
  · rfl

theorem finish_sansJobs (s : Hw) (k : Nat) (st : BitVec 8) (r : Word) : (finish s k st r).sansJobs = s.sansJobs := by
  show ((releaseJob s k).delJob k).sansJobs = _
  exact releaseJob_sansJobs s k

theorem finishFree_sansJobs (s : Hw) (k : Nat) (st : BitVec 8) : (finishFree s k st).sansJobs = s.sansJobs :=
  finish_sansJobs _ k st _

theorem finishTransfer_sansJobs (s : Hw) (k : Nat) (j : Job) (st : BitVec 8) :
    (finishTransfer s k j st).sansJobs = s.sansJobs := finish_sansJobs s k st _

theorem stopTransfer_sansJobs (s : Hw) (k : Nat) (j : Job) (st : BitVec 8) :
    (stopTransfer s k j st).sansJobs = s.sansJobs := by
  unfold stopTransfer
  split
  · exact finishTransfer_sansJobs s k j st
  · rfl

theorem endJob_sansJobs (s : Hw) (k : Nat) (st : BitVec 8) : (endJob s k st).sansJobs = s.sansJobs := by
  unfold endJob
  split
  · rfl
  · split <;> first
      | exact stopTransfer_sansJobs _ _ _ _
      | exact finish_sansJobs _ _ _ _

theorem endJobs_sansJobs (s : Hw) (c : Nat) (p : Job → Bool) (st : BitVec 8) : (endJobs s c p st).sansJobs = s.sansJobs :=
  foldl_keeps Hw.sansJobs (fun (s : Hw) (e : Nat × Job) => endJob s e.1 st) (fun a b => endJob_sansJobs a b.1 st) _ _

theorem rgWrite_sansJobs (s : Hw) (c : Nat) (r : Word) (b : Bytes) : (rgWrite s c r b).sansJobs = s.sansJobs := by
  unfold rgWrite
  split <;> rfl

theorem failDs_sansJobs (s : Hw) (c n : Nat) (st : BitVec 8) : (failDs s c n st).sansJobs = s.sansJobs := by
  unfold failDs
  dsimp only
  rw [endJobs_sansJobs, modCtx_sansJobs]

theorem dropHold_sansJobs (s : Hw) (c n : Nat) (st : BitVec 8) : (dropHold s c n st).sansJobs = s.sansJobs := by
  unfold dropHold
  dsimp only
  rw [endJobs_sansJobs, foldl_keeps Hw.sansJobs _ (fun a b => failDs_sansJobs a c b st), modCtx_sansJobs]
  show (List.foldl _ _ _ : Hw).sansJobs = _
  rw [foldl_keeps Hw.sansJobs _ (fun a b => rgWrite_sansJobs a c b _)]

theorem startScrub_sansJobs (s : Hw) (c : Nat) (k : Scrub) : (startScrub s c k).sansJobs = s.sansJobs := rfl

theorem failCs_sansJobs (s : Hw) (c n : Nat) (st : BitVec 8) (lead : Option Nat) :
    (failCs s c n st lead).sansJobs = s.sansJobs := by
  unfold failCs
  dsimp only
  refine (endJobs_sansJobs _ _ _ _).trans ?_
  generalize hd : (if ((s.ctx c).cs n).holdBufs != 0 || (((s.ctx c).cs n).undecided && !((s.ctx c).cs n).rel)
      then dropHold s c n st else s) = t
  have h2 : t.sansJobs = s.sansJobs := by
    rw [← hd]
    split
    · exact dropHold_sansJobs s c n st
    · rfl
  clear hd
  split
  · refine (startScrub_sansJobs _ _ _).trans ?_
    split
    · split
      · exact (setJob_sansJobs _ _ _).trans ((modCtx_sansJobs _ _ _).trans h2)
      · exact (modCtx_sansJobs _ _ _).trans h2
    · exact (modCtx_sansJobs _ _ _).trans h2
  · exact (modCtx_sansJobs _ _ _).trans h2

theorem endUndecided_sansJobs (s : Hw) (c : Nat) (p : Bool) (st : BitVec 8) :
    (endUndecided s c p st).sansJobs = s.sansJobs := by
  unfold endUndecided
  dsimp only
  generalize hd : List.foldl _ s _ = t
  have h : t.sansJobs = s.sansJobs := by
    rw [← hd]
    exact foldl_keeps Hw.sansJobs (fun (s : Hw) (e : Nat × CipherStream) => dropHold s c e.1 st)
      (fun a b => dropHold_sansJobs a c b.1 st) _ _
  clear hd
  split
  · exact h
  · split
    · exact h
    · exact (startScrub_sansJobs _ _ _).trans h

/-- The block with what settling a context writes blanked: the ready list besides. -/
def Hw.sansReady (s : Hw) : Hw := { s.sansJobs with rm := { s.rm with ready := [], readyAt := 0, readyNew := [] } }

theorem sansReady_of_sansJobs {s t : Hw} (h : s.sansJobs = t.sansJobs) : s.sansReady = t.sansReady := by
  have e : ∀ u : Hw, u.sansReady = { u.sansJobs with rm := { u.sansJobs.rm with ready := [], readyAt := 0, readyNew := [] } } := fun _ => rfl
  rw [e s, e t, h]

theorem readyPut_sansReady (s : Hw) (r : Ready) : (readyPut s r).sansReady = s.sansReady := rfl

/-- All that `readyPut` does (R55). -/
theorem readyPut_joins (s : Hw) (r : Ready) : Joins s (readyPut s r) r := by
  let p : Ready → Bool := fun q => s.rm.readyAt = s.clk.core && s.rm.readyNew.contains q && readyBefore r q
  let l := s.rm.ready.reverse
  have e : s.rm.ready = (l.dropWhile p).reverse ++ readyBehind s r := by
    rw [show readyBehind s r = (l.takeWhile p).reverse from rfl, ← List.reverse_append, List.takeWhile_append_dropWhile,
      List.reverse_reverse]
  have f : s.rm.ready.take (s.rm.ready.length - (readyBehind s r).length) = (l.dropWhile p).reverse := by
    have n : s.rm.ready.length - (readyBehind s r).length = ((l.dropWhile p).reverse).length := by
      rw [congrArg List.length e, List.length_append, Nat.add_sub_cancel]
    rw [n, congrArg (List.take _) e, List.take_left']
    rfl
  refine ⟨(l.dropWhile p).reverse, readyBehind s r, e, ?_, ?_, ?_⟩
  · show _ ++ r :: readyBehind s r = _
    rw [f]
  · intro q hq
    have h := List.mem_takeWhile_imp (List.mem_reverse.mp hq)
    show s.rm.readyAt = s.clk.core ∧ _
    simpa [and_assoc] using h
  · intro q hq h
    replace h : s.rm.readyAt = s.clk.core ∧ q ∈ s.rm.readyNew ∧ readyBefore r q = true := h
    rw [List.getLast?_reverse] at hq
    have := List.head?_dropWhile_not p l
    rw [hq] at this
    simp [p] at this
    exact absurd h.2.2 (by simp [this h.1 h.2.1])

/-- What becomes ready is on the list, and what was on it stays. -/
theorem Joins.mem {s h : Hw} {r : Ready} (j : Joins s h r) (q : Ready) : q ∈ h.rm.ready ↔ q = r ∨ q ∈ s.rm.ready := by
  obtain ⟨a, b, e, f, -⟩ := j
  rw [e, f]
  simp only [List.mem_append, List.mem_cons]
  tauto

theorem settle_sansReady (s : Hw) (c : Nat) : (settle s c).sansReady = s.sansReady := by
  unfold settle
  split
  · dsimp only
    generalize hu : endUndecided s c _ _ = t
    have h : t.sansReady = s.sansReady := by rw [← hu]; exact sansReady_of_sansJobs (endUndecided_sansJobs _ _ _ _)
    clear hu
    split
    · exact h
    · exact (readyPut_sansReady _ _).trans h
  · rfl

/-- Settling changes contexts, jobs, the central store, the slots' reservations, waiting charges, the ready list and the
count of free values alone. -/
theorem settleAll_sansReady (s : Hw) : (settleAll s).sansReady = s.sansReady :=
  foldl_keeps Hw.sansReady _ settle_sansReady _ _

@[simp] theorem settleAll_clk (s : Hw) : (settleAll s).clk = s.clk := (congrArg Hw.clk (settleAll_sansReady s) :)
@[simp] theorem settleAll_mc (s : Hw) : (settleAll s).mc = s.mc := (congrArg Hw.mc (settleAll_sansReady s) :)
@[simp] theorem settleAll_cinch (s : Hw) : (settleAll s).cinch = s.cinch := (congrArg Hw.cinch (settleAll_sansReady s) :)
@[simp] theorem settleAll_seam (s : Hw) : (settleAll s).seam = s.seam := (congrArg Hw.seam (settleAll_sansReady s) :)
@[simp] theorem settleAll_active (s : Hw) : (settleAll s).active = s.active := (congrArg Hw.active (settleAll_sansReady s) :)
@[simp] theorem settleAll_shadow (s : Hw) : (settleAll s).shadow = s.shadow := (congrArg Hw.shadow (settleAll_sansReady s) :)
@[simp] theorem settleAll_rings (s : Hw) : (settleAll s).rings = s.rings := (congrArg Hw.rings (settleAll_sansReady s) :)
@[simp] theorem settleAll_dbs (s : Hw) : (settleAll s).dbs = s.dbs := (congrArg Hw.dbs (settleAll_sansReady s) :)
@[simp] theorem settleAll_jobSeq (s : Hw) : (settleAll s).jobSeq = s.jobSeq := (congrArg Hw.jobSeq (settleAll_sansReady s) :)
@[simp] theorem settleAll_trapq (s : Hw) : (settleAll s).trapq = s.trapq := (congrArg Hw.trapq (settleAll_sansReady s) :)
@[simp] theorem settleAll_awlLoad (s : Hw) : (settleAll s).awlLoad = s.awlLoad := (congrArg Hw.awlLoad (settleAll_sansReady s) :)
@[simp] theorem settleAll_libBad (s : Hw) : (settleAll s).libBad = s.libBad := (congrArg Hw.libBad (settleAll_sansReady s) :)
@[simp] theorem settleAll_tap (s : Hw) : (settleAll s).tap = s.tap := (congrArg Hw.tap (settleAll_sansReady s) :)
@[simp] theorem settleAll_digs (s : Hw) : (settleAll s).digs = s.digs := (congrArg Hw.digs (settleAll_sansReady s) :)
@[simp] theorem settleAll_board (s : Hw) : (settleAll s).board = s.board := (congrArg Hw.board (settleAll_sansReady s) :)
@[simp] theorem settleAll_pkb (s : Hw) : (settleAll s).pkb = s.pkb := (congrArg Hw.pkb (settleAll_sansReady s) :)
@[simp] theorem settleAll_pku (s : Hw) : (settleAll s).pku = s.pku := (congrArg Hw.pku (settleAll_sansReady s) :)
@[simp] theorem settleAll_ucode (s : Hw) : (settleAll s).ucode = s.ucode := (congrArg Hw.ucode (settleAll_sansReady s) :)
@[simp] theorem settleAll_kp (s : Hw) : (settleAll s).kp = s.kp := (congrArg Hw.kp (settleAll_sansReady s) :)
@[simp] theorem settleAll_mm (s : Hw) : (settleAll s).mm = s.mm := (congrArg Hw.mm (settleAll_sansReady s) :)
@[simp] theorem settleAll_flt (s : Hw) : (settleAll s).flt = s.flt := (congrArg Hw.flt (settleAll_sansReady s) :)
@[simp] theorem settleAll_ward (s : Hw) : (settleAll s).ward = s.ward := (congrArg Hw.ward (settleAll_sansReady s) :)
@[simp] theorem settleAll_recd (s : Hw) : (settleAll s).recd = s.recd := (congrArg Hw.recd (settleAll_sansReady s) :)
@[simp] theorem settleAll_cen (s : Hw) : (settleAll s).cen = s.cen := (congrArg Hw.cen (settleAll_sansReady s) :)
@[simp] theorem settleAll_sec (s : Hw) : (settleAll s).sec = s.sec := (congrArg Hw.sec (settleAll_sansReady s) :)
@[simp] theorem settleAll_hns (s : Hw) : (settleAll s).hns = s.hns := (congrArg Hw.hns (settleAll_sansReady s) :)
@[simp] theorem settleAll_viewA (s : Hw) : (settleAll s).viewA = s.viewA := (congrArg Hw.viewA (settleAll_sansReady s) :)
@[simp] theorem settleAll_viewB (s : Hw) : (settleAll s).viewB = s.viewB := (congrArg Hw.viewB (settleAll_sansReady s) :)
@[simp] theorem settleAll_dselA (s : Hw) : (settleAll s).dselA = s.dselA := (congrArg Hw.dselA (settleAll_sansReady s) :)
@[simp] theorem settleAll_dselB (s : Hw) : (settleAll s).dselB = s.dselB := (congrArg Hw.dselB (settleAll_sansReady s) :)
@[simp] theorem settleAll_rm_cfg (s : Hw) : (settleAll s).rm.cfg = s.rm.cfg :=
  (congrArg (fun h : Hw => h.rm.cfg) (settleAll_sansReady s) :)
@[simp] theorem settleAll_rm_arb (s : Hw) : (settleAll s).rm.arb = s.rm.arb :=
  (congrArg (fun h : Hw => h.rm.arb) (settleAll_sansReady s) :)
@[simp] theorem settleAll_rm_ringTurn (s : Hw) : (settleAll s).rm.ringTurn = s.rm.ringTurn :=
  (congrArg (fun h : Hw => h.rm.ringTurn) (settleAll_sansReady s) :)
@[simp] theorem settleAll_rm_lastBench (s : Hw) : (settleAll s).rm.lastBench = s.rm.lastBench :=
  (congrArg (fun h : Hw => h.rm.lastBench) (settleAll_sansReady s) :)
@[simp] theorem settleAll_rm_admitted (s : Hw) : (settleAll s).rm.admitted = s.rm.admitted :=
  (congrArg (fun h : Hw => h.rm.admitted) (settleAll_sansReady s) :)
@[simp] theorem settleAll_rm_admitAt (s : Hw) : (settleAll s).rm.admitAt = s.rm.admitAt :=
  (congrArg (fun h : Hw => h.rm.admitAt) (settleAll_sansReady s) :)
@[simp] theorem settleAll_rm_commitAt (s : Hw) : (settleAll s).rm.commitAt = s.rm.commitAt :=
  (congrArg (fun h : Hw => h.rm.commitAt) (settleAll_sansReady s) :)
@[simp] theorem settleAll_keys_restoring (s : Hw) : (settleAll s).keys.restoring = s.keys.restoring :=
  (congrArg (fun h : Hw => h.keys.restoring) (settleAll_sansReady s) :)
@[simp] theorem settleAll_keys_restored (s : Hw) : (settleAll s).keys.restored = s.keys.restored :=
  (congrArg (fun h : Hw => h.keys.restored) (settleAll_sansReady s) :)
@[simp] theorem settleAll_keys_allPending (s : Hw) : (settleAll s).keys.allPending = s.keys.allPending :=
  (congrArg (fun h : Hw => h.keys.allPending) (settleAll_sansReady s) :)
@[simp] theorem settleAll_keys_passedTo (s : Hw) : (settleAll s).keys.passedTo = s.keys.passedTo :=
  (congrArg (fun h : Hw => h.keys.passedTo) (settleAll_sansReady s) :)
@[simp] theorem settleAll_keys_passed (s : Hw) : (settleAll s).keys.passed = s.keys.passed :=
  (congrArg (fun h : Hw => h.keys.passed) (settleAll_sansReady s) :)
@[simp] theorem settleAll_keys_failTag (s : Hw) : (settleAll s).keys.failTag = s.keys.failTag :=
  (congrArg (fun h : Hw => h.keys.failTag) (settleAll_sansReady s) :)
@[simp] theorem settleAll_keys_skipOld (s : Hw) : (settleAll s).keys.skipOld = s.keys.skipOld :=
  (congrArg (fun h : Hw => h.keys.skipOld) (settleAll_sansReady s) :)
@[simp] theorem settleAll_keys_zeroized (s : Hw) : (settleAll s).keys.zeroized = s.keys.zeroized :=
  (congrArg (fun h : Hw => h.keys.zeroized) (settleAll_sansReady s) :)
@[simp] theorem settleAll_keys_root (s : Hw) : (settleAll s).keys.root = s.keys.root :=
  (congrArg (fun h : Hw => h.keys.root) (settleAll_sansReady s) :)
@[simp] theorem settleAll_keys_rootKey (s : Hw) : (settleAll s).keys.rootKey = s.keys.rootKey :=
  (congrArg (fun h : Hw => h.keys.rootKey) (settleAll_sansReady s) :)
@[simp] theorem settleAll_keys_idReady (s : Hw) : (settleAll s).keys.idReady = s.keys.idReady :=
  (congrArg (fun h : Hw => h.keys.idReady) (settleAll_sansReady s) :)
@[simp] theorem settleAll_keys_idEc (s : Hw) : (settleAll s).keys.idEc = s.keys.idEc :=
  (congrArg (fun h : Hw => h.keys.idEc) (settleAll_sansReady s) :)
@[simp] theorem settleAll_keys_idMl (s : Hw) : (settleAll s).keys.idMl = s.keys.idMl :=
  (congrArg (fun h : Hw => h.keys.idMl) (settleAll_sansReady s) :)
@[simp] theorem settleAll_keys_drbgReseedAt (s : Hw) : (settleAll s).keys.drbgReseedAt = s.keys.drbgReseedAt :=
  (congrArg (fun h : Hw => h.keys.drbgReseedAt) (settleAll_sansReady s) :)
@[simp] theorem settleAll_keys_drbgRequests (s : Hw) : (settleAll s).keys.drbgRequests = s.keys.drbgRequests :=
  (congrArg (fun h : Hw => h.keys.drbgRequests) (settleAll_sansReady s) :)
@[simp] theorem settleAll_keys_drbgDue (s : Hw) : (settleAll s).keys.drbgDue = s.keys.drbgDue :=
  (congrArg (fun h : Hw => h.keys.drbgDue) (settleAll_sansReady s) :)
@[simp] theorem settleAll_keys_drbg (s : Hw) : (settleAll s).keys.drbg = s.keys.drbg :=
  (congrArg (fun h : Hw => h.keys.drbg) (settleAll_sansReady s) :)
@[simp] theorem settleAll_keys_tgen (s : Hw) : (settleAll s).keys.tgen = s.keys.tgen :=
  (congrArg (fun h : Hw => h.keys.tgen) (settleAll_sansReady s) :)
@[simp] theorem settleAll_keys_stepBusy (s : Hw) : (settleAll s).keys.stepBusy = s.keys.stepBusy :=
  (congrArg (fun h : Hw => h.keys.stepBusy) (settleAll_sansReady s) :)
@[simp] theorem settleAll_keys_killLate (s : Hw) : (settleAll s).keys.killLate = s.keys.killLate :=
  (congrArg (fun h : Hw => h.keys.killLate) (settleAll_sansReady s) :)
@[simp] theorem settleAll_keys_kill (s : Hw) : (settleAll s).keys.kill = s.keys.kill :=
  (congrArg (fun h : Hw => h.keys.kill) (settleAll_sansReady s) :)
@[simp] theorem settleAll_keys_killAck (s : Hw) : (settleAll s).keys.killAck = s.keys.killAck :=
  (congrArg (fun h : Hw => h.keys.killAck) (settleAll_sansReady s) :)
@[simp] theorem settleAll_keys_kills (s : Hw) : (settleAll s).keys.kills = s.keys.kills :=
  (congrArg (fun h : Hw => h.keys.kills) (settleAll_sansReady s) :)
@[simp] theorem settleAll_keys_counters (s : Hw) : (settleAll s).keys.counters = s.keys.counters :=
  (congrArg (fun h : Hw => h.keys.counters) (settleAll_sansReady s) :)
@[simp] theorem settleAll_keys_floors (s : Hw) : (settleAll s).keys.floors = s.keys.floors :=
  (congrArg (fun h : Hw => h.keys.floors) (settleAll_sansReady s) :)
@[simp] theorem settleAll_keys_countersComplete (s : Hw) : (settleAll s).keys.countersComplete = s.keys.countersComplete :=
  (congrArg (fun h : Hw => h.keys.countersComplete) (settleAll_sansReady s) :)
@[simp] theorem settleAll_keys_updates (s : Hw) : (settleAll s).keys.updates = s.keys.updates :=
  (congrArg (fun h : Hw => h.keys.updates) (settleAll_sansReady s) :)
@[simp] theorem settleAll_keys_intakeA (s : Hw) : (settleAll s).keys.intakeA = s.keys.intakeA :=
  (congrArg (fun h : Hw => h.keys.intakeA) (settleAll_sansReady s) :)
@[simp] theorem settleAll_keys_intakeB (s : Hw) : (settleAll s).keys.intakeB = s.keys.intakeB :=
  (congrArg (fun h : Hw => h.keys.intakeB) (settleAll_sansReady s) :)
@[simp] theorem settleAll_keys_committed (s : Hw) : (settleAll s).keys.committed = s.keys.committed :=
  (congrArg (fun h : Hw => h.keys.committed) (settleAll_sansReady s) :)
@[simp] theorem settleAll_keys_refusedCnt (s : Hw) : (settleAll s).keys.refusedCnt = s.keys.refusedCnt :=
  (congrArg (fun h : Hw => h.keys.refusedCnt) (settleAll_sansReady s) :)
@[simp] theorem settleAll_keys_selA (s : Hw) : (settleAll s).keys.selA = s.keys.selA :=
  (congrArg (fun h : Hw => h.keys.selA) (settleAll_sansReady s) :)
@[simp] theorem settleAll_keys_selB (s : Hw) : (settleAll s).keys.selB = s.keys.selB :=
  (congrArg (fun h : Hw => h.keys.selB) (settleAll_sansReady s) :)

@[simp] theorem settleAll_inert (s : Hw) : (settleAll s).inert = s.inert := by simp [Hw.inert]

/-! ### Settling when no record has become ready -/

theorem settle_of_settled {s : Hw} (h : s.Settled) (c : Nat) : settle s c = s := by
  unfold settle
  rw [if_neg]
  intro hc
  rw [Bool.and_eq_true] at hc
  have := h c hc.1
  simp only [Bool.not_eq_true', List.contains_eq_mem, decide_eq_false_iff_not] at hc
  exact hc.2 this

/-- With every ready record listed, settling does nothing. -/
theorem settleAll_of_settled {s : Hw} (h : s.Settled) : settleAll s = s := by
  unfold settleAll
  generalize liveCtxs s = l
  induction l with
  | nil => rfl
  | cons c r ih => rw [List.foldl_cons, settle_of_settled h, ih]

theorem Hw.Settled.congr {s t : Hw} (h : s.Settled) (h1 : t.ctxs = s.ctxs) (h2 : t.rm.ready = s.rm.ready) : t.Settled := by
  intro c hc
  rw [h2]
  apply h c
  have : t.ctx c = s.ctx c := by unfold Hw.ctx; rw [h1]
  rwa [this] at hc

/-! ### Ending work of one context leaves the others alone -/

/-- A fold of steps keeps a view when each step over an element of the list does. -/
theorem foldl_keeps_mem {α β γ : Type} (E : α → γ) (f : α → β → α) (l : List β) (h : ∀ b ∈ l, ∀ a, E (f a b) = E a)
    (a : α) : E (l.foldl f a) = E a := by
  induction l generalizing a with
  | nil => rfl
  | cons b r ih =>
    rw [List.foldl_cons, ih (fun x hx => h x (List.mem_cons_of_mem _ hx)), h b (List.mem_cons_self ..)]

theorem setDone_ctx_ne (s : Hw) {c a : Nat} (t : Nat) (st : BitVec 8) (r : Word) (h : a ≠ c) :
    (setDone s c t st r).ctx a = s.ctx a := by
  show (s.modCtx c fun x => x.setTk t { x.tk t with st := .done, status := st, result := r }).ctx a = _
  exact Hw.modCtx_ctx_ne s _ h

theorem stallEnd_ctxs (s : Hw) (p k : Nat) : (stallEnd s p k).ctxs = s.ctxs := by
  unfold stallEnd
  split <;> rfl

theorem releaseJob_ctxs (s : Hw) (k : Nat) : (releaseJob s k).ctxs = s.ctxs := by
  unfold releaseJob
  dsimp only
  split
  · split
    · split <;> exact stallEnd_ctxs s _ k
    · rfl
  · rfl

theorem finish_ctx_ne (s : Hw) {k a : Nat} (st : BitVec 8) (r : Word) (h : a ≠ k / 16) :
    (finish s k st r).ctx a = s.ctx a := by
  unfold finish
  rw [setDone_ctx_ne _ _ _ _ h]
  unfold Hw.ctx
  rw [Hw.delJob_ctxs, releaseJob_ctxs]

theorem finishTransfer_ctx_ne (s : Hw) {k a : Nat} (j : Job) (st : BitVec 8) (h : a ≠ k / 16) :
    (finishTransfer s k j st).ctx a = s.ctx a := by
  exact finish_ctx_ne s _ _ h

theorem endJob_ctx_ne (s : Hw) {k a : Nat} (st : BitVec 8) (h : a ≠ k / 16) : (endJob s k st).ctx a = s.ctx a := by
  unfold endJob stopTransfer finishFree
  split
  · rfl
  · split <;> first
      | exact finish_ctx_ne _ _ _ h
      | (split
         · exact finishTransfer_ctx_ne _ _ _ h
         · rfl)

theorem endJobs_ctx_ne (s : Hw) {c a : Nat} (p : Job → Bool) (st : BitVec 8) (h : a ≠ c) :
    (endJobs s c p st).ctx a = s.ctx a := by
  unfold endJobs
  refine foldl_keeps_mem (fun t : Hw => t.ctx a) _ _ ?_ s
  intro e he t
  have hk : e.1 / 16 = c := by
    have := (List.mem_filter.mp (List.mem_filter.mp he).1).2
    simpa using this
  exact endJob_ctx_ne t st (by omega)

theorem rgWrite_ctx_ne (s : Hw) {c a : Nat} (r : Word) (b : Bytes) (h : a ≠ c) : (rgWrite s c r b).ctx a = s.ctx a := by
  unfold rgWrite
  split
  · exact Hw.modCtx_ctx_ne s _ h
  · rfl

theorem failDs_ctx_ne (s : Hw) {c a : Nat} (n : Nat) (st : BitVec 8) (h : a ≠ c) : (failDs s c n st).ctx a = s.ctx a := by
  unfold failDs
  dsimp only
  rw [endJobs_ctx_ne _ _ _ h, Hw.modCtx_ctx_ne _ _ h]

theorem dropHold_ctx_ne (s : Hw) {c a : Nat} (n : Nat) (st : BitVec 8) (h : a ≠ c) :
    (dropHold s c n st).ctx a = s.ctx a := by
  unfold dropHold
  dsimp only
  refine (endJobs_ctx_ne _ _ _ h).trans ?_
  refine (foldl_keeps (fun t : Hw => t.ctx a) (fun s n => failDs s c n st) (fun t n => failDs_ctx_ne t n st h) _ _).trans ?_
  refine (Hw.modCtx_ctx_ne _ _ h).trans ?_
  exact foldl_keeps (fun t : Hw => t.ctx a) (fun s r => rgWrite s c r (zeros (rgLen r)))
    (fun t r => rgWrite_ctx_ne t r _ h) _ _

theorem startScrub_ctx_ne (s : Hw) {c a : Nat} (k : Scrub) (h : a ≠ c) : (startScrub s c k).ctx a = s.ctx a :=
  Hw.modCtx_ctx_ne s _ h

theorem endUndecided_ctx_ne (s : Hw) {c a : Nat} (p : Bool) (st : BitVec 8) (h : a ≠ c) :
    (endUndecided s c p st).ctx a = s.ctx a := by
  unfold endUndecided
  dsimp only
  generalize hd : List.foldl _ s _ = t
  have ht : t.ctx a = s.ctx a := by
    rw [← hd]
    exact foldl_keeps (fun t : Hw => t.ctx a) (fun (s : Hw) (e : Nat × CipherStream) => dropHold s c e.1 st)
      (fun t b => dropHold_ctx_ne t b.1 st h) _ _
  clear hd
  split
  · exact ht
  · split
    · exact ht
    · exact (startScrub_ctx_ne _ _ h).trans ht

theorem settle_ctx (s : Hw) (c a : Nat) (h : recordReady (s.ctx a) = false) : (settle s c).ctx a = s.ctx a := by
  unfold settle
  split
  · rename_i hc
    have hne : a ≠ c := by
      rintro rfl
      simp [h] at hc
    dsimp only
    generalize hu : endUndecided s c _ _ = t
    have ht : t.ctx a = s.ctx a := by rw [← hu]; exact endUndecided_ctx_ne s _ _ hne
    clear hu
    split
    · exact ht
    · exact ht
  · rfl

/-- A context whose record is not ready stands as it is when the others settle. -/
theorem settleAll_ctx (s : Hw) (a : Nat) (h : recordReady (s.ctx a) = false) : (settleAll s).ctx a = s.ctx a := by
  unfold settleAll
  generalize liveCtxs s = l
  induction l generalizing s with
  | nil => rfl
  | cons c r ih =>
    rw [List.foldl_cons, ih _ (by rw [settle_ctx s c a h]; exact h), settle_ctx s c a h]

end Sys2Proof.Machine
end

