-- ==== Sys2Proof/Laws/Issue.lean ====
section
/-! SUPPORT. What the issue of an instruction can do (R68 to R70, R84 to R89), once for all instructions. -/

namespace Sys2Proof.Machine

theorem tput_tput {α : Type} (k : Nat) (v w : α) (t : Table α) : tput k v (tput k w t) = tput k v t := by
  induction t with
  | nil => simp [tput]
  | cons e r ih =>
    obtain ⟨n, u⟩ := e
    simp only [tput]
    split
    · simp [tput]
    · split
      · simp [tput]
      · rename_i h1 h2
        simp only [tput, if_neg h1, if_neg h2, ih]

/-- A context that is not free is not the default one. -/
theorem Ctx.ne_default {x : Ctx} (h : x.st ≠ .free) : x ≠ {} := by
  rintro rfl
  exact h rfl

theorem Hw.setCtx_setCtx (s : Hw) (c : Nat) {x y : Ctx} (hx : x ≠ {}) (hy : y ≠ {}) :
    (s.setCtx c x).setCtx c y = s.setCtx c y := by
  simp only [Hw.setCtx, tset, if_neg hx, if_neg hy, tput_tput]

theorem Hw.modCtx_modCtx (s : Hw) (c : Nat) (f g : Ctx → Ctx) (hf : (f (s.ctx c)).st ≠ .free)
    (hg : (g (f (s.ctx c))).st ≠ .free) : (s.modCtx c f).modCtx c g = s.setCtx c (g (f (s.ctx c))) := by
  unfold Hw.modCtx
  rw [Hw.setCtx_ctx, Hw.setCtx_setCtx s c (Ctx.ne_default hf) (Ctx.ne_default hg)]

theorem retire_stepPast (x : Ctx) (lc : Bool) : retire (stepPast x lc) = x.past lc := by
  unfold retire stepPast Ctx.past
  cases x.rep with
  | none => rfl
  | some r =>
    dsimp only
    by_cases hl : (if r.remain = 0 then 0 else r.remain - 1) = 0
    · simp only [if_pos hl]
    · simp only [if_neg hl]

theorem Ctx.past_st (x : Ctx) (lc : Bool) : (x.past lc).st = x.st := by
  unfold Ctx.past
  split <;> rfl

theorem Fetches.mayIssue {h : Hw} {c : Nat} (i : Fetches h c) : mayIssue h c = true := by
  simp [Machine.mayIssue, i.ready, i.request, i.unposted, i.wanted, i.recorded]

theorem Issues.notFree {h : Hw} {c : Nat} (i : Issues h c) : (h.ctx c).st ≠ .free := by simp [i.ready]

/-- A command that an awake block takes has its effect. -/
theorem State.live_awake (s : State) (f : Hw → Hw) (h : s.hw.inert = false) : s.live f = s.to (f s.hw) := by
  simp [State.live, State.does, State.to, h]

/-- A repeatable instruction that issues is carried out. -/
theorem issue_repeatable {h : Hw} {c : Nat} (i : Issues h c) (word : BitVec 32) (act : Hw → Act) :
    issue h c word .repeatable act = applyAct h c word (act h) := by
  unfold issue
  rw [if_neg (by simp [i.mayIssue]), if_neg (Nat.not_le.mpr i.steps), if_neg (Nat.not_le.mpr i.code),
    if_neg (by rw [i.word]; exact Bool.false_ne_true)]
  dsimp only
  cases hr : (h.ctx c).rep with
  | none => rfl
  | some r => exact if_neg (i.repeats r hr)

/-- An instruction that does not repeat is carried out when no repeat runs. -/
theorem issue_once {h : Hw} {c : Nat} (i : Issues h c) (hr : (h.ctx c).rep = none) (word : BitVec 32) (act : Hw → Act) :
    issue h c word .notRepeatable act = applyAct h c word (act h) := by
  unfold issue
  rw [if_neg (by simp [i.mayIssue]), if_neg (Nat.not_le.mpr i.steps), if_neg (Nat.not_le.mpr i.code),
    if_neg (by rw [i.word]; exact Bool.false_ne_true)]
  simp [hr]

/-- A reserved encoding that issues traps. -/
theorem issue_reserved {h : Hw} {c : Nat} (i : Fetches h c) (cls : TrapClass) (word : BitVec 32) (act : Hw → Act) :
    issue h c word (.reserved cls) act = takeTrap h c cls word := by
  unfold issue
  rw [if_neg (by simp [i.mayIssue]), if_neg (Nat.not_le.mpr i.steps), if_neg (Nat.not_le.mpr i.code),
    if_neg (by rw [i.word]; exact Bool.false_ne_true)]

/-- Nothing issues from a context that may not. -/
theorem issue_idle {h : Hw} {c : Nat} (hm : mayIssue h c = false) (word : BitVec 32) (k : RepKind) (act : Hw → Act) :
    issue h c word k act = h := by
  unfold issue
  rw [if_pos (by simp [hm])]

/-- An instruction that changes its context alone and goes on to the next iteration or word. -/
theorem applyAct_done {h : Hw} {c : Nat} (word : BitVec 32) (f : Ctx → Ctx) (lc : Bool)
    (hf : (f (h.ctx c)).st ≠ .free) :
    applyAct h c word (.done (h.modCtx c f) lc) = h.setCtx c ((f (h.ctx c)).past lc) := by
  simp only [applyAct]
  rw [Hw.modCtx_modCtx _ _ _ _ hf (by rw [retire_stepPast, Ctx.past_st]; exact hf), retire_stepPast]

/-- An instruction that writes one register and the flags. -/
theorem insn_result {s : State} {c : BitVec 9} (i : Issues s.hw c.toNat) (word : BitVec 32) (rd : BitVec 5)
    (v : Ctx → Word) (f : Ctx → Flags) :
    s.insn c word .repeatable (aluAct c.toNat rd v f) =
      s.result c rd (v (s.hw.ctx c.toNat)) (f (s.hw.ctx c.toNat)) := by
  unfold State.insn
  rw [State.live_awake _ _ i.awake, issue_repeatable i]
  unfold aluAct setRd State.result State.leaves
  rw [applyAct_done _ _ _ (by simp [i.ready])]

/-- A repeatable instruction that changes its context alone. -/
theorem insn_leaves {s : State} {c : BitVec 9} (i : Issues s.hw c.toNat) (word : BitVec 32) (act : Hw → Act)
    (f : Ctx → Ctx) (lc : Bool) (ha : act s.hw = .done (s.hw.modCtx c.toNat f) lc)
    (hf : (f (s.hw.ctx c.toNat)).st ≠ .free) :
    s.insn c word .repeatable act = s.leaves c ((f (s.hw.ctx c.toNat)).past lc) := by
  unfold State.insn
  rw [State.live_awake _ _ i.awake, issue_repeatable i, ha, applyAct_done _ _ _ hf]
  rfl

/-- An instruction that does not repeat and changes its context alone. -/
theorem insn_once {s : State} {c : BitVec 9} (i : Issues s.hw c.toNat) (hr : (s.hw.ctx c.toNat).rep = none)
    (word : BitVec 32) (act : Hw → Act) (f : Ctx → Ctx) (lc : Bool)
    (ha : act s.hw = .done (s.hw.modCtx c.toNat f) lc) (hf : (f (s.hw.ctx c.toNat)).st ≠ .free) :
    s.insn c word .notRepeatable act = s.leaves c ((f (s.hw.ctx c.toNat)).past lc) := by
  unfold State.insn
  rw [State.live_awake _ _ i.awake, issue_once i hr, ha, applyAct_done _ _ _ hf]
  rfl

/-- An instruction that jumps. -/
theorem insn_jump {s : State} {c : BitVec 9} (i : Issues s.hw c.toNat) (hr : (s.hw.ctx c.toNat).rep = none)
    (word : BitVec 32) (act : Hw → Act) (f : Ctx → Ctx) (pc : Word)
    (ha : act s.hw = .jump (s.hw.modCtx c.toNat f) pc) (hf : (f (s.hw.ctx c.toNat)).st ≠ .free) :
    s.insn c word .notRepeatable act =
      s.leaves c { f (s.hw.ctx c.toNat) with pc := pc, retired := (f (s.hw.ctx c.toNat)).retired + 1 } := by
  unfold State.insn
  rw [State.live_awake _ _ i.awake, issue_once i hr, ha]
  simp only [applyAct]
  rw [Hw.modCtx_modCtx _ _ _ _ hf (by simpa [retire] using hf)]
  rfl

/-- An instruction that traps before it has any effect. -/
theorem insn_trap {s : State} {c : BitVec 9} (i : Issues s.hw c.toNat) (word : BitVec 32) (act : Hw → Act)
    (cls : TrapClass) (ha : act s.hw = .trap cls) :
    s.insn c word .repeatable act = s.to (takeTrap s.hw c.toNat cls word) := by
  unfold State.insn
  rw [State.live_awake _ _ i.awake, issue_repeatable i, ha]
  rfl

end Sys2Proof.Machine
end

