-- ==== Sys2Proof/Laws/Commands.lean ====
section
/-! SUPPORT. What the frames that commands are written in can do: an event, a control-port write with and without the cinch, and
a doorbell port's. -/

namespace Sys2Proof.Machine

/-- A state that a command leads to, with a property of its block, completes the command. -/
theorem completes_of_to {i : Instr} {s : State} {h : Hw} {P : Hw → Prop} (e : exec i s = s.to h) (p : P h) : Completes i s P :=
  ⟨h, e, p⟩

/-- In an inert block an event has no effect. -/
theorem State.live_inert (s : State) (f : Hw → Hw) (h : s.hw.inert = true) : s.live f = s.to s.hw := by
  simp [State.live, State.does, State.to, h]

theorem State.work_inert (s : State) (f : Hw → Hw) (h : s.hw.inert = true) : s.work f = s.to s.hw := by
  simp [State.work, State.live_inert s _ h]

/-- In any other block an event has its effect, and records that have become ready are listed. -/
theorem State.work_awake (s : State) (f : Hw → Hw) (h : s.hw.inert = false) : s.work f = s.events f := by
  simp [State.work, State.live_awake s _ h, State.events]

/-- An event that leaves every ready record listed leaves just its effect. -/
theorem State.events_settled (s : State) (f : Hw → Hw) (h : (f s.hw).Settled) : s.events f = s.to (f s.hw) := by
  simp [State.events, settleAll_of_settled h]

/-- Waking leaves the cinch. -/
@[simp] theorem wake_cinch (s : Hw) : (wake s).cinch = s.cinch := by
  unfold wake
  split <;> simp

/-- A write that needs the cinch, at the port that holds it. -/
theorem State.cinched_masters {s : State} {p : CtlPort} (f : Hw → Hw) (m : Masters s.hw p) : s.cinched p f = s.writes f := by
  simp [State.cinched, State.work_awake s _ m.awake, State.events, State.writes, cinchWrite, openWrite,
    holdsCinch, m.port, m.cinch]

/-- A write that needs no cinch, at a port in service. -/
theorem State.opened_serves {s : State} {p : CtlPort} (f : Hw → Hw) (m : Serves s.hw p) : s.opened p f = s.writes f := by
  simp [State.opened, State.work_awake s _ m.awake, State.events, State.writes, openWrite, m.port]

/-- A command that names one of the 96 doorbell ports is an event; another stops (R428). -/
theorem State.atPort_named (s : State) {p : Nat} (f : Hw → Hw) (h : p < 96) : s.atPort p f = s.work f := by
  simp [State.atPort, h]

end Sys2Proof.Machine
end

