-- ==== Sys2Proof/Laws/Memory.lean ====
section
/-! SUPPORT. The block's byte memories (scratch, central store, keeper): every operation on them keeps the canonical form, and
reset has it. -/

namespace Sys2Proof.Machine

/-- Dropping entries keeps the canonical form. -/
theorem tableFrom_filter {α : Type} [DecidableEq α] {d : α} (p : Nat × α → Bool) {n : Nat} {t : Table α}
    (h : tableFrom d n t = true) : tableFrom d n (t.filter p) = true := by
  induction t generalizing n with
  | nil => rfl
  | cons e r ih =>
    obtain ⟨k, v⟩ := e
    simp only [tableFrom, Bool.and_eq_true, decide_eq_true_eq] at h
    obtain ⟨⟨hk, hv⟩, hr⟩ := h
    rw [List.filter_cons]
    split
    · simp only [tableFrom, Bool.and_eq_true, decide_eq_true_eq]
      exact ⟨⟨hk, hv⟩, ih hr⟩
    · exact tableFrom_mono (ih hr) (by omega)

/-- Clearing part of a memory keeps the canonical form (R37). -/
theorem memoryWf_filter {m : Memory} (p : Nat × Byte → Bool) (h : Memory.wf m = true) : Memory.wf (m.filter p) = true :=
  tableFrom_filter p h

/-- A write through a handle keeps the canonical form (R285). -/
theorem memoryWf_hndPut {m : Memory} (h : Handle) (o : Nat) (b : Bytes) (hm : Memory.wf m = true) :
    Memory.wf (hndPut m h o b) = true := by
  induction b generalizing m o with
  | nil => exact hm
  | cons x r ih => exact ih (o + 1) (memoryWf_mset _ x hm)

/-- A write through a handle changes no byte that the handle does not map there. -/
theorem mget_hndPut_outside (m : Memory) (h : Handle) (o a : Nat) (b : Bytes)
    (ha : ∀ i, i < b.length → a ≠ hndAddr h (o + i)) : mget (hndPut m h o b) a = mget m a := by
  induction b generalizing m o with
  | nil => rfl
  | cons x r ih =>
    simp only [hndPut]
    rw [ih _ (o + 1) fun i hi => by
      have := ha (i + 1) (by simp only [List.length_cons]; omega)
      rwa [Nat.add_assoc, Nat.add_comm 1 i]]
    exact mget_mset_ne m x (ha 0 (by simp only [List.length_cons]; omega))

/-- Every memory of the block is in canonical form. -/
def Hw.memoriesWf (s : Hw) : Prop :=
  Memory.wf s.cs.bytes = true ∧ Memory.wf s.kp.bytes = true ∧ Memory.wf s.ucode.fetched = true ∧
    ∀ c, Memory.wf (s.ctx c).scratch = true

theorem reset_memoriesWf : State.reset.hw.memoriesWf := ⟨rfl, rfl, rfl, fun _ => rfl⟩

theorem hndWrite_memoriesWf {s : Hw} (h : Handle) (o : Nat) (b : Bytes) (hs : s.memoriesWf) :
    (hndWrite s h o b).memoriesWf := ⟨memoryWf_hndPut h o b hs.1, hs.2⟩

/-- A write of a context's scratch keeps every memory canonical. -/
theorem scratchWrite_memoriesWf {s : Hw} (c a : Nat) (b : Bytes) (hs : s.memoriesWf) :
    (s.modCtx c fun x => { x with scratch := mwrite x.scratch a b }).memoriesWf := by
  refine ⟨hs.1, hs.2.1, hs.2.2.1, fun k => ?_⟩
  by_cases e : k = c
  · subst e
    rw [Hw.modCtx_ctx]
    exact memoryWf_mwrite a b (hs.2.2.2 k)
  · rw [Hw.modCtx_ctx_ne s _ e]
    exact hs.2.2.2 k

/-- A write of a range, of scratch or of a handle, keeps every memory canonical (R115). -/
theorem rgWrite_memoriesWf {s : Hw} (c : Nat) (r : Word) (b : Bytes) (hs : s.memoriesWf) : (rgWrite s c r b).memoriesWf := by
  unfold rgWrite
  split
  · exact scratchWrite_memoriesWf c _ b hs
  · exact hndWrite_memoriesWf _ _ b hs

end Sys2Proof.Machine
end

