-- ==== Sys2Proof/Tests/States.lean ====
section
/-! SUPPORT. Small states for the tests: a configuration with one domain, one window, one ring and one library entry; a block
in Full under it; a context that runs a program. And the checks that a test decides instead of the hypotheses of a
statement. -/

namespace Sys2Proof.Tests

open Sys2Proof Sys2Proof.Machine

set_option Elab.async false

/-- Domain 0 may use every slot, every engine and all of memory; ring 0 has 64 entries at port 0. -/
def cfg0 : CfgSet := [
  (0x1202, 0x00000A0800000E10#64), (0x20000, 0x0100003F#64), (0x20001, 0x0000000020002000#64), (0x20002, 0x8FFF0000#64),
  (0x20004, 0x8001FFFF00000000#64), (0x20008, 0x3#64), (0x20009, 0xFFFFFFFFFFFFF000#64),
  (0x40000, 0x06000001#64), (0x40001, 0x10000#64), (0x40002, 0x20000#64), (0x40003, 0x10002#64),
  (0xC0000, 0x0000100000004000#64), (0xC0001, 0x10000001F#64)]

/-- A block in Full whose cinch CTLA holds. -/
def full : Hw := {
  mc := { mode := .full, por := false, bring := { phase := .done } }
  cinch := { owner := some .ctla }
  active := cfg0
  shadow := cfg0
  kp := { formatted := true, sizeMib := 64 }
  keys := { countersComplete := true } }

/-- The state of a block with no command waiting. -/
def st (h : Hw) : State := { hw := h }

/-- A block in another mode. -/
def inMode (m : Mode) : Hw := { full with mc := { full.mc with mode := m } }

/-- A command answers a next state whose block passes a test. -/
def after (i : Instr) (s : State) (f : Hw → Bool) : Bool := match exec i s with | .next t => f t.hw | _ => false

/-- A request of ring 0. -/
def req0 : Request :=
  { ring := 0, k := 0, desc := 0, domain := 0, epoch := 0, admittedAt := 0, deadline := none, pilot := false, fromPeer := none }

/-- A context that runs the request. -/
def ctx0 : Ctx := { st := .ready, req := some req0 }

/-- A block in which context 0 is x. -/
def prog (x : Ctx) : Hw := { full with ctxs := [(0, x)] }

/-- A block in which ticket 0 of context 0 is PENDING with job j. -/
def work (x : Ctx) (j : Job) : Hw :=
  { full with ctxs := [(0, { x with tickets := [(0, { st := .pending })] })], jobs := [(0, j)] }

/-- What decides that context c issues. -/
def issuesB (h : Hw) (c : Nat) : Bool :=
  !h.inert && (h.ctx c).st = .ready && (h.ctx c).req.isSome && (h.ctx c).posted = none && (h.ctx c).withdrawn = none &&
    !(h.ctx c).noRecord && (h.ctx c).retired < stepLimit h c && (h.ctx c).pc.toNat < codeBytes h c &&
    !h.libBad.contains ((h.ctx c).epoch, fetchWord h c) &&
    (match (h.ctx c).rep with | none => true | some r => r.remain != 0)

theorem issues_of {h : Hw} {c : Nat} (e : issuesB h c = true) : Issues h c := by
  simp only [issuesB, Bool.and_eq_true, decide_eq_true_eq, Bool.not_eq_true'] at e
  obtain ⟨⟨⟨⟨⟨⟨⟨⟨⟨a, b⟩, c⟩, d⟩, e⟩, f⟩, g⟩, i⟩, w⟩, j⟩ := e
  refine ⟨⟨a, b, c, d, e, f, g, i, w⟩, ?_⟩
  intro r hr
  rw [hr] at j
  simpa using j

/-- What decides that a control port is served. -/
theorem serves_of {h : Hw} {p : CtlPort} (e : (!h.inert && ctlServes h p) = true) : Serves h p := by
  simp only [Bool.and_eq_true, Bool.not_eq_true'] at e
  exact ⟨e.1, e.2⟩

/-- What decides that a control port holds the cinch. -/
theorem masters_of {h : Hw} {p : CtlPort} (e : (!h.inert && ctlServes h p) = true) (o : h.cinch.owner = some p) :
    Masters h p := ⟨serves_of e, o⟩

/-- What decides that every record that is ready stands on the ready list, here for want of any. -/
theorem settled_of {h : Hw} (e : h.ctxs.all (fun p => !recordReady p.2) = true) : h.Settled := by
  intro c hc
  exfalso
  have key : ∀ l : Table Ctx, l.all (fun p => !recordReady p.2) = true → recordReady (tget {} l c) = false := by
    intro l
    induction l with
    | nil => intro _; rfl
    | cons p r ih =>
      intro hl
      simp only [List.all_cons, Bool.and_eq_true, Bool.not_eq_true'] at hl
      obtain ⟨k, v⟩ := p
      simp only [tget]
      split
      · exact hl.1
      · exact ih hl.2
  rw [Hw.ctx, key _ e] at hc
  cases hc

/-- What decides that a job is under way in a context that runs. -/
def worksB (h : Hw) (c t : Nat) (j : Job) : Bool :=
  !h.inert && t < 16 && h.job (jobKey c t) = some j && (h.ctx c).st != .free && (h.ctx c).posted = none &&
    (h.ctx c).withdrawn = none && h.ctxs.all (fun p => !recordReady p.2)

theorem works_of {h : Hw} {c t : Nat} {j : Job} (e : worksB h c t j = true) : Works h c t j := by
  simp only [worksB, Bool.and_eq_true, decide_eq_true_eq, Bool.not_eq_true', bne_iff_ne] at e
  obtain ⟨⟨⟨⟨⟨⟨a, b⟩, c⟩, d⟩, e⟩, f⟩, g⟩ := e
  exact ⟨a, b, c, d, e, f, settled_of g⟩

/-- What decides that an access goes out at a port. -/
def reachesB (h : Hw) (d addr : Nat) (w : Bool) : Bool :=
  (winCheck h.active d addr w).isSome && match mmBind h with | some p => (mmTag h p w).isSome | none => false

theorem reaches_of {h : Hw} {d addr : Nat} {w : Bool} (e : reachesB h d addr w = true) : ∃ p a, Reaches h d addr w p a := by
  simp only [reachesB, Bool.and_eq_true] at e
  obtain ⟨x, y⟩ := e
  obtain ⟨a, ha⟩ := Option.isSome_iff_exists.1 x
  split at y
  · next p hp => exact ⟨p, a, ha, hp, y⟩
  · cases y

/-- A memory that lists a string of bytes from an address on. -/
def listed (a : Nat) : Bytes → Memory
  | [] => []
  | x :: r => (a, x) :: listed (a + 1) r

theorem mget_listed_below (b : Bytes) : ∀ a k, k < a → mget (listed a b) k = 0 := by
  induction b with
  | nil => intros; rfl
  | cons x r ih =>
    intro a k h
    simp only [listed, mget, tget]
    rw [if_neg (by omega)]
    exact ih _ _ (by omega)

theorem mread_below (m : Memory) : ∀ n k, (∀ i < n, mget m (k + i) = 0) → mread m k n = zeros n := by
  intro n
  induction n with
  | zero => intros; rfl
  | succ n ih =>
    intro k h
    rw [mread, zeros, List.replicate_succ]
    congr 1
    · simpa using h 0 (by omega)
    · refine ih _ fun i hi => ?_
      have := h (i + 1) (by omega)
      rwa [show k + (i + 1) = k + 1 + i by omega] at this

theorem mread_skip (a : Nat) (x : Byte) (m : Memory) : ∀ n k, a < k → mread ((a, x) :: m) k n = mread m k n := by
  intro n
  induction n with
  | zero => intros; rfl
  | succ n ih =>
    intro k h
    rw [mread, mread, ih _ (by omega)]
    congr 1
    simp only [mget, tget]
    rw [if_neg (by omega)]

theorem mread_listed (b : Bytes) : ∀ a, mread (listed a b) a b.length = b := by
  induction b with
  | nil => intros; rfl
  | cons x r ih =>
    intro a
    rw [List.length_cons, mread, listed, mread_skip _ _ _ _ _ (by omega), ih]
    simp [mget, tget]

end Sys2Proof.Tests
end

