-- ==== Sys2Proof/Tests/Jobs.lean ====
section
/-! SUPPORT. Witnesses for the statements about engine instructions, jobs and engines: a state and operands that meet the
hypotheses of each clause. -/

namespace Sys2Proof.Tests

open Sys2Proof Sys2Proof.Machine

set_option Elab.async false

/-! ### Issue -/

/-- A context with a parameter block at scratch address 0, ticket 0 PENDING and an AFTER set of it in w2. -/
def params (ws : List Word) : Ctx :=
  { ctx0 with regs := [(2, 1)], scratch := mwrite [] 0 (wordsBytes ws), tickets := [(0, { st := .pending })] }

/-- The parameter block of such a context. -/
def blk (ws : List Word) : Block := BitVec.ofNat 512 (leNat (mread (params ws).scratch 0 64))

/-- GCM, FIRST and LAST, 64 B of handle 0 to handle 1, the tag in scratch. -/
def ciphW : List Word := [0x601, put 32 32 64, put 32 32 64 ||| put 22 4 1, 0, put 26 1 1 ||| put 32 32 16]
/-- SHA-256, FIRST and LAST, 64 B of handle 0, the result at the end of scratch. -/
def dgstW : List Word := [0x602, put 32 32 64, put 32 32 32 ||| put 26 1 1 ||| put 0 22 0xFE0]
/-- MODMUL of 4 words. -/
def pkW : List Word := [put 0 16 1 ||| put 16 9 4, 0x1000, 0x2000, 0x3000, 0x4000]

theorem witness_EngineInstructionsTakeATicket :
    (Issues (prog (params ciphW)) 0 ∧ (prog (params ciphW)).Settled ∧ ((params ciphW).rep = none) ∧
      ((params ciphW).tk 1).st = .free ∧ (∀ u < 1, ((params ciphW).tk u).st ≠ .free) ∧
      (((params ciphW).rget 2).setWidth 16 : BitVec 16).getLsbD 0 = true ∧ ((params ciphW).tk 0).st = .pending ∧
      (∀ u < 16, (((params ciphW).rget 2).setWidth 16 : BitVec 16).getLsbD u = true → ((params ciphW).tk u).st ≠ .free)) ∧
    (bit (libMask ((prog (params ciphW)).cfgOf 0) 0) 0 = true ∧ (ciphIssue (prog (params ciphW)) 0 1 (blk ciphW)).2 = none) ∧
    (bit (libMask ((prog (params dgstW)).cfgOf 0) 0) 2 = true ∧ (dgstIssue (prog (params dgstW)) 0 1 (blk dgstW)).2 = none) ∧
    (let h := { prog (params pkW) with ucode := { active := true } }
     bit (libMask (h.cfgOf 0) 0) 4 = true ∧ pkIssue h 0 1 (blk pkW) = none) ∧
    (keyReserved (put 20 4 6 ||| put 24 8 1) = false ∧ algKnown 1 = true) ∧
    ((params ciphW).domain = 0 ∧ rgPayloadBad (put 32 32 64) = false ∧ rgBad (put 32 32 3629) = false) ∧
    (∀ n < 512, queueFull (prog (params ciphW)) 0 n .join = false) ∧
    (((params ciphW).hnd 15).st = .closed ∧
      (({ params ciphW with handles := [(15, { st := .live, count := 1, bufs := [8191] })] } : Ctx).hnd 15).st = .live) :=
  ⟨⟨issues_of (by decide +kernel), settled_of (by decide +kernel), by decide +kernel⟩, by decide +kernel, by decide +kernel,
    by decide +kernel, by decide, by decide +kernel, by decide +kernel, by decide +kernel⟩

/-- A JOIN held for a full queue. -/
def heldJoin : Ctx := { ctx0 with st := .waiting, hold := .queue (.join 0 3 2) }

theorem witness_PostsAndQueues :
    (Issues (prog ctx0) 0 ∧ (prog ctx0).Settled ∧ ctx0.rep = none ∧ (ctx0.tk 0).st = .free ∧
      queueFull (prog ctx0) 0 0 .post = false ∧ ctx0.cstreams = [] ∧ ctx0.scrubbing = none ∧ ctx0.committed = false) ∧
    ((prog heldJoin).inert = false ∧ heldJoin.st = .waiting ∧ heldJoin.hold = .queue (.join 0 3 2)) :=
  ⟨⟨issues_of (by decide +kernel), settled_of (by decide +kernel), by decide +kernel⟩, by decide +kernel⟩

/-! ### Router and buffers -/

/-- A JOIN whose predecessor is DONE, with its status. -/
def joinJob (status : BitVec 8) : Job := { op := .join, preds := [⟨1, some status⟩] }
/-- A FREE of handle 3. -/
def freeJob : Job := { op := .free 3, preds := [⟨1, some 0⟩] }
/-- A gather after a job that failed. -/
def failedGather : Job := { op := .xgath 0, preds := [⟨1, some 0x7F⟩, ⟨2, some 0⟩] }
/-- A comparison of the last byte of scratch with the first. -/
def cmpctJob : Job := { op := .cmpct 0xFFF 0 1, phase := .running }
/-- A check of slot 7, whose key is missing. -/
def kchkJob : Job := { op := .kchk (put 0 17 7 ||| put 20 4 1 ||| put 24 8 1) }
/-- MODMUL of 4 words inside the domain's window. -/
def mulBlk : Block := blk [put 0 16 1 ||| put 16 9 4, 0x1000, 0x1020, 0x1040, 0x1080]
/-- Its job, as it stands. -/
def mulJob (phase : JobPhase) : Job := { op := .pk mulBlk, phase := phase }
/-- A block with microcode in which that job is due. -/
def mulComes : Hw := { work ctx0 (mulJob .after) with ucode := { active := true } }
/-- A load that may begin. -/
def loadDue : Job := { op := .xload 0x2000 (put 32 32 1) }
/-- A comparison that may begin. -/
def cmpctDue : Job := { op := .cmpct 0xFFF 0 1 }
/-- A context with one buffer in handle 0. -/
def handle0 : Ctx := { ctx0 with handles := [(0, { st := .live, count := 1, bufs := [0] })] }
/-- A context with handle 3 live. -/
def freeing : Ctx := { ctx0 with handles := [(3, { st := .freeing, count := 1, bufs := [7] })] }

theorem witness_RouterPassesJobs :
    (Works (work ctx0 (joinJob 0)) 0 0 (joinJob 0) ∧ (∀ p ∈ (joinJob 0).preds, p.status = some 0) ∧
      queueFull (work ctx0 (joinJob 0)) 0 0 .join = false) ∧
    (Works (work freeing freeJob) 0 0 freeJob ∧ (∀ p ∈ freeJob.preds, p.status = some 0) ∧
      handleNamed (work freeing freeJob) 0 (jobKey 0 0) 3 = false ∧ queueFull (work freeing freeJob) 0 0 freeJob.op = false) ∧
    (Works (work ctx0 failedGather) 0 0 failedGather ∧ (∀ p ∈ failedGather.preds, p.status.isSome = true) ∧
      (∃ p ∈ failedGather.preds, p.status = some 0x7F ∧ (0x7F : BitVec 8) ≠ 0 ∧
        ∀ q ∈ failedGather.preds, q.status = some 0 ∨ q.status = some 0x7F)) ∧
    (Works (work ctx0 cmpctJob) 0 0 cmpctJob ∧ (0xFFF : Word).toNat + 1 ≤ 0x1000) ∧
    (Works (work ctx0 kchkJob) 0 0 kchkJob ∧ queueFull (work ctx0 kchkJob) 0 0 kchkJob.op = false) ∧
    (Works mulComes 0 0 (mulJob .after) ∧ kbKeyed mulBlk = false ∧ pkFlags (mulComes.cfgOf 0) 0 mulBlk = none ∧
      pkBenchServes mulComes (benchOf 0) = true ∧ queueFull mulComes 0 0 (mulJob .after).op = false) ∧
    (Works (work handle0 loadDue) 0 0 loadDue ∧ rgInside handle0 (put 32 32 1) = true ∧ 0 < rgLen (put 32 32 1) ∧
      queueFull (work handle0 loadDue) 0 0 loadDue.op = false) ∧
    (Works (work ctx0 cmpctDue) 0 0 cmpctDue ∧ queueFull (work ctx0 cmpctDue) 0 0 cmpctDue.op = false) :=
  ⟨⟨works_of (by decide +kernel), by decide +kernel⟩, ⟨works_of (by decide +kernel), by decide +kernel⟩,
    ⟨works_of (by decide +kernel), by decide +kernel⟩, ⟨works_of (by decide +kernel), by decide⟩,
    ⟨works_of (by decide +kernel), by decide +kernel⟩, ⟨works_of (by decide +kernel), by decide +kernel⟩,
    ⟨works_of (by decide +kernel), by decide +kernel⟩, works_of (by decide +kernel), by decide +kernel⟩

/-- A waiting ALLOC of one buffer. -/
def allocJob : Job := { op := .alloc 3 1, phase := .allocating }
/-- A context whose handle 3 is being allocated. -/
def allocating : Ctx := { ctx0 with handles := [(3, { st := .allocating })] }
/-- A block with a buffer in the zeroer's queue. -/
def zeroing : Hw := { full with cs := { bufs := [(8191, .zeroing)], zeroQ := [8191], recheck := [8191] } }

theorem witness_BuffersComeAndGo :
    (Works (work allocating allocJob) 0 0 allocJob ∧ (allocating.hnd 3).st = .allocating ∧
      canAllocate (work allocating allocJob) ((work allocating allocJob).cfgOf 0) 0 1
        (allocFirst (work allocating allocJob) (jobKey 0 0)) = true) ∧
    (zeroing.inert = false ∧ (8191 : BitVec 13).toNat ∈ zeroing.cs.zeroQ.take 8) :=
  ⟨⟨works_of (by decide +kernel), by decide +kernel⟩, by decide +kernel⟩

/-! ### Cipher pairs -/

/-- A running encryption of 65 B, its source the end of one buffer and its destination another. -/
def ciphBlk : Block := blk [0x601, put 32 32 65, put 32 32 65 ||| put 22 4 1, 0, put 26 1 1 ||| put 32 32 16]
/-- Its job. -/
def ciphJob : Job := { op := .ciph ciphBlk, phase := .running, started := true }
/-- Its context. -/
def ciphCtx : Ctx := { ctx0 with
  handles := [(0, { st := .live, count := 1, bufs := [0] }), (1, { st := .live, count := 1, bufs := [1] })]
  cstreams := [(0, { mode := 1, started := true, key := zeros 16, iv := zeros 12 })] }
/-- ChaCha20-Poly1305 on the stream pair. -/
def chachaBlk : Block := blk [0x610, put 32 32 65, put 32 32 65 ||| put 22 4 1, 0, put 26 1 1 ||| put 32 32 16]
/-- Its job. -/
def chachaJob : Job := { op := .ciph chachaBlk, phase := .running, started := true }

theorem witness_StitchesAdvance :
    (Works (work ciphCtx ciphJob) 0 0 ciphJob ∧ (work ciphCtx ciphJob).jobs = [(jobKey 0 0, ciphJob)] ∧
      cbMode ciphBlk ≠ 3 ∧ pairOf (benchOf 0) (cbMode ciphBlk) = pairKey .cipher 0 ∧ 0 + 64 < rgLen (pbSrc ciphBlk) ∧
      rgLen (pbDst ciphBlk) = rgLen (pbSrc ciphBlk) ∧ rgScr (rgSub (pbDst ciphBlk) 0 64) = false ∧
      srcHeld ciphCtx ciphJob ciphBlk = false ∧ (work ciphCtx ciphJob).cs.poisoned = [] ∧
      (work ciphCtx ciphJob).out (pairUnit 0) = false ∧ ((work ciphCtx ciphJob).pair 0).entStop = false ∧
      ((work ciphCtx ciphJob).pair 0).workerOut < 2 ^ 20 ∧ ((work ciphCtx ciphJob).pair 0).checkerOut < 2 ^ 20 ∧
      ((work ciphCtx ciphJob).pair 0).cfg.getLsbD 0 = false ∧ (work ciphCtx ciphJob).fenced 0x84 = false ∧
      ((work ciphCtx ciphJob).blk (pairUnit 0)).flip = false) ∧
    (Works (work ciphCtx chachaJob) 0 0 chachaJob ∧ pairOf (benchOf 0) (cbMode chachaBlk) = pairKey .stream 0 ∧
      srcHeld ciphCtx chachaJob chachaBlk = false ∧ ((work ciphCtx chachaJob).pair (pairKey .stream 0)).entStop = false ∧
      ((work ciphCtx chachaJob).blk (pairUnit (pairKey .stream 0))).flip = false) :=
  ⟨⟨works_of (by decide +kernel), by decide +kernel⟩, works_of (by decide +kernel), by decide +kernel⟩

/-- An encryption whose tag is due. -/
def tagJob : Job := { ciphJob with phase := .closing }
/-- A decryption of a GMAC stream and one of a GCM stream whose tag is due. -/
def checkJob (mode : Word) : Job :=
  { op := .ciph (blk [0x700 ||| mode, put 32 32 65, put 32 32 65 ||| put 22 4 1, 0, put 26 1 1 ||| put 32 32 16])
    phase := .closing, started := true }
/-- A context whose stream holds one range. -/
def holding : Ctx := { ciphCtx with cstreams := [(0, {
  mode := 1, dir := true, started := true, undecided := true, held := [put 32 32 65 ||| put 22 4 1], holdBufs := 1,
  heldBytes := 65 })] }
/-- A context that scrubs for ticket 0. -/
def scrubs (refused : Bool) : Ctx :=
  { ctx0 with scrubbing := some { ticket := some 0, status := 0x3, stopStatus := 0x4, refused := refused } }
/-- Its job. -/
def scrubJob : Job := { checkJob 1 with phase := .scrubbing }

theorem witness_TagsAndScrubs :
    (Works (work ciphCtx tagJob) 0 0 tagJob ∧ ((work ciphCtx tagJob).pair 0).entStop = false ∧ ciphTagged ciphBlk = true ∧ cbDir ciphBlk = false ∧
      (work ciphCtx tagJob).out (pairUnit 0) = false) ∧
    (Works (work ciphCtx (checkJob 2)) 0 0 (checkJob 2) ∧
      ∃ b, (checkJob 2).op = .ciph b ∧ ciphTagged b = true ∧ cbDir b = true ∧ taggedMode (cbMode b) = false ∧
        (ciphCtx.cs 0).holds = false) ∧
    (Works (work holding (checkJob 1)) 0 0 (checkJob 1) ∧
      ∃ b, (checkJob 1).op = .ciph b ∧ ciphTagged b = true ∧ cbDir b = true ∧ taggedMode (cbMode b) = true ∧
        (holding.cs 0).holds = true ∧ (holding.cs 0).rel = false ∧ (holding.cs 0).undecided = true ∧
        ∃ r, (holding.cs 0).held = [r] ∧ rgScr r = false) ∧
    (∀ refused, Works (work (scrubs refused) scrubJob) 0 0 scrubJob ∧
      (scrubs refused).scrubbing = some { ticket := some 0, status := 0x3, stopStatus := 0x4, refused := refused } ∧
      scrubBlocked (work (scrubs refused) scrubJob) 0 = false ∧ (scrubs refused).scrub = []) :=
  ⟨⟨works_of (by decide +kernel), by decide +kernel⟩,
    ⟨works_of (by decide +kernel), _, rfl, by decide +kernel⟩,
    ⟨works_of (by decide +kernel), _, rfl, by decide +kernel, by decide +kernel, by decide +kernel, by decide +kernel,
      by decide +kernel, by decide +kernel, _, rfl, by decide⟩,
    fun refused => by cases refused <;> exact ⟨works_of (by decide +kernel), by decide +kernel⟩⟩

/-- A pair whose generators have asked, in a block whose source serves. -/
def asking : Hw := { full with
  pairs := [(7, { workerAsked := true, workerOut := 0x100000, checkerAsked := true, checkerOut := 0x100000, seeded := true, stallFrom := some 9 })]
  sec := { entHealthy := true } }

theorem witness_MaskGeneratorsReseed :
    (asking.inert = false ∧ asking.fenced 0x84 = false ∧ asking.sec.entHealthy = true ∧ drbgDue asking = false ∧
      (asking.pair 7).workerAsked = true ∧ (asking.pair 7).checkerAsked = true ∧ (asking.pair 7).seeded = true ∧
      (∀ q < 8, ((asking.pair q).workerAsked = true → (asking.pair q).workerOut ≤ (asking.pair 7).checkerOut) ∧
        ((asking.pair q).checkerAsked = true → (asking.pair q).checkerOut ≤ (asking.pair 7).workerOut))) ∧
    ({ asking with flt := [(0x84, { fenced := true })] } : Hw).fenced 0x84 = true ∧ (full.pair 0).workerOut < 2 ^ 20 ∧
    (∃ t, (asking.pair 7).stallFrom = some t ∧ (asking.pair 7).stallSaid = false) ∧
    (full.jobs = [] ∧ (full.pair 7).stallFrom = none) :=
  ⟨by decide +kernel, by decide +kernel, by decide +kernel, ⟨9, by decide +kernel⟩, by decide +kernel⟩

/-! ### Digest engines and board -/

/-- SHA-256 over 1025 B, FIRST and LAST, its result at the end of scratch. -/
def dgstBlk (bits dst : Word) : Block := blk [0x602 ||| bits, put 32 32 1025, dst, put 26 1 1 ||| put 32 32 32]
/-- Its job. -/
def dgstJob (bits : Word) (phase : JobPhase) : Job :=
  { op := .dgst (dgstBlk bits (put 26 1 1 ||| put 0 22 0xFE0 ||| put 32 32 32)), phase := phase, started := true }
/-- Its context. -/
def dgstCtx : Ctx := { ctx0 with handles := [(0, { st := .live, count := 1, bufs := [0] })]
                                 dstreams := [(0, { alg := 2, started := true, bound := true, engine := 3 })] }
/-- A block with board data and a trace record waiting. -/
def posted : Hw := { full with board := { ctl := 0, posts := 1, trace := [[1, 2], [3]], entries := [(255, { seq := 2, len := 4 })] } }

theorem witness_DigestsAndBoard :
    (Works (work dgstCtx (dgstJob 0 .running)) 0 0 (dgstJob 0 .running) ∧ (dgstCtx.ds 0).claimed = [] ∧
      (dgstCtx.ds 0).engine = digNum (.lane 3) ∧
      ∃ b, (dgstJob 0 .running).op = .dgst b ∧ 0 + 1024 < rgLen (pbSrc b) ∧ rgHeld dgstCtx (pbSrc b) = false ∧
        (work dgstCtx (dgstJob 0 .running)).out (digUnit 3) = false) ∧
    (∀ check : Bool, let bits : Word := if check then 0x2000 else 0
      Works (work dgstCtx (dgstJob bits .closing)) 0 0 (dgstJob bits .closing) ∧
      ∃ b, (dgstJob bits .closing).op = .dgst b ∧ pbLast b = true ∧ dbBoard b = false ∧ dbCheck b = check) ∧
    (Masters posted .ctla ∧ bit posted.board.ctl 0 = false ∧ posted.board.trace = [1, 2] :: [[3]]) :=
  ⟨⟨works_of (by decide +kernel), by decide +kernel, by decide +kernel, _, rfl, by decide +kernel⟩,
    fun check => by cases check <;> exact ⟨works_of (by decide +kernel), _, rfl, by decide +kernel⟩,
    masters_of (by decide +kernel) (by decide +kernel), by decide +kernel⟩

/-! ### Public-key units, curves, microcode -/

/-- A verification (ECDSA P-256 with a public key given). -/
def verJob : Job := { op := .pk (blk [put 0 16 0x112 ||| put 16 9 4]), phase := .running }
/-- A block whose unit 0 is as given. -/
def unit0 (h : Hw) (u : PkUnit) : Hw := { h with pku := [(0, u)] }

/-- A block with microcode in which the job waits. -/
def mulWaits : Hw := { work ctx0 (mulJob .queued) with ucode := { active := true } }

/-- A block with microcode and a root whose identity is still to be computed. -/
def nameless : Hw := { full with ucode := { active := true }, keys := { full.keys with root := .d, rootKey := zeros 32 } }

theorem witness_UnitsTakeJobs :
    (nameless.inert = false ∧ (nameless.pkUnit 0).phase = .free ∧ pkuServes nameless 0 = true ∧ nameless.mc.mode = .full ∧
      identityDue nameless = true ∧ ucUnit nameless = some 0) ∧
    Works mulWaits 0 0 (mulJob .queued) ∧ mulWaits.jobs = [(jobKey 0 0, mulJob .queued)] ∧ (mulWaits.pkUnit 0).phase = .free ∧
      pkuServes mulWaits 0 = true ∧ mulWaits.mc.mode = .full ∧ (mulWaits.pkb' 0).curves = [] ∧ ctx0.domain < 4096 ∧
      mulWaits.keys.updates = [] ∧ identityDue mulWaits = false ∧ kbKeyed mulBlk = false ∧ pkDraws (kbOp mulBlk) = false ∧ pkLoaded (kbOp mulBlk) = false ∧
      (∀ o ∈ pkOuts (kbOp mulBlk) (kbWords mulBlk), ∀ q ∈ piecesOf (kbOut mulBlk o.1).toNat o.2,
        (winCheck (mulWaits.cfgOf 0) 0 q.1 true).isSome = true) ∧
      (∀ a ∈ pkSources mulBlk, ∀ q ∈ piecesOf a.1 a.2, (winCheck (mulWaits.cfgOf 0) 0 q.1 false).isSome = true) ∧
      (mmBind mulWaits).isSome = true :=
  ⟨by decide +kernel, works_of (by decide +kernel), by decide +kernel⟩

/-- Units at the end of a verification, of a result's writes, and of a burnish. -/
def verUnit : Hw := unit0 (work ctx0 verJob) { phase := .compute, work := some (.job 0), op := 0x112 }
/-- One whose two halves hold different signatures. -/
def tornUnit : Hw := unit0 (work ctx0 verJob)
  { phase := .compute, work := some (.job 0), op := 1, words := 4, layout := [(opIn, 32), (opIn + 32, 32), (opIn + 64, 32)]
    mem := [(opIn, 13), (opIn + 31, 128), (opIn + 32, 7), (opIn + 64, 1), (opIn + opHalf, 13), (opIn + opHalf + 31, 128),
      (opIn + opHalf + 32, 6), (opIn + opHalf + 64, 1)] }
/-- Writes. -/
def mulUnit : Hw := unit0 (work ctx0 (mulJob .running)) { phase := .write, work := some (.job 0), op := 1 }
/-- Burnish. -/
def burnishing : Hw := unit0 full { phase := .burnish }

theorem witness_UnitsReleaseAndBurnish :
    (Works verUnit 0 0 verJob ∧ verUnit.jobs = [(jobKey 0 0, verJob)] ∧ pkDsaSign (verUnit.pkUnit 0).op.toNat = false ∧
      verUnit.out (pkuUnit 0) = false ∧ (verUnit.blk (pkuUnit 0)).flip = false ∧ (verUnit.pkUnit 0).killed = false ∧
      pkAnswer ((verUnit.pkUnit 0).pkIn true) = pkAnswer ((verUnit.pkUnit 0).pkIn false) ∧
      ∃ b, verJob.op = .pk b ∧ pkOuts (kbOp b) (kbWords b) = []) ∧
    (Works tornUnit 0 0 verJob ∧ (tornUnit.pkUnit 0).phase = .compute ∧
      pkAnswer ((tornUnit.pkUnit 0).pkIn true) ≠ pkAnswer ((tornUnit.pkUnit 0).pkIn false)) ∧
    (Works mulUnit 0 0 (mulJob .running) ∧ (mulUnit.pkUnit 0).writeOut = 0 ∧ (mulUnit.pkUnit 0).outputs = [] ∧
      (mulUnit.pkUnit 0).refused = false) ∧
    (burnishing.inert = false ∧ burnishing.fenced (pkuUnit 0) = false ∧ burnishing.jobs = []) ∧
    (unit0 (inMode .held) { phase := .burnish }).mc.por = false :=
  ⟨⟨works_of (by decide +kernel), by decide +kernel, by decide +kernel, by decide +kernel, by decide +kernel,
      by decide +kernel, by decide +kernel, _, rfl, by decide +kernel⟩,
    ⟨works_of (by decide +kernel), by decide +kernel⟩,
    ⟨works_of (by decide +kernel), by decide +kernel⟩, by decide +kernel, by decide +kernel⟩

/-- A curve entry whose seventh segment runs. -/
def curve : CurveEntry :=
  { id := 3, domain := 0, fingerprint := [], st := .checking, addr := 0, epoch := 0, words := 4, segment := 6, taken := true, job := (0, 0)
    seq := 0, since := 0, pass := true, used := 0 }
/-- A block in which unit 1 runs it. -/
def curving : Hw := { full with pkb := [(0, { curves := [curve, { curve with id := 4, st := .accepted }] })]
                                pku := [(1, { phase := .compute, work := some (.segment 0 3) })] }

theorem witness_CurvesAreChecked :
    (curving.inert = false ∧ curving.out (pkuUnit 1) = false ∧ (curving.pkUnit 1).work = some (.segment 0 3) ∧ (curving.pkUnit 1).phase = .compute ∧
      (curving.pkb' 0).curves.find? (fun e => e.id = 3) = some curve) ∧
    Masters curving .ctla ∧ (curving.pkb' 0).curves ≠ [] :=
  ⟨by decide +kernel, masters_of (by decide +kernel) (by decide +kernel), by decide +kernel⟩

/-- A block that verifies an image whose header is wrong. -/
def verifying : Hw := { full with ucode := { verifying := true, addr := 0x1000 } }
/-- A block in Provisioned with an image above the floor, and a live root. -/
def imaged : Hw := { full with ucode := { active := true, svn := 1 }, sec := { lcBits := 3 }, keys := { full.keys with root := .d } }

theorem witness_MicrocodeAndIdentity :
    (Masters full .ctla ∧ loadAllowed (wake full) = true ∧ (ucUnit (wake full)).isSome = true) ∧
    (verifying.inert = false ∧ verifying.ucode.verifying = true ∧ ucFetched verifying = true ∧
      (ucRunner verifying).isSome = true ∧ verifying.ucode.refused = false) ∧
    (Masters imaged .ctla ∧ lcState imaged = 2 ∧ imaged.ucode.active = true ∧
      imaged.ucode.floor.toNat < imaged.ucode.svn.toNat ∧ imaged.sec.fuse = []) ∧
    (let v : PkUnit := { phase := .compute, work := some .identity }
     let h := unit0 nameless v
     h.inert = false ∧ (h.pku.find? fun e => e.2.work = some .identity && e.2.phase = .compute) = some (0, v) ∧
      h.out (pkuUnit 0) = false ∧ h.keys.root ≠ .none) :=
  ⟨⟨masters_of (by decide +kernel) (by decide +kernel), by decide +kernel⟩, by decide +kernel,
    ⟨masters_of (by decide +kernel) (by decide +kernel), by decide +kernel⟩, by decide +kernel⟩

end Sys2Proof.Tests
end

