-- ==== Sys2Proof/Tests/Keys.lean ====
section
/-! SUPPORT. Witnesses for the statements about key updates, faults, the recorder and the census: a state and operands that
meet the hypotheses of each clause. -/

namespace Sys2Proof.Tests

open Sys2Proof Sys2Proof.Machine

set_option Elab.async false

/-! ### Key updates -/

/-- The head of a message of a kind for a domain and slot, COUNTER 5. -/
def msg (kind d slot : Nat) : Bytes :=
  wordsBytes [put 0 8 1 ||| put 8 8 kind ||| put 32 32 5581, put 0 12 d ||| put 12 17 slot, 5, 0, 0, 0, 0, 0, 0, 0, 0, 0]
/-- An update of port CTLA at a stage. -/
def upd (stage : UpdStage) (m : Bytes) : Update := { id := 31, source := .ctl .ctla, message := m, stage := stage }
/-- A block with microcode in which it is in progress. -/
def updating (stage : UpdStage) (m : Bytes) : Hw :=
  { full with ucode := { active := true }, keys := { full.keys with updates := [upd stage m] } }
/-- A block whose port CTLA has an intake. -/
def taking (v : Intake) : Hw := { full with keys := { full.keys with intakeA := v } }
/-- One whose domain 0 may hold 3 buffers. -/
def quotaOut : Hw := { full with active := tset 0 cfg0 0x20001 3, shadow := tset 0 cfg0 0x20001 3 }
/-- A port to which all but the last word of a whole message of a version that is none has come. -/
def badEnd : Intake := { state := 1, bytes := wordsBytes [put 0 8 2 ||| put 32 32 16] }
/-- An ENROL of a program whose receipt is due, for a range of n bytes. -/
def enrolJob (n : Nat) : Job := { op := .kint (put 32 32 n), phase := .running }
/-- Its block. -/
def enrolling (n : Nat) : Hw :=
  { work { ctx0 with handles := [(0, { st := .live, count := 2, bufs := [0, 1] })] } (enrolJob n) with
    ucode := { active := true }
    keys := { full.keys with updates := [{ upd .receipt (msg 0x10 0 3) with
      source := .kint 0, receipt := zeros 1200, results := [(5, 0, [zeros 96]), (6, 0, [zeros 3309])] }] } }

theorem witness_KeyUpdatesRunTheirStages :
    (Masters full .ctla ∧ full.Settled ∧ (full.intake .ctla).state = 0 ∧ full.mc.mode = .full ∧
      intakeFits full = true) ∧
    (Masters (inMode .maint) .ctla ∧ (inMode .maint).mc.mode ≠ .full) ∧
    (Masters quotaOut .ctla ∧ intakeFits quotaOut = false) ∧
    (Masters (taking { state := 1, bufs := [1, 2, 3, 4] }) .ctla ∧
      ((taking { state := 1, bufs := [1, 2, 3, 4] }).intake .ctla).state = 1) ∧
    ((zeros 0).length + 8 < umTotal (leBytes 8 (put 32 32 16384).toNat) ∧ umTotal (leBytes 8 (put 32 32 16384).toNat) ≤ 16384 ∧
      16384 < umTotal (leBytes 8 (put 32 32 16385).toNat)) ∧
    (∀ stage, (updating stage (msg 0x11 1 0)).inert = false ∧ (updating stage (msg 0x11 1 0)).Settled ∧
      (updating stage (msg 0x11 1 0)).keys.updates = [upd stage (msg 0x11 1 0)] ∧
      pkBenchServes (updating stage (msg 0x11 1 0)) 0 = true) ∧
    ((updating .verifying (msg 0x11 1 0)).keys.countersComplete = true ∧
      updChecks68 (updating .verifying (msg 0x11 1 0)) (msg 0x11 1 0) = none) ∧
    (umKind (msg 0x11 1 0) = kRetire ∧ (updating .staging (msg 0x11 1 0)).hns.mirror = .none ∧
      bit (umAttr (msg 0x11 1 0)) 30 = false ∧ kpLive (updating .staging (msg 0x11 1 0)) = true ∧
      (updating .staging (msg 0x11 1 0)).kp.out = [] ∧ (updating .staging (msg 0x11 1 0)).kp.waiting = []) ∧
    ((updating .durable (msg 0x4 0 7)).keys.charges = [] ∧ umKind (msg 0x4 0 7) ≠ kEnrol ∧ umKind (msg 0x4 0 7) = kDestroy) ∧
    (Masters (taking badEnd) .ctla ∧ umTotal (badEnd.bytes ++ leBytes 8 0) = 16 ∧
      (badEnd.bytes ++ leBytes 8 0).length = 16 ∧
      updChecks14 (taking badEnd) (.ctl .ctla) ((badEnd.bytes ++ leBytes 8 0).take 16) = some (0x18, 1)) ∧
    ((upd .verifying (msg 0x11 1 0)).partsLeft = 0 ∧ (upd .verifying (msg 0x11 1 0)).worked = 0 ∧
      ({ upd .verifying (msg 0x11 1 0) with results := [(1, 1, [])] }).worked = 1 ∧
      ({ upd .verifying (msg 0x11 1 0) with results := [(0, 0x14, [])] }).worked = 0x14 ∧
      updChecks68 (updating .verifying (msg 0x11 1 0)) (msg 0x12 1 0) ≠ none ∧
      stagingParts (upd .verifying (msg 0x11 1 0)) = []) ∧
    ((upd .staging (msg 0x11 1 0)).acked = false ∧ (upd .staging (msg 0x11 1 0)).formed = [] ∧
      (∃ x c h, stagedSlot (updating .staging (msg 0x11 1 0)) (upd .staging (msg 0x11 1 0)) = .ok (x, c, h)) ∧
      ∃ st x, stagedSlot (updating .staging (msg 0x11 1 0)) { upd .staging (msg 0x11 1 0) with results := [(2, 0x14, [])] } =
        .error (st, x)) ∧
    (umKind (msg 0x10 0 3) = kEnrol ∧ umKind (msg 0x11 1 0) ≠ kEnrol) ∧
    (∀ n, n = 4605 ∨ n = 4604 → Works (enrolling n) 0 0 (enrolJob n) ∧
      (enrolling n).keys.updates.map (fun u => (u.worked, u.receipt.length + (u.part 5 0).2.length + (u.part 6 0).2.length)) = [(0, 4605)] ∧
      rgLen (put 32 32 n) = n ∧ (enrolling n).cs.poisoned = []) :=
  ⟨⟨masters_of (by decide +kernel) (by decide +kernel), settled_of (by decide +kernel), by decide +kernel⟩,
    ⟨masters_of (by decide +kernel) (by decide +kernel), by decide +kernel⟩,
    ⟨masters_of (by decide +kernel) (by decide +kernel), by decide +kernel⟩,
    ⟨masters_of (by decide +kernel) (by decide +kernel), by decide +kernel⟩, by decide +kernel,
    fun stage => by cases stage <;> exact ⟨by decide +kernel, settled_of (by decide +kernel), by decide +kernel⟩,
    by decide +kernel, by decide +kernel, by decide +kernel,
    ⟨masters_of (by decide +kernel) (by decide +kernel), by decide +kernel⟩, by decide +kernel,
    ⟨rfl, rfl, ⟨_, _, _, rfl⟩, _, _, rfl⟩, by decide +kernel,
    fun n h => by rcases h with rfl | rfl <;> exact ⟨works_of (by decide +kernel), by decide +kernel⟩⟩

/-! ### Faults and recovery -/

/-- A block with fenced units. -/
def fencedAt (u : Nat) (b : FltBlock) : Hw := { full with flt := [(u, { b with fenced := true })] }
/-- A block in Factory Test with an injection armed at unit 0x80. -/
def armed : Hw := { inMode .ftest with flt := [(0x80, { inj := 0x4003#64 ||| put 8 8 0x40 })] }
/-- A block after a warm reset. -/
def warmed : Hw := { full with mc := { por := false }, ward := { warmPending := true } }

theorem witness_EventsAreRecorded :
    (full.inert = false ∧ (∃ r, eventRow full 0x80 0x40 = some r ∧ r.cls ≠ 1) ∧ slotExists 0x103FF = true ∧
      (∃ r, eventRow full 0x82 0x40 = some r ∧ r.cls = 2 ∧ r.hist = true ∧ r.fence = true)) ∧
    (Masters full .ctla ∧ full.sec.power ≠ .idle) ∧
    (({ full with ward := { errPulse := true, levelWrite := some true } } : Hw).ward.errPulse = true ∧ full.ward.errPulse = false) ∧
    ((prog ctx0).inert = false ∧ ctx0.st = .ready ∧ ctx0.req.isSome = true ∧ ctx0.committed = false ∧ ctx0.withdrawn = none ∧
      ctx0.posted = none ∧ ctx0.noRecord = false) :=
  ⟨by decide +kernel, ⟨masters_of (by decide +kernel) (by decide +kernel), by decide +kernel⟩, by decide +kernel⟩

theorem witness_UnitsAndBlockRecover :
    (Masters (fencedAt 0x84 { fences := 2 }) .ctla ∧ ((fencedAt 0x84 { fences := 2 }).blk 0x84).fenced = true ∧
      ((fencedAt 0x84 { fences := 2 }).blk 0x84).rstBusy = false ∧ unitResets 0x84 = true ∧
      ((fencedAt 0x84 { fences := 2 }).blk 0x84).fences.toNat < 3 ∧ ¬((fencedAt 0x84 { fences := 3 }).blk 0x84).fences.toNat < 3) ∧
    ((fencedAt 0x10 { rstBusy := true }).inert = false ∧ ((fencedAt 0x10 { rstBusy := true }).blk 0x10).rstBusy = true) ∧
    (Masters full .ctla ∧ full.inert = false ∧ full.mc.mode ≠ .cold) ∧
    (Masters warmed .ctla ∧ warmed.mc.mode = .cold ∧ warmed.ward.warmPending = true ∧ warmed.kp.out = [] ∧
      warmed.fenced 0x82 = false) ∧
    (Masters armed .ctla ∧ armed.mc.mode = .ftest ∧ (eventRow armed 0x82 0x40).isSome = true) ∧
    ((({ inMode .ftest with flt := [(0x82, { inj := 0x4003 })] } : Hw).blk 0x82).inj = 0x4003 ∧
      bit (0x4003 : Word) 0 = true ∧ fld (0x4003 : Word) 1 2 = 1 ∧
      ∃ r, eventRow full 0x82 (fld (0x4003 : Word) 8 8) = some r ∧ r.fence = true ∧ r.cls = 2) ∧
    (fld (({ inMode .ftest with flt := [(0x10, { inj := 0x5 })] } : Hw).blk 0x10).inj 1 2 = 2 ∧ flipsIn 0x10 = true) ∧
    (let h := { fencedAt 0xAF { rstBusy := true } with mm := { txns := [⟨31, 0, true, 0, 0, 0, [], 0, 0, 0, .orphan, false⟩] } }
     resetWaits h 0xAF = true ∧ resetWaits (fencedAt 0xAF { rstBusy := true }) 0xAF = false) ∧
    ({ warmed with kp := { out := [⟨0, 1, 0, [], .time, 0⟩] } } : Hw).kp.out ≠ [] :=
  ⟨⟨masters_of (by decide +kernel) (by decide +kernel), by decide +kernel⟩, by decide +kernel,
    ⟨masters_of (by decide +kernel) (by decide +kernel), by decide +kernel⟩,
    ⟨masters_of (by decide +kernel) (by decide +kernel), by decide +kernel⟩,
    ⟨masters_of (by decide +kernel) (by decide +kernel), by decide +kernel⟩, by decide +kernel, by decide +kernel,
    by decide +kernel, by decide +kernel⟩

/-! ### Recorder and census -/

/-- A recorder as given. -/
def recording (r : Recorder) : Hw := { full with recd := r }
/-- A unit write of a recorder. -/
def runit (why : KpWhy) : KpWrite := { tag := 0, cls := 4, addr := 0x2E20000, data := [1], why := why, issuedAt := 0 }
/-- A recorder whose write is outstanding. -/
def writingRec (r : Recorder) (why : KpWhy) : Hw := { recording r with kp := { full.kp with out := [runit why] } }

theorem witness_TheRecorderWorks :
    (Serves (recording { frozen := true, owner := some .ctla }) .ctla ∧ (recording { frozen := true }).recd.stopped = false) ∧
    (Serves full .ctla ∧ full.recd.frozen = false ∧ full.recd.checkpointing = false ∧ full.recd.stopped = false ∧
      full.mc.mode = .full) ∧
    (recPages full ≤ recPages full ∧ recPages full - 1 < recPages full ∧ recPages full < 2 ^ 16 ∧ kpLive full = true) ∧
    ((recording { codes := [⟨3, 1, 0, 0, false, 0, 7⟩] }).inert = false ∧ (recording { frozen := true }).inert = false ∧
      full.fenced 0xC8 = false ∧ full.sec.power = .run) ∧
    (full.kp.out = [] ∧ full.kp.waiting = []) ∧
    ((writingRec { opened := true, current := some (⟨1, 0, []⟩, recUnits 0 - 1) } .recorder).inert = false ∧
      (writingRec { opened := true } .recorder).kp.out = [runit .recorder] ∧ (writingRec {} .recorder).kp.waiting = [] ∧
      (writingRec {} .recorder).ward.warmPending = false ∧ (writingRec {} .recorder).fenced 0x82 = false ∧
      recUnits 0 - 1 + 1 = recUnits 0 ∧ kpLive (writingRec {} .recorder) = true) ∧
    ((writingRec { pendingTomb := true } .tombstone).kp.out = [runit .tombstone] ∧
      (writingRec { pendingTomb := true } .tombstone).recd.pendingTomb = true) ∧
    full.fenced 0x88 = false :=
  ⟨⟨serves_of (by decide +kernel), by decide +kernel⟩, ⟨serves_of (by decide +kernel), by decide +kernel⟩, by decide +kernel⟩

/-- A block whose census is as given, with link 2 UP to peer 5. -/
def counting (c : Census) : Hw := { full with cen := c, hns := { links := [(2, { st := .up, peer := 5 })] } }

theorem witness_TheCensusCuts :
    ((counting { cfg := 0x30001 }).mc.por = false ∧ (counting { cfg := 0x30001 }).sec.power = .run ∧
      fld (counting { cfg := 0x30001 }).cen.cfg 0 16 ≠ 0 ∧ (counting {}).fenced 0x89 = false ∧ (counting {}).mc.mode = .full ∧
      (counting {}).cen.busy = false ∧ bit (counting {}).cen.cfg 17 = true ∧ bit (counting { cfg := 0 }).cen.cfg 17 = false) ∧
    ((counting {}).inert = false ∧ ((counting {}).link 2).st = .up ∧ ((counting {}).link 0).st ≠ .up) ∧
    ((counting { busy := true }).cen.busy = true ∧ isCounter 0x50010 = true ∧
      (counting { busy := true }).cen.latched.contains 0x50010 = false) ∧
    ((counting { awaiting := 0x20, initSeq := 4 }).cen.awaiting.getLsbD 5 = true ∧
      (counting { awaiting := 0x20, initSeq := 4 }).cen.remote = false ∧ (counting { awaiting := 0x20 }).cen.awaiting ≠ 0) ∧
    (fencedAt 0x89 {}).fenced 0x89 = true := by decide +kernel

end Sys2Proof.Tests
end

