-- ==== Sys2Proof/Tests/Links.lean ====
section
/-! SUPPORT. Witnesses for the statements about life cycle, power, the kill line, ports, links and the other blocks of a
harness, and about registers and steps: a state and operands that meet the hypotheses of each clause. Where a clause asks for a
good signature, which is more than a small test evaluates, the witness meets every other hypothesis. -/

namespace Sys2Proof.Tests

open Sys2Proof Sys2Proof.Machine

set_option Elab.async false

/-! ### Life cycle and power -/

/-- A block in a mode whose life-cycle bits and fuse operations are as given. -/
def cycled (m : Mode) (lc : BitVec 5) (q : List (FuseWhy × Nat × Option Nat)) : Hw :=
  { inMode m with sec := { lcBits := lc, fuse := q } }

theorem witness_TheLifeCycleMoves :
    (Masters (cycled .maint 3 []) .ctla ∧ lcState (cycled .maint 3 []) = 2 ∧ (cycled .maint 3 []).sec.debug ≠ .full ∧
      (cycled .maint 3 []).sec.fuse = []) ∧
    (Masters full .ctla ∧ full.mc.mode ≠ .maint ∧ full.mc.mode ≠ .ftest) ∧
    (lcState (cycled .maint 0 []) = 0 ∧ (cycled .maint 0 []).sec.debug = .closed) ∧
    ({ cycled .maint 0 [] with sec := { debug := .full } } : Hw).sec.debug = .full ∧
    ((cycled .full 1 [(.lifeCycle 2 true, 19, some 3)]).inert = false ∧ fusePairs 0x9 = 1 ||| BitVec.ofNat 5 (2 ^ (2 - 1)) ∧
      (0x9 : Word).getLsbD (2 * (2 - 1) + 1) = true ∧ fusePairs 0x1 ≠ 1 ||| BitVec.ofNat 5 (2 ^ (2 - 1))) ∧
    ((cycled .full 3 [(.floor, 19, some 46)]).sec.fuse = [(.floor, 19, some 46)] ∧ (0x400000000000 : Word).getLsbD 46 = true) ∧
    ((cycled .maint 1 [(.rootReload 3, 7, none)]).sec.fuse = (.rootReload 3, 7, none) :: [] ∧
      (cycled .maint 1 [(.rootReload 3, 7, none)]).mc.mode ≠ .held) ∧
    (full.sec.fuse = [] ∧ full.mc.bring.phase ≠ .fuses ∧
      ({ full with mc := { por := false, bring := { phase := .fuses } } } : Hw).inert = false) :=
  ⟨⟨masters_of (by decide +kernel) (by decide +kernel), by decide +kernel⟩,
    ⟨masters_of (by decide +kernel) (by decide +kernel), by decide +kernel⟩, by decide +kernel⟩

/-- A block in a power state. -/
def powered (p : Power) : Hw := { full with sec := { power := p, retReady := p = .retReady } }

theorem witness_PowerStatesChange :
    (Masters full .ctla ∧ full.sec.power = .run ∧ full.mc.mode = .full ∧ quiet full = true ∧ quiet (prog ctx0) = false) ∧
    (full.inert = false ∧ fld ({ full with sec := { pwrCfg := 1 } } : Hw).sec.pwrCfg 0 16 ≠ 0) ∧
    ((powered .idle).inert = false ∧ (powered .idle).sec.power = .idle) ∧
    ((powered .retaining).inert = false ∧ retainDrained (powered .retaining) = true ∧ kpLive (powered .retaining) = true) ∧
    ((powered .retWait).inert = false ∧ (powered .retWait).sec.power = .retWait) ∧
    ((powered .resuming).inert = false ∧ (powered .resuming).sec.power = .resuming) ∧
    (full.mc.pfw = false ∧ ({ full with mc := { full.mc with pfw := true } } : Hw).mc.pfw = true) ∧
    ((powered .retReady).sec.power = .retReady ∧ (powered .retReady).sec.retReady = true) ∧
    ((powered .retention).mc.por = false ∧ (powered .retention).mc.mode ≠ .held ∧ (powered .retention).keys.killLate = false ∧
      ({ powered .retention with keys := { full.keys with killLate := true } } : Hw).keys.killLate = true) :=
  ⟨⟨masters_of (by decide +kernel) (by decide +kernel), by decide +kernel⟩, by decide +kernel⟩

/-! ### Kill line, detectors, ports -/

/-- A block in Provisioned whose tamper generation is as given. -/
def provisioned (g : BitVec 6) (cal : Word) : Hw :=
  { full with sec := { lcBits := 3, calFuse1 := cal }, keys := { full.keys with tgen := g, stepBusy := true } }

theorem witness_TheKillLineClears :
    ((provisioned 62 0).mc.por = false ∧ (provisioned 62 0).sec.power = .run ∧ (provisioned 62 0).keys.kill = false ∧
      (0x4000000000000000 : Word).getLsbD 62 = true ∧ (0 : Word).getLsbD 62 = false ∧ lcState (provisioned 62 0) = 2 ∧ detectorKills (provisioned 62 0) 4 = false ∧ (provisioned 62 0).keys.stepBusy = true ∧
      (provisioned 62 0).keys.tgen.toNat < 63 ∧ (provisioned 62 0).fenced 0xC8 = false) ∧
    (detectorKills (provisioned 0 (put 48 5 0x10)) 5 = true ∧ detectorKills (provisioned 0 (put 48 5 0x10)) 1 = false) ∧
    (lcState full = 0 ∧ full.keys.stepBusy = false) ∧
    ((powered .retention).mc.por = false ∧ (powered .retention).sec.power = .retention ∧ (powered .retention).keys.kill = false) := by
  decide +kernel

/-- A block whose link k is as given. -/
def linked (k : Nat) (l : Link) : Hw := { full with hns := { links := [(k, l)] } }

theorem witness_PortsReset :
    (full.inert = false ∧ full.cinch.owner = some .ctla ∧ full.cinch.owner ≠ some .ctlb) ∧
    (∃ k, ({ full with trapq := { claimB := some ⟨0, 0, 0, 0, 0, false, 0, some 8, true⟩ } } : Hw).claim .ctlb = some k) ∧
    ({ full with mm := { txns := [⟨31, 0, true, 0, 0, 0, [], 0, 0, 0, .orphan, false⟩] } } : Hw).mm.txns.any (fun t => t.port = 31) = true ∧
    ({ full with mc := { por := false } } : Hw).mc.mode = .cold ∧
    (((linked 7 { st := .up, phyUp := true }).link 7).st ≠ .failed ∧ ((linked 7 { st := .failed }).link 7).st = .failed) ∧
    (((linked 7 {}).link 7).st = .down ∧ ((linked 7 {}).link 7).inReset = false ∧ ((linked 7 {}).link 7).waits = false) := by
  refine ⟨by decide +kernel, ⟨_, rfl⟩, by decide +kernel⟩

/-! ### Links -/

/-- HELLO data of block `b`, its link `k`, with SEEN. -/
def hello (b k : Nat) (seen : Bool) : BitVec 256 :=
  BitVec.ofNat 256 (b + 16 * k + 65536 * fld kver 16 16 + (if seen then 2 ^ 32 else 0))
/-- The control word of a flit with its CRC. -/
def flit (d : BitVec 256) (low : Nat) : Word :=
  put 0 32 low ||| put 32 32 (crc32c 0 (leBytes 32 d.toNat ++ leBytes 4 low)).toNat
/-- A link that is UP. -/
def up : Link := { st := .up, phyUp := true }
/-- Three flits that are not yet acknowledged. -/
def sent3 : Link := { up with buffer := [(0xFFF, 2, [1]), (0, 2, [2])], streak := 14 }
/-- A mirror pair of blocks 0 and 1 in a state, PL7 UP with a link key. -/
def paired (m : MirrorState) (l : Link) : Hw :=
  { linked 7 { l with keyed := true } with
    hns := { links := [(7, { l with keyed := true })], mirror := m }, keys := { full.keys with idReady := true }
    active := tset 0 cfg0 ((0xB200 + 64) / 8) 3, shadow := tset 0 cfg0 ((0xB200 + 64) / 8) 3 }

/-- The IV of the first message under a link key. -/
abbrev iv0 : Bytes := beBytes 12 0

theorem gcmTag_length (c : Bytes) : (gcmTag (zeros 32) iv0 [] c).length = 16 := by
  have a : (aesEnc (roundKeys (zeros 32)) (beBytes 16 (gcmStart iv0))).length = 16 := by decide +kernel
  simp only [gcmTag, xorBytes, List.length_zipWith, a]
  simp [beBytes, leBytes]

/-- One byte sealed under it opens to itself. -/
theorem secured_byte (x : Byte) : gcmOut (zeros 32) iv0 (gcmOut (zeros 32) iv0 [x]) = [x] := by
  let j := gcmStart iv0
  have one : (ctrStream (roundKeys (zeros 32)) 32 (j / 2 ^ 32 * 2 ^ 32 + (j + 1) % 2 ^ 32) 1).length = 1 := by decide +kernel
  obtain ⟨k, hk⟩ := List.length_eq_one_iff.1 one
  have each : ∀ y, gcmOut (zeros 32) iv0 [y] = [y ^^^ k] := fun y => by
    simp only [gcmOut, List.length_singleton]
    rw [hk]
    rfl
  rw [each, each, BitVec.xor_assoc, BitVec.xor_self, BitVec.xor_zero]

/-- The other block of such a pair. -/
def blockTwo : Hw := { paired .mirrored up with hns := { (paired .mirrored up).hns with block := 2 } }

theorem witness_LinksCarry :
    ((linked 7 { st := .training, phyUp := true }).inert = false ∧
      helloValid (linked 7 { st := .training, phyUp := true }) 7 (hello 5 7 false) = true ∧
      (hello 5 7 false).getLsbD 32 = false ∧ (hello 5 7 true).getLsbD 32 = true ∧
      helloValid (linked 7 { st := .training, phyUp := true }) 7 (hello 5 6 false) = false) ∧
    (((linked 2 { waits := true, phyUp := true }).link 2).waits = true ∧ ((linked 2 up).link 2).waits = false) ∧
    (((linked 2 up).link 2).st = .up ∧ flitCrcOk 0 0 = false ∧ flitCrcOk 1 (flit 1 2) = true ∧
      fld (flit 1 0xF) 0 4 = 15 ∧ flitCrcOk 1 (flit 1 0xF) = true ∧ fld (flit 1 8) 0 4 = 8 ∧ flitCrcOk 1 (flit 1 8) = true ∧
      (flit 1 8).extractLsb' 4 12 = ((linked 2 up).link 2).rxSeq ∧ (flit 1 8).getLsbD 28 = false ∧
      (flit 1 0x18).extractLsb' 4 12 ≠ ((linked 2 up).link 2).rxSeq ∧ (linked 2 up).fenced (0xB0 + 2) = false ∧
      flitCrcOk 1 (flit 1 0x20000000) = true ∧ (flit 1 0x20000000).getLsbD 29 = true ∧ fld (flit 1 0x20000000) 0 4 = 0) ∧
    ((∀ m ∈ (linked 2 sent3).hns.outbox, m.1 ≠ 2) ∧ ((linked 2 sent3).link 2).buffer = (0xFFF, 2, [1]) :: (0, 2, [2]) :: [] ∧
      ((linked 2 sent3).link 2).streak < 15 ∧ 15 ≤ ((linked 2 { sent3 with streak := 15 }).link 2).streak) ∧
    ((linked 7 up).mc.mode = .full ∧ (linked 7 up).ward.lockstepOk = true ∧ ((linked 7 up).link 7).st = .up) ∧
    ((paired .mirrored up).inert = false ∧ (paired .mirrored up).hns.mirror = .mirrored ∧ full.hns.mirror ≠ .mirrored ∧
      ((paired .mirrored up).link 7).retry = false ∧ (paired .mirrored up).keys.idReady = true ∧
      ((paired .mirrored up).link 7).keyed = true ∧
      (paired .mirrored up).fenced (0xB0 + 7) = false) ∧
    (sharedFrom (paired .mirrored up) 7 = true ∧ (0x103FF : BitVec 17).toNat < 0x10400 ∧
      fld (put 34 2 2 ||| put 50 14 1) 50 14 = [(1 : Byte)].length ∧ ((paired .mirrored up).slot 0x103FF).updCounter < 1 ∧
      fld (put 34 2 2 ||| put 50 14 1) 34 2 = 2 ∧ (put 34 2 2 ||| put 50 14 1).getLsbD 30 = false ∧
      ((paired .mirrored up).slot 0x103FF).persist = false ∧
      sharedChecks (paired .mirrored up) (sharedMessage 0x103FF 1 (put 34 2 2 ||| put 50 14 1) 0) = none ∧
      (paired .mirrored up).keys.countersComplete = true ∧ (paired .mirrored up).keys.updates = [] ∧
      kpLive (paired .mirrored up) = true ∧ (paired .mirrored up).kp.out = []) := by
  decide +kernel

/-- For its key exchange: one that is due, of the lower-numbered block and of the other, with a message that is not signed. -/
theorem witness_LinksCarry_exchange :
    exchangeDue (paired .mirrored up) 7 = true ∧ exchangePeer (paired .mirrored up) 7 = some (1, zeros 48) ∧
      (paired .mirrored up).hns.block.toNat < 1 ∧ exchangeOk 1120 (zeros 48) [] = false ∧ exchangeOk 1216 (zeros 48) [] = false ∧
      blockTwo.hns.block.toNat = 2 ∧
      drbgServes (paired .mirrored up) = true ∧ exchangeDue full 7 = false := by
  decide +kernel

/-- For its SECURE messages: one that does not open under its tag, one that opens to nothing, and one that opens to KIND 8. -/
theorem witness_LinksCarry_secure :
    ¬gcmTag (zeros 32) iv0 [] [] = [] ∧
    (∀ c, ∃ tag : Bytes, gcmTag (zeros 32) iv0 [] c = tag) ∧
    (gcmOut (zeros 32) iv0 []).head? = none ∧ gcmOut (zeros 32) iv0 (gcmOut (zeros 32) iv0 [8]) = [8] :=
  ⟨fun h => absurd (congrArg List.length h) (by rw [gcmTag_length]; decide),
    fun _ => ⟨_, rfl⟩, rfl, secured_byte 8⟩

/-! ### Pairings -/

/-- The head of an approval of the mirror pair of blocks 0 and 1, COUNTER 9. -/
def approval : Bytes := wordsBytes [put 0 8 1 ||| put 8 8 0x20 ||| put 32 32 5581, put 0 3 0 ||| put 4 3 1 ||| put 8 1 1, 9]
/-- A block whose port CTLA receives an approval of which some bytes are there. -/
def approving (b : Bytes) : Hw := { full with hns := { apprA := { stage := .receiving, bytes := b } } }
/-- A block in a ceremony that both have passed. -/
def ceremony (local_ peer : Bool) : Hw :=
  { paired .none up with
    hns := { (paired .none up).hns with
      ceremony := some (1, approval, some .ctla), localPass := local_, peerPass := peer, apprA := { stage := .exchanging } } }

theorem witness_PairingsAreMade :
    (Masters full .ctla ∧ full.sec.power = .run ∧ (full.appr .ctla).stage = .idle ∧ full.hns.ceremony = none) ∧
    (Masters (approving []) .ctla ∧ ((approving []).appr .ctla).stage = .receiving ∧
      fld (wordAt ([] ++ leBytes 8 (put 32 32 5581).toNat) 0) 32 32 = 5581 ∧
      fld (wordAt ([] ++ leBytes 8 (put 32 32 5580).toNat) 0) 32 32 ≠ 5581) ∧
    (apChecks full [] = some (0x18, 1)) ∧
    ((linked 7 up).inert = false ∧ ((linked 7 up).link 7).st = .up ∧ ((linked 6 up).link 7).st ≠ .up) ∧
    ((ceremony true false).hns.ceremony = some (1, approval, some .ctla) ∧ apLink (ceremony true false) approval = 7 ∧
      (ceremony true false).hns.peerPass = false ∧ ((ceremony true false).link 7).st = .up) ∧
    ((linked 7 up).hns.ceremony = none ∧ (linked 7 up).hns.outbox = [] ∧ ((linked 7 up).link 7).buffer.length < 512) ∧
    ((ceremony true true).hns.localPass = true ∧ (ceremony true true).hns.peerPass = true ∧
      ((ceremony true true).link (apLink (ceremony true true) approval)).keyed = true ∧ (ceremony true true).seam.st = .ready ∧
      (ceremony true true).seam.dirty = false ∧ (ceremony true true).hns.localMade = false ∧
      domain0Busy (ceremony true true) = false ∧ apNoop (ceremony true true) approval = false) ∧
    (apUnpair (wordsBytes [0, put 9 1 1]) = true ∧ apNoop full (wordsBytes [0, put 9 1 1 ||| put 4 3 1]) = true) :=
  ⟨⟨masters_of (by decide +kernel) (by decide +kernel), by decide +kernel⟩,
    ⟨masters_of (by decide +kernel) (by decide +kernel), by decide +kernel⟩, by decide +kernel⟩

/-! ### Peers -/

/-- A forwarded request of ring 0 over link 3, one fragment left or none. -/
def fwd (f : List Fragment) (ended : Bool) : Forward :=
  { link := 3, id := 9, req := req0, ring := 0, inWalk := { frags := f, ended := ended } }
/-- Its block. -/
def forwarding (f : List Fragment) (ended : Bool) : Hw := { full with hns := { links := [(3, up)], forwards := [fwd f ended] } }
/-- A context of a request that link 3 brought. -/
def peer0 : Ctx := { ctx0 with req := some { req0 with fromPeer := some (3, 9) } }
/-- A leader with a counted slot. -/
def leading : Hw := { paired .mirrored up with keys := { full.keys with slots := [(7, { st := .full, alg := 1 })] } }

theorem witness_PeersShareWork :
    ((linked 3 up).inert = false ∧ (linked 3 up).Settled ∧ ((linked 3 up).link 3).st = .up ∧ (linked 3 up).mc.mode ≠ .seal ∧
      peerKnows (linked 3 up) 3 9 = false ∧ (full.link 3).st ≠ .up) ∧
    ((forwarding [⟨0x11FF, 1⟩] false).Settled ∧ (forwarding [⟨0x11FF, 1⟩] false).hns.forwards = [fwd [⟨0x11FF, 1⟩] false] ∧
      (fwd [⟨0x11FF, 1⟩] false).work = [] ∧ 1 ≤ 512 - (0x11FF : Word).toNat % 512 ∧
      (fwd [⟨0x11FF, 1⟩] false).req.epoch = (forwarding [⟨0x11FF, 1⟩] false).seam.epoch ∧
      (∃ p a, Reaches (forwarding [⟨0x11FF, 1⟩] false) 0 0x11FF false p a)) ∧
    ((forwarding [] true).Settled ∧ (forwarding [] true).hns.forwards = [fwd [] true] ∧ (forwarding [] true).hns.outbox = [] ∧
      ((forwarding [] true).link 3).buffer.length < 512) ∧
    (peerCtx (prog peer0) 3 9 = some 0 ∧ (prog peer0).Settled ∧ peer0.req.isSome = true ∧ peer0.committed = false ∧
      peer0.withdrawn = none ∧ peer0.noRecord = false ∧ peerCtx full 3 9 = none) ∧
    (leading.Settled ∧ leading.inert = false ∧ leading.hns.mirror = .mirrored ∧ mirrorRank leading = 0 ∧ leaseSlot leading 7 = true ∧
      kpLive leading = true ∧ leading.kp.out = [] ∧ (leading.link 7).st = .up ∧ leading.hns.outbox = [] ∧
      leaseSlot leading 8 = false) ∧
    ((paired .joining up).Settled ∧ (paired .joining up).hns.mirror = .joining ∧ ((paired .joining up).link 7).keyed = true ∧
      (paired .joining up).seam.st = .ready ∧ tableWf (0 : Word) (paired .joining up).active = true) :=
  ⟨⟨by decide +kernel, settled_of (by decide +kernel), by decide +kernel⟩,
    ⟨settled_of (by decide +kernel), by decide +kernel, by decide +kernel, by decide +kernel, by decide +kernel,
      reaches_of (by decide +kernel)⟩,
    ⟨settled_of (by decide +kernel), by decide +kernel⟩,
    ⟨by decide +kernel, settled_of (by decide +kernel), by decide +kernel⟩,
    ⟨settled_of (by decide +kernel), by decide +kernel⟩, settled_of (by decide +kernel), by decide +kernel⟩

/-! ### Registers and steps -/

theorem witness_RegistersTakeTheirBits :
    (Serves full .ctla ∧ (0xFC : BitVec 24).toNat % 8 ≠ 0 ∧ (0x0 : BitVec 24).toNat % 8 = 0 ∧ regWriteOf .ctla 0 0 = none ∧
      full.ward.errPulse = false ∧
      cinchCommand 0 = false ∧ cinchCommand 0x1030 = true ∧ (0x200 : Word).getLsbD 9 = true ∧ (0x200000 : Word).extractLsb' 16 6 ≠ 0) ∧
    Masters full .ctla ∧ (Serves full .ctlb ∧ full.cinch.owner ≠ some .ctlb) :=
  ⟨⟨serves_of (by decide +kernel), by decide, by decide, rfl, by decide +kernel⟩,
    masters_of (by decide +kernel) (by decide +kernel), serves_of (by decide +kernel), by decide +kernel⟩

theorem witness_ReadyRecordsStayListed : ∃ t, full.Settled ∧ step { hw := full, pending := [.contextQuiesced 0] } = .next t :=
  ⟨_, settled_of (by decide +kernel), rfl⟩

theorem witness_HeldIsLeftByResetAlone :
    ∃ t, (inMode .held).mc.mode = .held ∧ [Instr.wakeEvent].head? ≠ some .porAssert ∧
      [Instr.wakeEvent].head? ≠ some (.supplyRemoved true) ∧ step { hw := inMode .held, pending := [.wakeEvent] } = .next t :=
  ⟨_, by decide +kernel, by decide, by decide, rfl⟩

end Sys2Proof.Tests
end

