-- ==== Sys2Proof/Tests/Rings.lean ====
section
/-! SUPPORT. Witnesses for the statements about memory master ports, rings, traps, the cinch and the seam: a state and operands
that meet the hypotheses of each clause. -/

namespace Sys2Proof.Tests

open Sys2Proof Sys2Proof.Machine

set_option Elab.async false

/-! ### Memory master ports -/

/-- A block with one transaction outstanding. -/
def sent (h : Hw) (x : Txn) : Hw := { h with mm := { h.mm with txns := [x] } }
/-- A transaction at port 31. -/
def txn (write : Bool) (addr want : Nat) (o : TxnOwner) : Txn :=
  { port := 31, tag := 5, write := write, addr := addr, want := want, beats := 1, data := [], domain := 0, attr := 0
    issuedAt := 0, owner := o }
/-- A SIGNAL that waits for its acknowledgement. -/
def signalJob : Job := { op := .signal 8 9, phase := .closing }
/-- An XLOAD of one byte at the end of a beat, whose one piece is outstanding. -/
def loadJob : Job := { op := .xload 0x101F (put 32 32 1), phase := .running, pos := 1, pieces := [⟨1, 1, false⟩] }
/-- A load that has sent nothing yet. -/
def loading (addr : Word) : Job := { op := .xload addr (put 32 32 1), phase := .running, port := some 0 }
/-- A context with one buffer. -/
def buffered : Ctx := { ctx0 with handles := [(0, { st := .live, count := 1, bufs := [0] })] }

/-- The SIGNAL's block, and the load's. -/
def signalling : Hw := sent (work ctx0 signalJob) (txn true 8 8 (.signal 0))
/-- The load's. -/
def answering : Hw := sent (work buffered loadJob) (txn false 0x101F 1 (.piece 0 0 0))

theorem witness_MemoryPortsCarry :
    (signalling.pku = [] ∧ signalling.hns.forwards = [] ∧ signalling.ucode.verifying = false ∧ signalling.rings = [] ∧
      signalling.inert = false ∧ mmUsable signalling 31 = true) ∧
    (Works signalling 0 0 signalJob ∧ signalling.mm.txns = [txn true 8 8 (.signal 0)]) ∧
    (Works answering 0 0 loadJob ∧ answering.mm.txns = [txn false 0x101F 1 (.piece 0 0 0)] ∧ rgLen (put 32 32 1) = 1 ∧
      1 ≤ 32 - 0x101F % 32 ∧ rgScr (put 32 32 1) = false ∧ mmUsable answering 31 = true) ∧
    (full.mm.txns = [] ∧ mmUsable full 31 = true) ∧
    (sent full (txn true 0 0 .orphan)).mm.txns = [txn true 0 0 .orphan] ∧
    (Works (work buffered (loading 0xFFFFFFFFFFFFFFFF)) 0 0 (loading 0xFFFFFFFFFFFFFFFF) ∧
      (0xFFFFFFFFFFFFFFFF : Word).toNat + 0 < 2 ^ 64 ∧
      (winCheck ((work buffered (loading 0xFFFFFFFFFFFFFFFF)).cfgOf 0) 0 0xFFFFFFFFFFFFFFFF false).isSome = true ∧
      mmUsable (work buffered (loading 0)) 0 = true ∧ (mmTag (work buffered (loading 0)) 0 false).isSome = true ∧
      mmOut (work buffered (loading 0)) 0 false < 128 ∧ 1 ≤ 512 - 0xFFFFFFFFFFFFFFFF % 512) ∧
    (let h := { work buffered (loading 0) with active := [], shadow := [] }
     Works h 0 0 (loading 0) ∧ winCheck (h.cfgOf 0) 0 0 false = none) :=
  ⟨by decide +kernel, ⟨works_of (by decide +kernel), by decide +kernel⟩, ⟨works_of (by decide +kernel), by decide +kernel⟩,
    by decide +kernel, by decide +kernel, ⟨works_of (by decide +kernel), by decide +kernel⟩,
    works_of (by decide +kernel), by decide +kernel⟩

/-! ### Doorbells, fetch, admission, records -/

/-- A block whose ring 0 is as given. -/
def ringed (r : Ring) : Hw := { full with rings := [(0, r)] }
/-- A block whose port 0 holds a doorbell back. -/
def heldBack : Hw := { full with dbs := [(0, { held := [7] })] }
/-- A notification that waits at port 0. -/
def told : Hw := { full with dbs := [(0, { out := [(3, 4)] })] }

theorem witness_DoorbellsAndNotifications :
    (full.inert = false ∧ ringPort full.active 0 = 0 ∧ ringUsable full.active 0 = true ∧
      ((64 : BitVec 24) - (full.ring 0).head).toNat ≤ 2 ^ ringLog2 full.active 0 ∧
      ((0 : BitVec 24) - (full.ring 0).consumed).toNat ≤ ((full.ring 0).commit - (full.ring 0).consumed).toNat) ∧
    ((inMode .seal).inert = false ∧ (inMode .seal).mc.mode = .seal) ∧
    (clamped full = false ∧ (tget ({} : DbPort) full.dbs 0).held = [] ∧ (tget ({} : DbPort) full.dbs 0).inReset = false ∧
      (tget ({} : DbPort) heldBack.dbs 0).held ≠ []) ∧
    (fld (ringWord full.active 0 0x18) 16 16 ≠ 0 ∧ ((ringed { unnotified := 1 }).ring 0).unnotified ≠ 0) ∧
    ((full.ring 0).unnotified = 0) ∧
    (told.inert = false ∧ (tget ({} : DbPort) told.dbs 0).inReset = false ∧
      (tget ({} : DbPort) told.dbs 0).out = (3, 4) :: [] ∧ ∀ v ∈ told.rings, v.2.due = false) := by decide +kernel

/-- A fetched descriptor that waits for its check. -/
def fetched (d : Block) (st : FetchState) : Fetched := { k := 0, st := st, desc := d, t0 := 0, epoch := 0 }
/-- A ring with one descriptor fetched. -/
def fetching (d : Block) (st : FetchState) : Hw := ringed { head := 1, tail := 1, open_ := [0], fetched := [fetched d st] }

theorem witness_DescriptorsAreFetchedAndChecked :
    ((ringed { tail := 64 }).inert = false ∧ (ringed { tail := 64 }).Settled ∧ admits (ringed { tail := 64 }) = true ∧
      ringState (ringed { tail := 64 }) 0 = 1 ∧ ((0 : BitVec 24) - 0).toNat < 2 ^ ringLog2 full.active 0 ∧
      fetchedCount (ringed { tail := 64 }) 0 < 4) ∧
    (∃ p a, Reaches (ringed { tail := 64 }) 0 0x10000 false p a) ∧
    (let h := { ringed { tail := 64 } with active := tset 0 cfg0 0x20008 0 }
     ringState h 0 = 1 ∧ admits h = true ∧ winCheck h.active 0 0x10000 false = none) ∧
    ((full.ring 0).head = (full.ring 0).tail ∧ 2 ^ ringLog2 full.active 0 ≤ ((64 : BitVec 24) - 0).toNat) ∧
    ((fetching 0 .held).Settled ∧ ringState (fetching 0 .held) 0 = 1 ∧ fld (wordOf (0 : Block) 0) 61 3 = 0) ∧
    ((fetching (0x10400 <<< 12) .held).Settled ∧ 0x10400 ≤ fld (wordOf (0x10400 <<< 12 : Block) 0) 12 17) :=
  ⟨⟨by decide +kernel, settled_of (by decide +kernel), by decide +kernel⟩,
    reaches_of (by decide +kernel), by decide +kernel, by decide +kernel,
    ⟨settled_of (by decide +kernel), by decide +kernel⟩, settled_of (by decide +kernel), by decide +kernel⟩

/-- A block with microcode, so that every bench serves; domain 0 does not forward. -/
def serving : Hw :=
  { full with ucode := { active := true }, active := tset 0 cfg0 0x20000 0x1F, shadow := tset 0 cfg0 0x20000 0x1F }
/-- A block whose routers are all fenced. -/
def routersOut : Hw := { serving with flt := (List.range 8).map fun b => (routerUnit b, { fenced := true }) }

theorem witness_RequestsArePlaced :
    (placeRequest serving 0x1F = .at 0 ∧ serving.mc.mode ≠ .pilot ∧ serving.ctxs = [] ∧ serving.flt = [] ∧
      ∀ b < 8, benchServes serving 0x1F b = true) ∧
    (placeRequest routersOut 0x1F = .fenced ∧ ∀ b < 8, benchServes routersOut 0x1F b = false) ∧
    (placeRequest { serving with mc := { serving.mc with mode := .pilot } } 0x1F = .at 0 ∧
      placeRequest { routersOut with mc := { serving.mc with mode := .pilot } } 0x1F = .fenced) := by decide +kernel

/-- A block with one request that waits. -/
def asks (h : Hw) (d : Block) : Hw := { h with rings := (fetching d .waiting).rings }
/-- Every context taken. -/
def crowded : Hw := { serving with ctxs := (List.range 512).map fun c => (c, { st := .trapped }) }

theorem witness_AdmissionGrantsAContext :
    (∀ d : Block, d = 0 ∨ d = 0xFFF → (asks serving d).inert = false ∧ (asks serving d).Settled ∧
      admits (asks serving d) = true ∧ placeRequest (asks serving d) (libMask cfg0 (fld (wordOf d 0) 0 12)) = .at 0 ∧
      bit (wordOf d 0) 55 = false ∧ (asks serving d).hns.arrivals = [] ∧ domFlag serving.active 0 5 = false) ∧
    (domEntryOk cfg0 0 0 = true ∧ libValid cfg0 0 = true ∧ libValid cfg0 0xFFF = false) ∧
    ((asks routersOut 0).Settled ∧ placeRequest (asks routersOut 0) 0x1F = .fenced) ∧
    ((asks crowded 0).Settled ∧ placeRequest (asks crowded 0) 0x1F = .waits) :=
  ⟨fun d h => by
      rcases h with rfl | rfl <;>
        exact ⟨by decide +kernel, settled_of (by decide +kernel), by decide +kernel⟩,
    by decide +kernel, ⟨settled_of (by decide +kernel), by decide +kernel⟩, settled_of (by decide +kernel), by decide +kernel⟩

/-- A context that has posted, its record ready. -/
def done1 : Hw := { prog { ctx0 with posted := some 0x7E } with rm := { ready := [.context 0] } }
theorem done1_settled : done1.Settled := by
  intro c hc
  by_cases h : c = 0
  · subst h; decide
  · have e : done1.ctx c = {} := by simp [done1, prog, Hw.ctx, tget, Ne.symm h]
    rw [e] at hc
    cases hc

/-- A record of ring 0. -/
def record0 : CplRecord :=
  { status := 0, flags := 0, epoch := 0, tag := 0, bytes := 0, invocation := 0, duration := 0, attempts := 0, notifyNow := false }
/-- Ring 0 with its last record of a pass outstanding. -/
def writing (count : BitVec 24) : Hw :=
  sent (ringed { next := 64, commit := 63, consumed := 0, unnotified := count.toNat
                 writes := [{ k := 63, record := record0, issued := true, done := false }] }) (txn true 0x207E0 32 (.record 0 63))

theorem witness_RecordsAreWritten :
    (done1.inert = false ∧ done1.Settled ∧ done1.rm.ready = .context 0 :: [] ∧ (done1.ctx 0).req = some req0 ∧
      (done1.ctx 0).posted = some 0x7E ∧ (done1.ctx 0).committed = false ∧ (done1.ring 0).stopped = false ∧
      (∀ w ∈ (done1.ring 0).writes, w.issued = true ∨ w.done = true)) ∧
    (∃ p a, Reaches done1 0 0x20000 true p a) ∧
    ((writing 0).inert = false ∧ (writing 0).Settled ∧ (writing 0).mm.txns = [txn true 0x207E0 32 (.record 0 63)] ∧
      ((writing 0).ring 0).stopped = false ∧ ((writing 0).ring 0).fetched = []) ∧
    (max 1 (fld (ringWord full.active 0 0x18) 0 8) ≤ ((writing 1).ring 0).unnotified + 1 ∧
      (tget ({} : DbPort) (writing 1).dbs 0).out.length < 8) ∧
    ¬(max 1 (fld (ringWord full.active 0 0x18) 0 8) ≤ ((writing 0).ring 0).unnotified + 1) :=
  ⟨⟨by decide +kernel, done1_settled, by decide +kernel⟩,
    reaches_of (by decide +kernel),
    ⟨by decide +kernel, settled_of (by decide +kernel), by decide +kernel⟩, by decide +kernel, by decide +kernel⟩

/-! ### The end of requests, traps -/

/-- A context whose request has a deadline. -/
def timed : Ctx := { ctx0 with req := some { req0 with deadline := some 77 } }
/-- A descriptor that waits with a timeout of 1 us. -/
def brief : Fetched := { fetched (BitVec.ofNat 512 (2 ^ 29)) .waiting with deadline := some 77 }
/-- Its block. -/
def briefly : Hw := ringed { head := 1, tail := 1, open_ := [0], fetched := [brief] }
/-- A context whose record has committed. -/
def ended : Ctx := { buffered with st := .quiescing, posted := some 0, committed := true }
/-- A ring that is not enabled in the set. -/
def off (r : Ring) : Hw := { ringed r with active := CfgSet.reset, shadow := CfgSet.reset }

theorem witness_RequestsEnd :
    ((prog timed).inert = false ∧ timed.req = some { req0 with deadline := some 77 } ∧ timed.committed = false ∧
      timed.withdrawn = none ∧ timed.noRecord = false ∧ (prog timed).rm.ready = [] ∧ (prog timed).keys.updates = []) ∧
    (briefly.inert = false ∧ briefly.Settled ∧ (briefly.ring 0).fetched = [brief] ∧ brief.st = .waiting ∧
      brief.deadline = some 77) ∧
    ((prog ended).inert = false ∧ ended.req.isSome = true ∧ ended.committed = true ∧ ctxBusy (prog ended) 0 = false) ∧
    (Masters (off { tail := 9 }) .ctla ∧ ringEn (off { tail := 9 }).active 0 = false ∧ ((off { tail := 9 }).ring 0).open_ = []) ∧
    (Masters (ringed {}) .ctla ∧ ringEn (ringed {}).active 0 = true ∧ ((ringed {}).ring 0).stopped = false) ∧
    (Masters (ringed { stopped := true, lostCpl := 2 }) .ctla ∧ ((ringed { stopped := true, lostCpl := 2 }).ring 0).stopped = true) :=
  ⟨by decide +kernel, ⟨by decide +kernel, settled_of (by decide +kernel), by decide +kernel⟩, by decide +kernel,
    ⟨masters_of (by decide +kernel) (by decide +kernel), by decide +kernel⟩,
    ⟨masters_of (by decide +kernel) (by decide +kernel), by decide +kernel⟩,
    masters_of (by decide +kernel) (by decide +kernel), by decide +kernel⟩

/-- A trap of context 0. -/
def trap0 (cls : BitVec 4) : TrapRecord :=
  { ctx := 0, cls := cls, pc := 0, word := 0, repRemain := 2, repActive := true, deadline := 88 }
/-- A context trapped in a repeat. -/
def trapped : Ctx := { ctx0 with st := .trapped, retired := 5, rep := some { remain := 2 } }
/-- A block with traps queued and claimed. -/
def traps (q : List TrapRecord) (k : Option TrapRecord) : Hw := { prog trapped with trapq := { queue := q, claimA := k } }

theorem witness_TrapRecordsAreResolved :
    (Serves (traps [trap0 1, trap0 2] none) .ctla ∧ Serves (traps [trap0 1, trap0 2] none) .ctlb ∧
      (traps [trap0 1, trap0 2] none).claim .ctla = none ∧ (traps [trap0 1, trap0 2] none).trapq.claimB = none ∧
      (traps [trap0 1, trap0 2] none).trapq.queue = trap0 1 :: trap0 2 :: []) ∧
    (Serves (traps [] (some (trap0 3))) .ctla ∧
      (traps [] (some (trap0 3))).claim .ctla = some (trap0 3) ∧
      trapped.req.isSome = true ∧ trapped.committed = false ∧ trapped.withdrawn = none ∧ trapped.noRecord = false) ∧
    ((traps [trap0 1] none).inert = false ∧ (traps [trap0 1] none).trapq.queue = [trap0 1] ∧
      (traps [trap0 1] none).trapq.claimA = none) :=
  ⟨⟨serves_of (by decide +kernel), serves_of (by decide +kernel), by decide +kernel⟩,
    ⟨serves_of (by decide +kernel), by decide +kernel⟩, by decide +kernel⟩

/-! ### Cinch, seam, configuration -/

/-- A block whose cinch is free. -/
def open_ : Hw := { full with cinch := {} }
/-- A block with an edit in the shadow set. -/
def edited : Hw := { full with shadow := tset 0 cfg0 0x1202 0, seam := { dirty := true } }

theorem witness_TheCinchChangesHands :
    (Serves open_ .ctla ∧ Serves open_ .ctlb ∧ open_.cinch.owner = none) ∧
    (Masters edited .ctla ∧ edited.cinch.owner.isSome = true ∧ edited.inert = false) :=
  ⟨⟨serves_of (by decide +kernel), serves_of (by decide +kernel), by decide +kernel⟩,
    masters_of (by decide +kernel) (by decide +kernel), by decide +kernel⟩

theorem witness_WritesNeedTheCinch : Serves full .ctlb ∧ full.cinch.owner ≠ some .ctlb :=
  ⟨serves_of (by decide +kernel), by decide +kernel⟩

/-- A set that reserves every buffer, with one retired. -/
def reserved : Hw := { full with shadow := tset 0 cfg0 0x20001 0x0000200000002000, cs := { bufs := [(0, .retired)] } }
/-- A ring with a request in flight whose depth the shadow changes. -/
def moved : Hw := { ringed { inFlight := 1 } with shadow := tset 0 cfg0 0x40000 0x07000001 }

theorem witness_SeamsSwapTheSets :
    (Masters edited .ctla ∧ shadowMask 0x9010 ≠ 0 ∧ edited.seam.st = .ready ∧ edited.mc.mode ≠ .seal ∧
      xlibRuns edited = false ∧ edited.hns.mirror ≠ .mirrored ∧
      reserveSum edited.shadow ≤ 8192 - retiredCount edited ∧ geometryKept edited = true) ∧
    (Masters (inMode .seal) .ctla ∧ (inMode .seal).mc.mode = .seal) ∧
    (Masters { full with seam := { st := .draining } } .ctla ∧ oldInFlight { full with seam := { st := .draining } } = 0) ∧
    (geometryKept moved = false ∧ moved.seam.st = .ready) ∧
    8192 - retiredCount reserved < reserveSum reserved.shadow :=
  ⟨⟨masters_of (by decide +kernel) (by decide +kernel), by decide +kernel⟩,
    ⟨masters_of (by decide +kernel) (by decide +kernel), by decide +kernel⟩,
    ⟨masters_of (by decide +kernel) (by decide +kernel), by decide +kernel⟩, by decide +kernel, by decide +kernel⟩

/-- The pointer of bank 1 after one of SEQ 2^32 - 1. -/
def pointer1 : KpWrite :=
  { tag := 0, cls := 3, addr := 0x80, data := pointerBlock (seqNext 0xFFFFFFFF) 0 (imageBytes cfg0 0), why := .pointer, issuedAt := 0 }
/-- A block that writes its set to bank 1: the image, or its pointer. -/
def storing (pointer : Bool) : Hw :=
  { full with kp := { full.kp with
      imageTo := some true, imagePtr := pointer, imageSet := cfg0, bytes := listed 0x40 [255, 255, 255, 255]
      out := if pointer then [pointer1] else [] } }

theorem storing_seq (pointer : Bool) : pointerSeq (storing pointer) false = 0xFFFFFFFF := by
  cases pointer <;> decide +kernel

theorem witness_ConfigurationBecomesDurable :
    (∀ pointer, (storing pointer).inert = false ∧ kpLive (storing pointer) = true ∧
      (storing pointer).kp.imageTo = some true ∧ (storing pointer).kp.imagePtr = pointer ∧
      (storing pointer).mc.mode ≠ .seal ∧ (storing pointer).kp.imageNext = false ∧
      (storing pointer).ward.warmPending = false) ∧
    ((storing false).kp.out = [] ∧ (storing false).kp.waiting = [] ∧ (storing false).kp.formatting = false) ∧
    ((storing true).kp.out.find? (fun w => w.why = .pointer) = some pointer1 ∧ pointer1.addr = ptrAddr true ∧
      pointer1.data = pointerBlock (seqNext (pointerSeq (storing true) (!true))) (storing true).kp.imageEpoch
        (imageBytes (storing true).kp.imageSet (storing true).kp.imageEpoch)) :=
  ⟨by decide +kernel, ⟨rfl, rfl, rfl⟩, rfl, rfl, by
    show pointer1.data = pointerBlock (seqNext (pointerSeq (storing true) false)) 0 (imageBytes cfg0 0)
    rw [storing_seq]
    rfl⟩

end Sys2Proof.Tests
end

