-- ==== Sys2Proof/Tests/Service.lean ====
section
/-! SUPPORT. Witnesses for the statements about modes, bring-up, the keeper, the patrol and key updates: a state and operands
that meet the hypotheses of each clause. -/

namespace Sys2Proof.Tests

open Sys2Proof Sys2Proof.Machine

set_option Elab.async false

/-! ### Modes and bring-up -/

/-- A block whose mode controller differs. -/
def withMc (m : ModeCtl) : Hw := { full with mc := m }
/-- A served mode. -/
def served (m : Mode) : ModeCtl := { mode := m, por := false, bring := { phase := .done } }

theorem witness_ModesChange :
    (∀ m, m = .full ∨ m = .degraded ∨ m = .pilot ∨ m = .maint ∨ m = .ftest ∨ m = .seal → Masters (inMode m) .ctla ∧
      (inMode m).mc.draining = false ∧ (inMode m).ucode.verifying = false ∧ lcState (inMode m) ≤ 1) ∧
    1 < lcState { full with sec := { lcBits := 3 } } ∧
    ((withMc { served .full with draining := true }).inert = false ∧
      (∀ e ∈ (withMc { served .full with draining := true }).ctxs, e.2.st = .free)) ∧
    ((inMode .seal).mc.sealed = false ∧ (inMode .seal).mc.sealLate = false ∧ (inMode .seal).Settled ∧
      (∀ w ∈ (inMode .seal).kp.waiting ++ (inMode .seal).kp.out, sealWaits w = false) ∧
      (∀ u ∈ (inMode .seal).keys.updates, u.stage ≠ .writing ∧ u.stage ≠ .durable)) ∧
    (inMode .held).mc.mode = .held ∧
    ((withMc { served .full with por := true }).mc.por = true ∧
      ({ full with sec := { power := .retention } } : Hw).sec.power = .retention) :=
  ⟨fun m h => by
      rcases h with rfl | rfl | rfl | rfl | rfl | rfl <;>
        exact ⟨masters_of (by decide +kernel) (by decide +kernel), by decide +kernel⟩,
    by decide +kernel, by decide +kernel, ⟨by decide +kernel, by decide +kernel, settled_of (by decide +kernel),
      by decide +kernel⟩, by decide +kernel, by decide +kernel⟩

/-- A block in Cold whose bring-up stands at a phase. -/
def cold (b : Bringup) : Hw := { full with mc := { por := false, bring := b } }
/-- A pointer to an image of 64 zero bytes, with its digest or with zeros. -/
def pointerTo (seq : Nat) (good : Bool) : Bytes :=
  leBytes 4 seq ++ zeros 4 ++ (if good then sha384 (zeros 64) else zeros 48) ++ zeros 8
/-- Two banks with such pointers: the current one whole or not, the other older. -/
def banked (good : Bool) : Hw :=
  { cold { phase := .imageHash } with
    kp := { full.kp with bytes := listed 0x40 (pointerTo 2 good ++ pointerTo 1 true) } }

theorem witness_BringUpReachesService :
    (State.reset.hw.mc.por = true ∧ State.reset.hw.sec.power = .run ∧ State.reset.hw.keys.kill = false) ∧
    ((cold { phase := .fuses }).inert = false ∧ (cold { phase := .fuses }).mc.bring.phase = .fuses) ∧
    (bringReads (cold { phase := .counters, unit := 4094 }) = true ∧
      (cold { phase := .counters, unit := 4094 }).fenced 0x82 = false ∧
      (cold { phase := .counters, unit := 4094 }).kp.inReset = false ∧ (cold { phase := .counters, unit := 4094 }).kp.reads = []) ∧
    (∀ good, (banked good).inert = false ∧ (banked good).mc.bring.phase = .imageHash ∧
      bankWhole (banked good) (banked good).kp.bank = good ∧ pointerSeq (banked good) (!(banked good).kp.bank) ≠ 0 ∧
      bankWhole (banked good) (!(banked good).kp.bank) = true) ∧
    ((cold { phase := .imageHash }).mc.bring.phase = .imageHash ∧ pointerSeq (cold { phase := .imageHash }) true = 0) ∧
    (({ State.reset.hw with mc := { State.reset.hw.mc with pfw := true } } : Hw).mc.pfw = true ∧ State.reset.hw.mc.pfw = false) ∧
    ((cold {}).mc.bring.tackWrites = [] ∧ (cold { fusesDone := true, entropyDone := true, pilotSetDone := true }).inert = false ∧
      (cold {}).mc.mode = .cold ∧ (cold {}).mc.bring.fusesDone = false) ∧
    ((inMode .pilot).inert = false ∧ { (inMode .pilot).mc.bring with fullSetDone := true }.fullSetDone = true) := by
  decide +kernel

/-! ### Restore -/

/-- The clear part of a record of slot 5 (R294): header, attributes of an AES-GCM key of 16 B without a counter. -/
def clearPart (hdr : Word) : Bytes := wordsBytes [hdr, 0, 0, put 50 14 16 ||| put 34 2 2 ||| putb 30 true ||| put 8 8 0x20, 0, 0]
/-- Root D, TGEN 0, slot 5, KLEN 16. -/
def hdr5 : Word := put 0 17 5 ||| put 23 2 2 ||| put 27 14 16
/-- A record body of zeros under a tag. -/
def recordBy (hdr : Word) (tag : Bytes) : Bytes := clearPart hdr ++ zeros 64 ++ tag
/-- A block in Pilot that restores slots 5 and 6. -/
def restoring (rec : Bytes) : Hw :=
  { full with
    mc := { mode := .pilot, por := false, bring := { phase := .bodies, queue := [5, 6], unit := 2 } }
    keys := { full.keys with root := .d, rootKey := zeros 32 }
    kp := { full.kp with bytes := listed (mainAddr 5 0) rec } }
/-- The tag under which that record opens, whatever the cipher. -/
def goodTag : Bytes :=
  cipherTag (recordIn (sealRecKey (restoring []) 5 0 (zeros 8)) (clearPart hdr5) (zeros 64) true)

theorem goodTag_length : goodTag.length = 16 := by decide +kernel

theorem restoring_addr (rec : Bytes) : recordAddr (restoring rec) 5 = mainAddr 5 0 := by
  have dir : ∀ a, a + 8 ≤ mainAddr 5 0 → dirWord (restoring rec) a = 0 := by
    intro a h
    have zero : mread (restoring rec).kp.bytes a 8 = zeros 8 :=
      mread_below _ 8 a fun i hi => mget_listed_below rec _ _ (by omega)
    rw [dirWord, zero]
    rfl
  have none : tackOf (restoring rec) 5 = none := by
    rw [tackOf, List.find?_eq_none]
    intro t ht
    have le : t < 512 := by simpa [slotWide] using ht
    rw [dir _ (by rw [show mainAddr 5 0 = 0x300500 from rfl, tackDirAddr]; omega)]
    decide
  rw [recordAddr, none, dir _ (by decide)]
  rfl

theorem record_length : (recordBy hdr5 goodTag).length = 64 + slotSize 5 := by
  simp [recordBy, clearPart, wordsBytes, leBytes, zeros, goodTag_length, slotSize, slotWide]

theorem restoring_reads : mread (restoring (recordBy hdr5 goodTag)).kp.bytes
    (recordAddr (restoring (recordBy hdr5 goodTag)) 5) (64 + slotSize 5) = recordBy hdr5 goodTag := by
  rw [restoring_addr, ← record_length]
  exact mread_listed (recordBy hdr5 goodTag) _

theorem restoring_settled (rec : Bytes) : (restoring rec).Settled := by
  intro c h
  cases h

theorem restoring_opens : ∃ key, recordOpen (restoring (recordBy hdr5 goodTag)) 5 (recordBy hdr5 goodTag) = some key := by
  have parts : ∀ tag, (recordBy hdr5 tag).drop (48 + slotSize 5) = tag ∧ (recordBy hdr5 tag).take 48 = clearPart hdr5 ∧
      ((recordBy hdr5 tag).drop 48).take (slotSize 5) = zeros 64 ∧ wordAt (recordBy hdr5 tag) 2 = 0 ∧
      ((recordBy hdr5 tag).drop 8).take 8 = zeros 8 := fun _ => ⟨rfl, rfl, rfl, rfl, rfl⟩
  obtain ⟨a, b, c, d, e⟩ := parts goodTag
  have same : ∀ rec : Bytes, sealRecKey (restoring rec) 5 = sealRecKey (restoring []) 5 := fun _ => rfl
  simp only [recordOpen, a, b, c, d, e, same]
  exact ⟨_, if_pos rfl⟩

theorem witness_RecordsAreRestored :
    (∀ rec : Bytes, (restoring rec).inert = false ∧ (restoring rec).Settled ∧ (restoring rec).mc.bring.phase = .bodies ∧
      (restoring rec).mc.bring.queue = 5 :: [6] ∧ recordUnits 5 ≤ (restoring rec).mc.bring.unit ∧
      restores (restoring rec) = true ∧ (restoring rec).mc.mode = .pilot) ∧
    fld (wordAt (recordBy (hdr5 ||| put 17 6 1) []) 0) 17 6 ≠ (restoring []).keys.tgen.toNat ∧
    (fld (wordAt (recordBy (hdr5 ||| putb 25 true) []) 0) 23 2 = (restoring []).keys.root.num ∧
      bit (wordAt (recordBy (hdr5 ||| putb 25 true) []) 0) 25 = true) ∧
    (mread (restoring (recordBy hdr5 goodTag)).kp.bytes (recordAddr (restoring (recordBy hdr5 goodTag)) 5)
      (64 + slotSize 5) = recordBy hdr5 goodTag ∧ recordFormed 5 (recordBy hdr5 goodTag) = true ∧
      fld (wordAt (recordBy hdr5 goodTag) 0) 17 6 = (restoring []).keys.tgen.toNat ∧
      fld (wordAt (recordBy hdr5 goodTag) 0) 23 2 = (restoring []).keys.root.num ∧
      bit (wordAt (recordBy hdr5 goodTag) 0) 25 = false ∧ bit (wordAt (recordBy hdr5 goodTag) 0) 26 = false ∧
      slotCounted (slotOfWords (wordAt (recordBy hdr5 goodTag) 3) (wordAt (recordBy hdr5 goodTag) 4)) = false ∧
      ∃ key, recordOpen (restoring (recordBy hdr5 goodTag)) 5 (recordBy hdr5 goodTag) = some key) ∧
    recordFormed 5 (recordBy (hdr5 ||| put 41 1 1) []) = false :=
  ⟨fun rec => ⟨rfl, restoring_settled rec, rfl, rfl, Nat.le_refl 2, rfl, rfl⟩, by decide +kernel, by decide +kernel,
    ⟨restoring_reads, rfl, rfl, rfl, rfl, rfl, rfl, restoring_opens⟩, by decide +kernel⟩

/-! ### Keeper, entropy, patrol -/

/-- A keeper write outstanding. -/
def kwrite (addr : Nat) (why : KpWhy) : KpWrite := { tag := 3, cls := 1, addr := addr, data := [1], why := why, issuedAt := 9 }
/-- A block that waits for it. -/
def keeping (w : List KpWrite) : Hw := { full with kp := { full.kp with out := w } }
/-- A FULL slot 7 whose lease is requested. -/
def leasing : Hw := { keeping [kwrite 0x200040 (.lease [7])] with
  keys := { full.keys with slots := [(7, { st := .full, alg := 1, req := true, reqEnd := 65536 })] } }
/-- A draw that waits for a lease. -/
def drawJob : Job := { op := .ndraw 7 2, phase := .charging }
/-- Its block. -/
def charging : Hw := { work ctx0 drawJob with keys := { full.keys with charges := [⟨7, 0, 1, 4⟩] } }
/-- A block whose keeper is not formatted, of 48 MiB. -/
def raw (formatting : Bool) : Hw := { full with kp := { formatting := formatting, cfg := 0x0000003000002710 } }
/-- Start-up tests that run, and a source that is healthy. -/
def testing : Hw := { full with sec := { entStartup := true } }
/-- Healthy. -/
def healthy : Hw := { full with sec := { entHealthy := true, entSources := 7 } }

theorem witness_TheKeeperAnswers :
    (∀ why, why = .time ∨ why = .counter → (keeping [kwrite 0 why]).inert = false ∧ (keeping [kwrite 0 why]).fenced 0x82 = false ∧
      (keeping [kwrite 0 why]).kp.inReset = false ∧ (keeping [kwrite 0 why]).kp.waiting = []) ∧
    (full.kp.out = [] ∧ full.kp.formatting = false ∧ full.kp.imageTo = none) ∧
    (fld (raw false).kp.cfg 32 16 = 48 ∧ fld full.kp.cfg 32 16 = 64 ∧ (raw false).kp.out = [] ∧ (raw false).kp.waiting = [] ∧
      (raw true).kp.unit ≤ formatUnits ∧ (raw true).mc.mode ≠ .seal ∧ (raw true).ward.warmPending = false) ∧
    fld ({ raw false with kp := { cfg := 0x0000002F00002710 } } : Hw).kp.cfg 32 16 < 48 ∧
    ((keeping [kwrite 0 .time]).kp.reads = [] ∧ bringReads (keeping [kwrite 0 .time]) = false) ∧
    (leasing.inert = false ∧ leasing.kp.out = [kwrite (0x200000 + 64 * (7 / 4)) (.lease [7])] ∧ (leasing.slot 7).st = .full ∧
      (leasing.slot 7).req = true ∧ leasing.Settled ∧ leasing.hns.mirror = .none ∧ leasing.keys.charges = []) ∧
    (Works charging 0 0 drawJob ∧ charging.keys.charges = [⟨7, jobKey 0 0, 1, 4⟩]) ∧
    (Masters (raw false) .ctla ∧ (raw false).kp.formatted = false ∧ (raw false).mc.bring.phase = .done ∧
      (raw false).mc.noKeeper = false ∧ (raw false).mc.mode ≠ .seal) ∧
    ((raw true).inert = false ∧ (raw true).kp.formatting = true) ∧
    (testing.inert = false ∧ testing.sec.entStartup = true) ∧
    (healthy.inert = false ∧ healthy.fenced 0x84 = false ∧ healthy.sec.entHealthy = true ∧ healthy.sec.entStartup = false) :=
  ⟨fun why h => by rcases h with rfl | rfl <;> decide +kernel, by decide +kernel, by decide +kernel, by decide +kernel,
    by decide +kernel,
    ⟨by decide +kernel, by decide +kernel, by decide +kernel, by decide +kernel, settled_of (by decide +kernel),
      by decide +kernel⟩, ⟨works_of (by decide +kernel), by decide +kernel⟩,
    ⟨masters_of (by decide +kernel) (by decide +kernel), by decide +kernel⟩, by decide +kernel, by decide +kernel,
    by decide +kernel⟩

/-- A patrol in the last bank of the last row, and one whose next correction of position 35 is the 16th. -/
def patrolling (marks : List (BitVec 6)) : Hw :=
  { full with cs := { patrolRow := 8191, patrolBanks := List.range 127, corrections := [(36 * 127 + 35, 15)], marks := [(127, marks)] } }

theorem witness_ThePatrolReadsEveryRow :
    ((patrolling []).inert = false ∧ (patrolling []).Settled ∧ (35 : BitVec 6).toNat < 36 ∧
      tget BufState.free (patrolling []).cs.bufs 8191 = .free ∧
      tget 0 (patrolling []).cs.corrections (36 * 127 + 35) + 1 = 16) ∧
    (35 : BitVec 6) ∉ tget [] (patrolling [1]).cs.marks 127 ∧
    ((127 : BitVec 7).toNat ∉ (patrolling []).cs.patrolBanks ∧ (0 : BitVec 7).toNat ∈ (patrolling []).cs.patrolBanks ∧
      (patrolling []).cs.patrolBanks.length = 127 ∧ (patrolling []).sec.power = .run ∧
      ((patrolling []).blk 0x80).flip = false) ∧
    ((35 : BitVec 6) ∈ tget [] (patrolling [35]).cs.marks 127 ∧ (35 : BitVec 6) ≠ 34 ∧ (34 : BitVec 6).toNat < 36) ∧
    (tget 0 full.cs.corrections (36 * 127 + 35) + 1 < 16 ∧ full.cs.patrolBanks.length ≠ 127) :=
  ⟨⟨by decide +kernel, settled_of (by decide +kernel), by decide +kernel⟩, by decide +kernel⟩

end Sys2Proof.Tests
end

