-- ==== Sys2Proof/Tests/Slice0.lean ====
section
/-! SUPPORT. The model's own tests: a refused term for each check of well-formedness; small steps whose results the spec works
out; and, for every statement with hypotheses, a state and operands that meet them, clause by clause. -/

namespace Sys2Proof.Tests

open Sys2Proof Sys2Proof.Machine

set_option Elab.async false

/-! ### Well-formedness: each check refuses -/

theorem test_wf_doorbell_port : Instr.wf (.submissionDoorbell 96 0) = false ∧ Instr.wf (.submissionDoorbell 95 0) = true := by
  decide
theorem test_wf_consume_port : Instr.wf (.consumeDoorbell 96 0) = false := by decide
theorem test_wf_notification_port : Instr.wf (.notificationSend 96) = false := by decide
theorem test_wf_fuse_words : Instr.wf (.fuseReadDone (List.replicate 21 0) true) = false ∧
    Instr.wf (.fuseReadDone (List.replicate 22 0) true) = true := by decide
theorem test_wf_restore_slot : Instr.wf (.restoreRecord 0x10400) = false := by decide
theorem test_wf_charge_slot : Instr.wf (.chargeWaitExpiry 0x10400) = false ∧ Instr.wf (.chargeWaitExpiry 0x103FF) = true := by
  decide
theorem test_wf_patrol_position : Instr.wf (.patrolRead 0 [36] 0) = false ∧ Instr.wf (.patrolRead 0 [35] 0) = true := by
  decide
theorem test_wf_detector : Instr.wf (.detectorTrip 6 0) = false := by decide
theorem test_wf_port_reset : Instr.wf (.portReset (.doorbell 96)) = false := by decide
theorem test_wf_shared_slot : Instr.wf (.sharedSlotCopy 0 0x10400 0 0 0 []) = false := by decide
theorem test_wf_lease_request : Instr.wf (.mirrorLeaseRequest 0x10000) = false := by decide
theorem test_wf_lease_grant : Instr.wf (.mirrorLeaseGrant 0x10000 0 true) = false := by decide

/-! ### Worked examples of the spec -/

/-- The worked encodings of chapter 5: `add w3, w4, w5`, `ld w4, [w5]+` and `st w7, [w5]~`. -/
theorem test_worked_encodings : encR 0x01 3 4 5 0 0 = 0x04642800 ∧ encM 0x0C 4 5 2 3 false 0 = 0x30855800 ∧
    encM 0x0D 7 5 4 3 false 0 = 0x34E59800 := by decide +kernel

/-- The same words, read bit by bit from the encodings of R101 and R105: each is the instruction that the chapter writes. The
all-zero word is none (R100), and a word with a reserved field set traps (R99). -/
theorem test_worked_words : awlDecode 0 0x04642800 [] = some (.add 0 3 4 5) ∧
    awlDecode 0 0x30855800 [] = some (.ld 0 4 5 2 3 false 0 []) ∧ awlDecode 0 0x34E59800 [] = some (.st 0 7 5 4 3 false 0) ∧
    awlDecode 0 0 [] = none ∧ awlDecode 0 0x04642840 [] = none := by decide +kernel

/-- The staging example of R79: MBASE 0x0400, BRW 3, `st w7, [w5]~` with w5 = 0 to 8. -/
theorem test_bit_reversed_staging : ((List.range 9).map fun i =>
      match effective { ctx0 with mbase := 0x400, brw := 3, regs := [(5, BitVec.ofNat 64 i)] } 5 4 0 8 with
      | .ok e => e.ea | .error _ => 0) =
    [0x400, 0x420, 0x410, 0x430, 0x408, 0x428, 0x418, 0x438, 0x400] := by decide +kernel

/-- The check value of R175: CRC-32C of "123456789". -/
theorem test_crc32c : crc32c 0 [0x31, 0x32, 0x33, 0x34, 0x35, 0x36, 0x37, 0x38, 0x39] = 0xE3069283 := by decide +kernel

/-- The example of R198: RSA-6144 takes 58,582,143 pk_clk. -/
theorem test_rsa_6144 : pkCount 4 96 0 0 = 58582143 := by decide +kernel

/-- The examples of R208: P-384 signing costs 7 and RSA-8192 private 2,106. -/
theorem test_pk_costs : pkCost 0x121 6 0 = 7 ∧ pkCost 4 128 0 = 2106 := by decide +kernel

/-- The example of R147: block 2, stream pair 5, invocation 0x1_2C00. -/
theorem test_aead_iv : aeadIv (nonceField { full with hns := { block := 2 } } 5 0x10) 0x12C00 =
    [0, 0, 2, 0x15, 0, 0, 0, 0, 0, 1, 0x2C, 0] := by decide +kernel

/-- The example of R8: unit 0x5B is awl 22. -/
theorem test_unit_of_awl : awlUnit 22 = 0x5B := by decide

/-- The example of R405: block 2 reaches block 5 on PL2, and block 5 reaches block 2 on PL4. -/
theorem test_mesh_links : meshLink { full with hns := { block := 2 } } 5 = 2 ∧
    meshLink { full with hns := { block := 5 } } 2 = 4 := by decide +kernel

/-- The example of R85: in a repeat of `movs lc, w6` LC keeps 7; in one of a load it counts down. -/
theorem test_repeat_lc :
    after (.movs 0 0 6) (st (prog { ctx0 with lc := 100, regs := [(6, 7)], rep := some { remain := 1 } }))
      (fun h => (h.ctx 0).lc = 7 && (h.ctx 0).rep = none) = true ∧
    after (.ld 0 4 5 2 3 false 0 []) (st (prog { ctx0 with lc := 100, rep := some { remain := 3 } }))
      (fun h => (h.ctx 0).lc = 2 && (h.ctx 0).rget 5 = 8) = true := by decide +kernel

/-- R102, R78: ADD carries and overflows; a subtraction of a larger number borrows. -/
theorem test_add_sub_flags :
    after (.add 0 3 1 2) (st (prog { ctx0 with regs := [(1, BitVec.intMin 64), (2, BitVec.intMin 64)] }))
      (fun h => (h.ctx 0).flags = { z := true, c := true, v := true }) = true ∧
    after (.sub 0 3 1 2) (st (prog { ctx0 with regs := [(2, 1)] }))
      (fun h => (h.ctx 0).flags = { n := true, c := true } && (h.ctx 0).rget 3 = -1) = true := by decide +kernel

/-- R102: w0 discards its result and reads zero; the flags are written all the same. -/
theorem test_w0_discards :
    after (.addi 0 0 1 5) (st (prog { ctx0 with regs := [(1, -5)] }))
      (fun h => (h.ctx 0).rget 0 = 0 && (h.ctx 0).flags.z = true && (h.ctx 0).pc = 4) = true := by decide +kernel

/-- R87: the most negative dividend by -1 gives itself, remainder 0, V set. -/
theorem test_div_overflow :
    after (.div 0 3 4 1 2) (st (prog { ctx0 with regs := [(1, BitVec.intMin 64), (2, -1)] }))
      (fun h => (h.ctx 0).rget 3 = BitVec.intMin 64 && (h.ctx 0).rget 4 = 0 && (h.ctx 0).flags.v = true) = true := by decide +kernel

/-- R45: a submission count up to HEAD + 2^SIZE_LOG2 is taken, one more is dropped. -/
theorem test_doorbell_bound :
    after (.submissionDoorbell 0 0x40000000) (st full) (fun h => (h.ring 0).tail = 64) = true ∧
    after (.submissionDoorbell 0 0x41000000) (st full)
      (fun h => (h.ring 0).tail = 0 && (h.ring 0).dropBad = 1) = true := by decide +kernel

/-! ### Witnesses: programs -/

/-- A general register with a value. -/
def reg1 (v : Word) : Ctx := { ctx0 with regs := [(1, v)] }

theorem witness_issues : Issues (prog ctx0) 0 := issues_of (by decide +kernel)

theorem witness_SumsAndDifferences : Issues (prog (reg1 1)) 0 := issues_of (by decide +kernel)

theorem witness_LogicResults : Issues (prog (reg1 5)) 0 := issues_of (by decide +kernel)

/-- R55: of records that become ready in one core clock, those never granted a context commit first, then the lowest context. -/
theorem test_ready_ties : ∀ r, (readyPut (readyPut (readyPut {} (.context 5)) (.context 3)) (.never 0 0 r none none)).rm.ready =
    [.never 0 0 r none none, .context 3, .context 5] := by
  intro r
  simp [readyPut, readyBehind, readyBefore]


theorem witness_ShiftResults : Issues (prog (reg1 64)) 0 := issues_of (by decide +kernel)

theorem witness_ProductsAndDivisions :
    (Issues (prog (reg1 7)) 0 ∧ ((prog (reg1 7)).ctx 0).rget 1 ≠ 0) ∧
    (Issues (prog ctx0) 0 ∧ ((prog ctx0).ctx 0).rget 1 = 0 ∧ ((prog ctx0).ctx 0).dztrap = false) ∧
    (Issues (prog { ctx0 with dztrap := true }) 0 ∧ ((prog { ctx0 with dztrap := true }).ctx 0).rget 1 = 0 ∧
      ((prog { ctx0 with dztrap := true }).ctx 0).dztrap = true) :=
  ⟨⟨issues_of (by decide +kernel), by decide +kernel⟩, ⟨issues_of (by decide +kernel), by decide +kernel⟩,
    issues_of (by decide +kernel), by decide +kernel⟩

theorem witness_ImmediateMoves : Issues (prog ctx0) 0 := issues_of (by decide +kernel)

theorem witness_SpecialRegisters : Issues (prog ctx0) 0 ∧ ctx0.rep = none ∧ ctx0.req = some req0 ∧ ctx0.committed = false ∧
    5 ≤ (7 : BitVec 5).toNat ∧ (7 : BitVec 5).toNat ≤ 7 ∧ 9 ≤ (31 : BitVec 5).toNat :=
  ⟨issues_of (by decide +kernel), by decide +kernel⟩

/-- A context with a modulo region of 16 B and bit reversal of 4 bits. -/
def modulo : Ctx := { ctx0 with mlen := 16, brw := 4, regs := [(1, 12)] }

theorem witness_AddressingModes :
    ctx0.mlen = 0 ∧ (modulo.mlen ≠ 0 ∧ modulo.mlen.toNat < (modulo.rget 1 - modulo.mbase).toNat % modulo.mlen.toNat + 8) ∧
    (modulo.rget 1 - modulo.mbase).toNat % modulo.mlen.toNat + 4 ≤ modulo.mlen.toNat ∧ ctx0.brw = 0 ∧
    16 < ({ ctx0 with brw := 17 } : Ctx).brw.toNat ∧ modulo.brw ≠ 0 ∧ modulo.brw.toNat ≤ 16 := by decide +kernel

theorem witness_LoadResults :
    Issues (prog (reg1 0xFF8)) 0 ∧ (prog (reg1 0xFF8)).Settled ∧ modeReserved 0 0 = false ∧
    (∃ e, effective ((prog (reg1 0xFF8)).ctx 0) 1 0 0 8 = .ok e ∧ e.ea.toNat % 8 = 0 ∧ e.ea.toNat + 8 ≤ 0x1000) ∧
    Issues (prog (reg1 0x1020)) 0 ∧ (4 : BitVec 5).toNat % 4 = 0 ∧
    (∃ e r, effective ((prog (reg1 0x1020)).ctx 0) 1 0 0 32 = .ok e ∧ e.ea.toNat % 32 = 0 ∧
      ((prog (reg1 0x1020)).ctx 0).req = some r ∧ 0x1000 ≤ e.ea.toNat ∧ e.ea.toNat + 32 ≤ 0x1040) :=
  ⟨issues_of (by decide +kernel), settled_of (by decide +kernel), by decide,
    ⟨⟨0xFF8, none⟩, rfl, by decide⟩, issues_of (by decide +kernel), by decide, ⟨⟨0x1020, none⟩, req0, rfl, by decide, rfl, by decide⟩⟩

theorem witness_ScratchStores :
    Issues (prog (reg1 0xFE0)) 0 ∧ modeReserved 0 0 = false ∧ Memory.wf ((prog (reg1 0xFE0)).ctx 0).scratch = true ∧
    (∃ e, effective ((prog (reg1 0xFE0)).ctx 0) 1 0 0 8 = .ok e ∧ e.ea.toNat % 8 = 0 ∧ e.ea.toNat + 8 ≤ 0x1000) ∧
    (∃ e, effective ((prog (reg1 0xFE0)).ctx 0) 1 0 0 32 = .ok e ∧ e.ea.toNat % 32 = 0 ∧ e.ea.toNat + 32 ≤ 0x1000) :=
  ⟨issues_of (by decide +kernel), by decide, by decide +kernel, ⟨⟨0xFE0, none⟩, rfl, by decide⟩,
    ⟨⟨0xFE0, none⟩, rfl, by decide⟩⟩

/-- A context with a handle of one buffer, and its address in w1. -/
def handled : Ctx := { reg1 0x10000FE0 with handles := [(0, { st := .live, count := 1, bufs := [5] })] }

theorem witness_HandleStores :
    Issues (prog handled) 0 ∧ modeReserved 0 0 = false ∧
    (∃ e, effective ((prog handled).ctx 0) 1 0 0 8 = .ok e ∧
      accessPlace ((prog handled).ctx 0) e.ea 8 true = .ok (.handle 0 0xFE0)) ∧
    (∃ e, effective ((prog handled).ctx 0) 1 0 0 32 = .ok e ∧
      accessPlace ((prog handled).ctx 0) e.ea 32 true = .ok (.handle 0 0xFE0)) ∧
    0xFE0 / 4096 < (((prog handled).ctx 0).hnd 0).bufs.length :=
  ⟨issues_of (by decide +kernel), by decide, ⟨⟨0x10000FE0, none⟩, rfl, rfl⟩,
    ⟨⟨0x10000FE0, none⟩, rfl, rfl⟩, by decide +kernel⟩

theorem witness_BranchesAndJumps : (Issues (prog ctx0) 0 ∧ ((prog ctx0).ctx 0).rep = none) ∧
    (let x : Ctx := { ctx0 with pc := 0xFFFFFFFC }
     (prog x).inert = false ∧ ((prog x).ctx 0).req.isSome = true ∧ ((prog x).ctx 0).retired < stepLimit (prog x) 0 ∧
      codeBytes (prog x) 0 ≤ ((prog x).ctx 0).pc.toNat) :=
  ⟨⟨issues_of (by decide +kernel), by decide +kernel⟩, by decide +kernel⟩

theorem witness_RepeatPrefix :
    (Issues (prog ctx0) 0 ∧ ((prog ctx0).ctx 0).rep = none ∧ (0 : BitVec 2) ≠ 1 ∧ (31 : BitVec 5) ≠ 0) ∧
    ∃ r, Fetches (prog { ctx0 with rep := some { remain := 0 } }) 0 ∧
      ((prog { ctx0 with rep := some { remain := 0 } }).ctx 0).rep = some r ∧ r.remain = 0 :=
  ⟨⟨issues_of (by decide +kernel), by decide +kernel⟩, { remain := 0 },
    ⟨by decide +kernel, by decide +kernel, by decide +kernel, by decide +kernel, by decide +kernel, by decide +kernel,
      by decide +kernel, by decide +kernel, by decide +kernel⟩, by decide +kernel⟩

/-- A context whose ticket 0 is as given and whose w1 names it. -/
def ticket (k : Ticket) : Ctx := { reg1 1 with tickets := [(0, k)] }

/-- A WAITING context. -/
def waiting : Ctx := { ticket { st := .pending } with st := .waiting, hold := .wait 2 1 false (some 100) }

theorem witness_WaitsAndTickets :
    (Issues (prog (ticket { st := .done })) 0 ∧ ((prog (ticket { st := .done })).ctx 0).rep = none ∧
      (∀ t < 16, (((prog (ticket { st := .done })).ctx 0).rget 1).getLsbD t = true →
        (((prog (ticket { st := .done })).ctx 0).tk t).st = .done)) ∧
    (Issues (prog (ticket { st := .pending })) 0 ∧ (((prog (ticket { st := .pending })).ctx 0).tk 0).st ≠ .free ∧
      (((prog (ticket { st := .pending })).ctx 0).tk 0).st ≠ .done) ∧
    ((prog waiting).inert = false ∧ ((prog waiting).ctx 0).st = .waiting ∧
      ((prog waiting).ctx 0).hold = .wait 2 1 false (some 100)) ∧
    (((prog (ticket { st := .done })).ctx 0).tk 0).st = .done :=
  ⟨⟨issues_of (by decide +kernel), by decide +kernel, by decide +kernel⟩,
    ⟨issues_of (by decide +kernel), by decide +kernel⟩, by decide +kernel, by decide +kernel⟩

/-- A context whose tickets are all taken. -/
def ticketless : Ctx := { ctx0 with tickets := (List.range 16).map fun t => (t, { st := .pending }) }

theorem witness_TrapsAndProgramFaults :
    (Issues (prog (reg1 1)) 0 ∧ ((prog (reg1 1)).ctx 0).committed = false ∧ ((1 : Word) + 0).toNat % 2 ≠ 0) ∧
    (Issues (prog (reg1 0x1040)) 0 ∧ (0x1040 : Nat) % 8 = 0) ∧
    (Issues (prog { ctx0 with rep := some { remain := 1 } }) 0 ∧
      ((prog { ctx0 with rep := some { remain := 1 } }).ctx 0).rep.isSome = true) ∧
    (Issues (prog ticketless) 0 ∧ ((prog ticketless).ctx 0).rep = none ∧ ((prog ticketless).ctx 0).committed = false ∧
      ∀ t < 16, (((prog ticketless).ctx 0).tk t).st ≠ .free) ∧
    (Fetches (prog ctx0) 0 ∧ awlDecode 0 0 [] = none ∧ (awlDecode 0 0x04642800 []).isSome = true) :=
  ⟨⟨issues_of (by decide +kernel), by decide +kernel⟩, ⟨issues_of (by decide +kernel), by decide⟩,
    ⟨issues_of (by decide +kernel), by decide +kernel⟩, ⟨issues_of (by decide +kernel), by decide +kernel⟩,
    (issues_of (h := prog ctx0) (by decide +kernel)).toFetches, by decide +kernel⟩

end Sys2Proof.Tests
end

section
/-! SUPPORT. A control port's register write (R5, R306, R307): what the registers at each offset keep of the word, what an
access comes to by the entry of its offset, and the statement about them. -/

namespace Sys2Proof.Machine

/-! ### Waking leaves err_o and the rest of the block -/

/-- Event 0x11 of the power controller, which logs a wake, is no error (R403): err_o stands. -/
theorem note_wake_ward (s : Hw) : (note s 0xC8 0x11 0).ward = s.ward := by
  show (recCount s 0xC8 0x11).ward = s.ward
  unfold recCount
  split
  · rfl
  · dsimp only
    split <;> rfl

@[simp] theorem wake_ward (s : Hw) : (wake s).ward = s.ward := by
  unfold wake
  split
  · exact note_wake_ward _
  · rfl

@[simp] theorem wake_mc (s : Hw) : (wake s).mc = s.mc := by
  unfold wake
  split <;> simp

@[simp] theorem wake_kp (s : Hw) : (wake s).kp = s.kp := by
  unfold wake
  split <;> simp

@[simp] theorem wake_cen (s : Hw) : (wake s).cen = s.cen := by
  unfold wake
  split <;> simp

@[simp] theorem wake_board (s : Hw) : (wake s).board = s.board := by
  unfold wake
  split <;> simp

/-! ### Entries of the public digest board -/

theorem settleAll_boardEntry (s : Hw) (n : Nat) : (settleAll s).boardEntry n = s.boardEntry n := by simp [Hw.boardEntry]

theorem wake_boardEntry (s : Hw) (n : Nat) : (wake s).boardEntry n = s.boardEntry n := by simp [Hw.boardEntry]

theorem Hw.modEntry_boardEntry (s : Hw) (n : Nat) (f : BoardEntry → BoardEntry) :
    (s.modEntry n f).boardEntry n = f (s.boardEntry n) := tget_tmod _ _ n f

theorem Hw.modEntry_boardEntry_ne (s : Hw) {n a : Nat} (h : a ≠ n) (f : BoardEntry → BoardEntry) :
    (s.modEntry n f).boardEntry a = s.boardEntry a := tget_tmod_ne ({} : BoardEntry) h s.board.entries f

/-! ### A write denied for want of the cinch -/

@[simp] theorem denyWrite_mc (s : Hw) (p : CtlPort) : (denyWrite s p).mc = s.mc := by simp [denyWrite]

@[simp] theorem denyWrite_kp (s : Hw) (p : CtlPort) : (denyWrite s p).kp = s.kp := by simp [denyWrite]

@[simp] theorem denyWrite_cen (s : Hw) (p : CtlPort) : (denyWrite s p).cen = s.cen := by simp [denyWrite]

/-- A denied write is counted at its port (R307). -/
def Cinch.countDenied (c : Cinch) : CtlPort → Cinch
  | .ctla => { c with deniedA := satInc c.deniedA }
  | .ctlb => { c with deniedB := satInc c.deniedB }

theorem denyWrite_cinch (s : Hw) (p : CtlPort) : (denyWrite s p).cinch = s.cinch.countDenied p := by
  cases p <;> simp [denyWrite, Cinch.countDenied]

/-- A write that needs the cinch, at a port in service that does not hold it. -/
theorem State.cinched_denied {s : State} {p : CtlPort} (f : Hw → Hw) (m : Serves s.hw p) (hn : s.hw.cinch.owner ≠ some p) :
    s.cinched p f = s.writes fun h => denyWrite h p := by
  simp [State.cinched, State.work_awake s _ m.awake, State.events, State.writes, cinchWrite, openWrite,
    holdsCinch, m.port, hn]

/-- Two effects that agree on the block once awake are one write. -/
theorem State.writes_congr (s : State) {f g : Hw → Hw} (e : f (wake s.hw) = g (wake s.hw)) : s.writes f = s.writes g := by
  simp only [State.writes, e]

/-! ### The entry of an offset -/

theorem shadowMask_of_not_shadowed {off : Nat} (h : isShadowed off = false) : shadowMask off = 0 := by
  simp [shadowMask, h]

/-- No register from 0xB400 up to the domains is shadowed (R313). -/
theorem isShadowed_of_between {off : Nat} (h1 : 0xB400 ≤ off) (h2 : off < 0x100000) : isShadowed off = false := by
  simp only [isShadowed, Bool.or_eq_false_iff, Bool.and_eq_false_iff, decide_eq_false_iff_not]
  omega

/-- The words of a ring from 0x20 on are not shadowed (R41). -/
theorem isShadowed_ring_live {off : Nat} (h1 : 0x200000 ≤ off) (h2 : off < 0x600000) (h : 0x20 ≤ off % 0x40) :
    isShadowed off = false := by
  simp only [isShadowed, Bool.or_eq_false_iff, Bool.and_eq_false_iff, decide_eq_false_iff_not]
  omega

/-- No register at a fixed offset lies above RING_MGR_CFG. -/
theorem fixedWrite_none_of_lt (p : CtlPort) {off : Nat} (h : 0xF0000 < off) (v : Word) : fixedWrite p off v = none := by
  unfold fixedWrite
  split
  case h_22 => rfl
  all_goals omega

/-- MM_CFGp of memory master port n keeps its low 16 bits. -/
theorem regWriteOf_mmCfg (p : CtlPort) {n : Nat} (hn : n < 32) (v : Word) :
    regWriteOf p (0x60000 + 0x100 * n) v = some ⟨true, fun s => s.modMmp n fun m => { m with cfg := v &&& 0xFFFF#64 }⟩ := by
  have hm := shadowMask_of_not_shadowed (isShadowed_of_between (off := 0x60000 + 0x100 * n) (by omega) (by omega))
  have hk : (0x60000 + 0x100 * n - 0x60000) / 0x100 = n := by omega
  simp only [regWriteOf, hm, hk, bne_self_eq_false, Bool.false_eq_true, if_false, Bool.and_eq_true, Bool.or_eq_true,
    decide_eq_true_eq]
  rw [if_neg (by omega), if_neg (by omega), if_neg (by omega), if_neg (by omega), if_pos (by omega)]

/-- DGB_OWNn of board entry n keeps bit 63 and its low 12 bits. -/
theorem regWriteOf_dgbOwn (p : CtlPort) {n : Nat} (hn : n < 256) (v : Word) :
    regWriteOf p (0xF000 + 8 * n) v = some ⟨true, fun s => s.modEntry n fun e => { e with own := v &&& 0x8000000000000FFF#64 }⟩ := by
  have hm := shadowMask_of_not_shadowed (isShadowed_of_between (off := 0xF000 + 8 * n) (by omega) (by omega))
  have hk : (0xF000 + 8 * n - 0xF000) / 8 = n := by omega
  simp only [regWriteOf, hm, hk, bne_self_eq_false, Bool.false_eq_true, if_false, Bool.and_eq_true, Bool.or_eq_true,
    decide_eq_true_eq]
  rw [if_neg (by omega), if_pos (by omega)]
  rfl

/-- No ring's command word is an entry of the table. -/
theorem regWriteOf_ringCommand (p : CtlPort) {off : Nat} (h1 : 0x200000 ≤ off) (h2 : off < 0x600000) (h : off % 0x40 = 0x38)
    (v : Word) : regWriteOf p off v = none := by
  have hm := shadowMask_of_not_shadowed (isShadowed_ring_live h1 h2 (by omega))
  have hf := fixedWrite_none_of_lt p (off := off) (by omega) v
  simp only [regWriteOf, hm, hf, bne_self_eq_false, Bool.false_eq_true, if_false, Bool.and_eq_true, Bool.or_eq_true,
    decide_eq_true_eq]
  rw [if_neg (by omega), if_neg (by omega), if_neg (by omega), if_neg (by omega), if_neg (by omega)]

/-- The fixed offsets of command registers have no entry either. -/
theorem regWriteOf_none_of_cinchCommand (p : CtlPort) {off : Nat} (h : cinchCommand off = true) (v : Word) :
    regWriteOf p off v = none := by
  simp only [cinchCommand, Bool.or_eq_true, List.contains_eq_mem, decide_eq_true_eq, Bool.and_eq_true] at h
  obtain hl | ⟨⟨h1, h2⟩, h3⟩ := h
  · simp only [List.mem_cons, List.not_mem_nil, or_false] at hl
    rcases hl with rfl | rfl | rfl | rfl | rfl | rfl | rfl | rfl | rfl | rfl | rfl | rfl | rfl | rfl <;> rfl
  · exact regWriteOf_ringCommand p h1 h2 h3 v

/-! ### What an access comes to -/

section
variable {s : State} {p : CtlPort} {off : BitVec 24} {v : Word} {f : Hw → Hw}

/-- A narrow or misaligned access is refused, a read too (R306). -/
theorem registerWrite_refused {be : BitVec 8} (m : Serves s.hw p) (h : be ≠ 0xFF ∨ off.toNat % 8 ≠ 0) (read : Bool) :
    exec (.registerWrite p off be v read) s = s.writes (accessRefused p off.toNat) := by
  rw [← State.opened_serves _ m]
  exact if_pos (by simpa using h)

/-- A read that is not refused does nothing (log 28). -/
theorem registerWrite_read (m : Serves s.hw p) (ha : off.toNat % 8 = 0) :
    exec (.registerWrite p off 0xFF v true) s = s.writes id := by
  rw [← State.opened_serves _ m]
  exact (if_neg (by simp [ha])).trans (if_pos rfl)

/-- An aligned write of a full word does what the entry of its offset says. -/
theorem registerWrite_entry {w : RegWrite} (ha : off.toNat % 8 = 0) (e : regWriteOf p off.toNat v = some w) :
    exec (.registerWrite p off 0xFF v false) s = if w.cinch then s.cinched p w.act else s.opened p w.act := by
  show execRegisterWrite p off 0xFF v s false = _
  simp [execRegisterWrite, ha, e]

/-- At an offset without an entry, it asks for the cinch where a command register stands, and does nothing. -/
theorem registerWrite_no_entry (ha : off.toNat % 8 = 0) (e : regWriteOf p off.toNat v = none) :
    exec (.registerWrite p off 0xFF v false) s = if cinchCommand off.toNat then s.cinched p id else s.opened p id := by
  show execRegisterWrite p off 0xFF v s false = _
  simp [execRegisterWrite, ha, e]

theorem registerWrite_opened (m : Serves s.hw p) (ha : off.toNat % 8 = 0) (e : regWriteOf p off.toNat v = some ⟨false, f⟩) :
    exec (.registerWrite p off 0xFF v false) s = s.writes f :=
  (registerWrite_entry ha e).trans (State.opened_serves f m)

theorem registerWrite_cinched (m : Masters s.hw p) (ha : off.toNat % 8 = 0) (e : regWriteOf p off.toNat v = some ⟨true, f⟩) :
    exec (.registerWrite p off 0xFF v false) s = s.writes f :=
  (registerWrite_entry ha e).trans (State.cinched_masters f m)

/-- The register at an offset needs the cinch: its entry says so, or it is a command register. -/
def NeedsCinch (p : CtlPort) (off : Nat) (v : Word) : Prop :=
  (∃ f, regWriteOf p off v = some ⟨true, f⟩) ∨ cinchCommand off = true

theorem registerWrite_denied (m : Serves s.hw p) (hn : s.hw.cinch.owner ≠ some p) (ha : off.toNat % 8 = 0)
    (hc : NeedsCinch p off.toNat v) :
    exec (.registerWrite p off 0xFF v false) s = s.writes fun h => denyWrite h p := by
  obtain ⟨f, e⟩ | e := hc
  · exact (registerWrite_entry ha e).trans (State.cinched_denied f m hn)
  · rw [registerWrite_no_entry ha (regWriteOf_none_of_cinchCommand p e v), if_pos e]
    exact State.cinched_denied id m hn

end

/-! ### The statement -/

section
variable {s : State} {p : CtlPort}

section
variable (m : Serves s.hw p) {v : Word}
include m

/-- A clear of CINCH_STATUS.BROKEN. -/
theorem registerWrite_clears_broken (h : v.getLsbD 0 = true) : exec (.registerWrite p 0x1020 0xFF v false) s =
    s.writes fun h => { nextClock h with cinch := { h.cinch with broken := false } } := by
  refine (registerWrite_opened m (by decide) rfl).trans ?_
  exact s.writes_congr (if_pos h)

theorem registerWrite_clears_editLost (h : v.getLsbD 9 = true) : exec (.registerWrite p 0x1038 0xFF v false) s =
    s.writes fun h => { nextClock h with seam := { h.seam with editLost := false } } := by
  refine (registerWrite_opened m (by decide) rfl).trans ?_
  exact s.writes_congr (if_pos h)

/-- Outside a pulse of err_o, FLT_ERR_HOLD takes LEVEL at once (R358). -/
theorem registerWrite_errHold (h : s.hw.ward.errPulse = false) : exec (.registerWrite p 0x7FC0 0xFF v false) s =
    s.writes fun h => { h with ward := { h.ward with errLatch := v.getLsbD 1, errLevel := v.getLsbD 0 } } := by
  refine (registerWrite_opened m (by decide) rfl).trans ?_
  exact s.writes_congr (by simp [errHoldWrite, h, bit])

theorem registerWrite_clears_trips (h : v.extractLsb' 16 6 ≠ 0) : exec (.registerWrite p 0x3090 0xFF v false) s =
    s.writes fun h => { nextClock h with sec := { h.sec with trips := h.sec.trips &&& ~~~(v.extractLsb' 16 6) } } := by
  refine (registerWrite_opened m (by decide) rfl).trans ?_
  exact s.writes_congr (if_neg h)

theorem registerWrite_clears_recorder (h : v.getLsbD 5 = true ∨ v.getLsbD 3 = true) :
    exec (.registerWrite p 0x9000 0xFF v false) s = s.writes fun h => { nextClock h with recd := { h.recd with
      lost := h.recd.lost && !v.getLsbD 5, autoThaw := h.recd.autoThaw && !v.getLsbD 3 } } := by
  have hn : ¬(!bit v 5 && !bit v 3) = true := by
    rcases h with h | h <;> simp [bit, h]
  refine (registerWrite_opened m (by decide) rfl).trans ?_
  exact s.writes_congr (if_neg hn)

end

/-- SEAM_VIEW is banked by port. -/
theorem registerWrite_viewA {v : Word} (m : Serves s.hw .ctla) :
    exec (.registerWrite .ctla 0x1040 0xFF v false) s = s.writes fun h => { h with viewA := v.getLsbD 0 } :=
  registerWrite_opened m (by decide) rfl

theorem registerWrite_viewB {v : Word} (m : Serves s.hw .ctlb) :
    exec (.registerWrite .ctlb 0x1040 0xFF v false) s = s.writes fun h => { h with viewB := v.getLsbD 0 } :=
  registerWrite_opened m (by decide) rfl

theorem registerWrite_mmCfg (m : Masters s.hw p) (v : Word) {n : Nat} (hn : n < 32) :
    exec (.registerWrite p (BitVec.ofNat 24 (0x60000 + 0x100 * n)) 0xFF v false) s =
      s.writes fun h => h.modMmp n fun m => { m with cfg := v &&& 0xFFFF } := by
  have ho : (BitVec.ofNat 24 (0x60000 + 0x100 * n)).toNat = 0x60000 + 0x100 * n := by
    rw [BitVec.toNat_ofNat]; omega
  exact registerWrite_cinched m (by omega) (by rw [ho]; exact regWriteOf_mmCfg p hn v)

theorem registerWrite_dgbOwn (m : Masters s.hw p) (v : Word) {n : Nat} (hn : n < 256) :
    Completes (.registerWrite p (BitVec.ofNat 24 (0xF000 + 8 * n)) 0xFF v false) s fun h =>
      (tget {} h.board.entries n).own = v &&& 0x8000000000000FFF ∧
        ∀ a, a ≠ n → tget {} h.board.entries a = tget ({} : BoardEntry) s.hw.board.entries a := by
  have ho : (BitVec.ofNat 24 (0xF000 + 8 * n)).toNat = 0xF000 + 8 * n := by
    rw [BitVec.toNat_ofNat]; omega
  refine completes_of_to (registerWrite_cinched m (by omega) (by rw [ho]; exact regWriteOf_dgbOwn p hn v)) ⟨?_, fun a ha => ?_⟩
  · exact congrArg BoardEntry.own ((settleAll_boardEntry _ n).trans (Hw.modEntry_boardEntry _ n _))
  · exact (settleAll_boardEntry _ a).trans ((Hw.modEntry_boardEntry_ne _ ha _).trans (wake_boardEntry s.hw a))

theorem registerWrite_denied_frame {off : BitVec 24} {v : Word} (m : Serves s.hw p) (hn : s.hw.cinch.owner ≠ some p)
    (ha : off.toNat % 8 = 0) (hc : NeedsCinch p off.toNat v) :
    Completes (.registerWrite p off 0xFF v false) s fun h => h.mc = s.hw.mc ∧ h.kp = s.hw.kp ∧ h.cen = s.hw.cen ∧
      h.cinch = s.hw.cinch.countDenied p := by
  refine completes_of_to (registerWrite_denied m hn ha hc) ⟨by simp, by simp, by simp, ?_⟩
  rw [settleAll_cinch, denyWrite_cinch, wake_cinch]

end

end Sys2Proof.Machine
end

section
open Sys2Proof Sys2Proof.Machine

/-- Settles O56: the entry of the offset says what a write keeps, and an access is an open write, a write by the holder of the
cinch, or a denied one. -/
theorem registersTakeTheirBits : Obligations.RegistersTakeTheirBits := by
  intro s p offset be v n writes
  refine ⟨fun m => ⟨registerWrite_read m, fun read h => registerWrite_refused m h read, fun ha hc e => ?_,
    registerWrite_clears_broken m, registerWrite_clears_editLost m, ?_, ?_, registerWrite_errHold m,
    registerWrite_clears_trips m, registerWrite_clears_recorder m⟩, fun m => ?_, fun m hn off ho => ?_⟩
  · exact (registerWrite_no_entry ha e).trans ((if_neg (by simp [hc])).trans (State.opened_serves id m))
  · rintro rfl
    exact registerWrite_viewA m
  · rintro rfl
    exact registerWrite_viewB m
  · refine ⟨?_, ?_, ?_, ?_, ?_, ?_, ?_, ?_, ?_, ?_, registerWrite_mmCfg m v, registerWrite_dgbOwn m v⟩ <;>
      exact registerWrite_cinched m (by decide) rfl
  · have hc : off.toNat % 8 = 0 ∧ NeedsCinch p off.toNat v := by
      rcases ho with rfl | rfl | rfl | rfl | rfl | rfl | rfl | rfl | rfl | rfl | ⟨ha, hc⟩
      on_goal 11 => exact ⟨ha, .inr hc⟩
      all_goals exact ⟨by decide, .inl ⟨_, rfl⟩⟩
    exact registerWrite_denied_frame m hn hc.1 hc.2
end

section
namespace Sys2Proof.Machine

/-! ### Settled blocks -/

/-- A block stays settled when one context alone changes, its record listed once ready, and no record leaves the list. -/
theorem Hw.Settled.of_ctx {s t : Hw} (h : s.Settled) (c : Nat)
    (hc : recordReady (t.ctx c) = true → Ready.context c ∈ t.rm.ready) (ho : ∀ a, a ≠ c → t.ctx a = s.ctx a)
    (hr : ∀ r ∈ s.rm.ready, r ∈ t.rm.ready) : t.Settled := by
  intro a ha
  by_cases e : a = c
  · subst e; exact hc ha
  · rw [ho a e] at ha
    exact hr _ (h a ha)

/-- A command that ends in a settled block completes with just its effect. -/
theorem completes_work {i : Instr} {s : State} {f : Hw → Hw} {P : Hw → Prop} (e : exec i s = s.work f)
    (awake : s.hw.inert = false) (settled : (f s.hw).Settled) (p : P (f s.hw)) : Completes i s P :=
  completes_of_to ((e.trans (s.work_awake f awake)).trans (s.events_settled f settled)) p

/-- A command that can end work completes with its effect settled. -/
theorem completes_settleAll {i : Instr} {s : State} {f : Hw → Hw} {P : Hw → Prop} (e : exec i s = s.work f)
    (awake : s.hw.inert = false) (p : P (settleAll (f s.hw))) : Completes i s P :=
  completes_of_to (e.trans (s.work_awake f awake)) p

/-! ### Deficit round robin with one domain (R34) -/

/-- What a domain owes is no more than all credits and debts together. -/
theorem tget_neg_le_debt (l : Table Int) (d : Nat) : -tget 0 l d ≤ ((l.foldl (fun m e => m + e.2.natAbs) 0 : Nat) : Int) := by
  have mono : ∀ (l : Table Int) (m : Nat), m ≤ l.foldl (fun m e => m + e.2.natAbs) m := by
    intro l
    induction l with
    | nil => exact fun m => Nat.le_refl m
    | cons e r ih => exact fun m => (Nat.le_add_right m _).trans (ih _)
  have key : ∀ (l : Table Int) (m : Nat), -tget 0 l d ≤ ((l.foldl (fun m e => m + e.2.natAbs) m : Nat) : Int) := by
    intro l
    induction l with
    | nil => intro m; simp [tget]
    | cons e r ih =>
      intro m
      obtain ⟨k, v⟩ := e
      simp only [tget, List.foldl_cons]
      split
      · have := mono r (m + v.natAbs)
        omega
      · exact ih _
  exact key l 0

theorem nextTurn_one (d b turn : Nat) : nextTurn [(d, b)] turn = d := by
  unfold nextTurn
  by_cases h : turn < d <;> simp [h]

/-- The only domain, in its turn, is granted once its credit covers its head. -/
theorem arbGo_turn (w : Nat → Nat) {d : Nat} (b : Nat) (hw : 1 ≤ w d) (n : Nat) (a : Arb) (ht : a.turn = d)
    (hn : (b : Int) - tget 0 a.credit d < n) (h0 : 1 ≤ n) : ∃ a', arbGo w [(d, b)] n a = some (d, a') := by
  induction n generalizing a with
  | zero => omega
  | succ n ih =>
    by_cases hc : (b : Int) ≤ tget 0 a.credit d
    · exact ⟨_, by simp [arbGo, ht, hc]; rfl⟩
    · obtain ⟨a', h⟩ := ih { credit := tset 0 a.credit d (tget 0 a.credit d + w d), turn := d } rfl
        (by simp only [tget_tset]; omega) (by omega)
      exact ⟨a', by simpa [arbGo, ht, hc, nextTurn_one] using h⟩

/-- With one domain backlogged the grant is its own. -/
theorem arbPick_one (w : Nat → Nat) (d b : Nat) (a : Arb) (hw : 1 ≤ w d) :
    ∃ a', arbPick w [(d, b)] a = some (d, a') := by
  have debt := tget_neg_le_debt a.credit d
  unfold arbPick
  simp only [List.length_singleton, List.foldl_cons, List.foldl_nil]
  generalize a.credit.foldl (fun m e => m + e.2.natAbs) 0 = m at debt ⊢
  by_cases ht : a.turn = d
  · exact arbGo_turn w b hw _ a ht (by omega) (by omega)
  · obtain ⟨n, hn⟩ : ∃ n, (1 + 1) * (max 1 b + m + 1) = n + 1 := ⟨_, rfl⟩
    obtain ⟨a', h⟩ := arbGo_turn w b hw n { credit := tset 0 a.credit d (tget 0 a.credit d + w d), turn := d } rfl
      (by simp only [tget_tset]; omega) (by omega)
    exact ⟨a', by simpa [hn, arbGo, Ne.symm ht, nextTurn_one] using h⟩

/-- With no domain backlogged there is no grant. -/
theorem arbPick_none (w : Nat → Nat) (a : Arb) : arbPick w [] a = none := by
  have key : ∀ n a, arbGo w [] n a = none := by
    intro n
    induction n with
    | zero => exact fun _ => rfl
    | succ n ih => exact fun a => ih _
  exact key _ a

theorem one_le_domWeight (c : CfgSet) (d : Nat) : 1 ≤ domWeight c d := Nat.le_max_left _ _

end Sys2Proof.Machine
end

section
namespace Sys2Proof.Machine

/-! ### Ending work leaves all of a context but its tickets -/

/-- A context with its tickets blanked. -/
def Ctx.sansTickets (x : Ctx) : Ctx := { x with tickets := [] }

theorem Hw.ctx_congr {s t : Hw} (h : s.ctxs = t.ctxs) (a : Nat) : s.ctx a = t.ctx a := by
  unfold Hw.ctx
  rw [h]

/-- The ticket of a job that ends is DONE, with its status and result (R80). -/
theorem setDone_ctx (s : Hw) (c t : Nat) (st : BitVec 8) (r : Word) :
    (setDone s c t st r).ctx c = (s.ctx c).setTk t { (s.ctx c).tk t with st := .done, status := st, result := r } := by
  show (s.modCtx c fun x => x.setTk t { x.tk t with st := .done, status := st, result := r }).ctx c = _
  rw [Hw.modCtx_ctx]

theorem releaseJob_delJob_ctx (s : Hw) (k a : Nat) : ((releaseJob s k).delJob k).ctx a = s.ctx a :=
  Hw.ctx_congr (releaseJob_ctxs s k) a

theorem finish_ctx (s : Hw) (k : Nat) (st : BitVec 8) (r : Word) : (finish s k st r).ctx (k / 16) =
    (s.ctx (k / 16)).setTk (k % 16) { (s.ctx (k / 16)).tk (k % 16) with st := .done, status := st, result := r } := by
  unfold finish
  rw [setDone_ctx, releaseJob_delJob_ctx]

theorem Ctx.eq_of_sansTickets {x y : Ctx} (h : x.sansTickets = y.sansTickets) : x = { y with tickets := x.tickets } := by
  show { x.sansTickets with tickets := x.tickets } = _
  rw [h]
  rfl

theorem finish_sansTickets (s : Hw) (k a : Nat) (st : BitVec 8) (r : Word) :
    ((finish s k st r).ctx a).sansTickets = (s.ctx a).sansTickets := by
  by_cases h : a = k / 16
  · subst h
    rw [finish_ctx]
    rfl
  · rw [finish_ctx_ne s st r h]

theorem endJob_sansTickets (s : Hw) (k a : Nat) (st : BitVec 8) :
    ((endJob s k st).ctx a).sansTickets = (s.ctx a).sansTickets := by
  unfold endJob stopTransfer finishTransfer finishFree
  split
  · rfl
  · split
    case h_1 | h_2 | h_3 | h_4 | h_5 =>
      split
      · exact finish_sansTickets s k a st _
      · rfl
    all_goals exact finish_sansTickets _ k a st _

theorem endJobs_sansTickets (s : Hw) (c a : Nat) (p : Job → Bool) (st : BitVec 8) :
    ((endJobs s c p st).ctx a).sansTickets = (s.ctx a).sansTickets :=
  foldl_keeps (fun t : Hw => (t.ctx a).sansTickets) (fun (s : Hw) (e : Nat × Job) => endJob s e.1 st)
    (fun t e => endJob_sansTickets t e.1 a st) _ _

/-! ### The withdrawal of a request that has begun no stream (R64) -/

/-- A context whose request runs with no stream begun: a withdrawal finds nothing undecided. -/
structure Ctx.Fresh (x : Ctx) : Prop where
  request : x.req.isSome = true
  uncommitted : x.committed = false
  wanted : x.withdrawn = none
  recorded : x.noRecord = false
  quiet : x.scrubbing = none
  ciphers : x.cstreams = []
  digests : x.dstreams = []

/-- Stopping the work of a context with no digest stream ends jobs alone. -/
theorem stopWork_of_no_digests (s : Hw) (c : Nat) (st : BitVec 8) (h : (s.ctx c).dstreams = []) :
    ∃ p, stopWork s c st = endJobs (killPku (dropUpdates (dropTrap s c) c) c) c p st := by
  have e : ((killPku (dropUpdates (dropTrap s c) c) c).ctx c).dstreams = [] := h
  unfold stopWork
  simp only [e, List.map_nil, List.foldl_nil]
  exact ⟨_, rfl⟩

/-- A withdrawal of a request with no stream begun decides its status, ends jobs, and lists its record. -/
theorem withdraw_fresh {s : Hw} {c : Nat} (x : (s.ctx c).Fresh) (st : BitVec 8) :
    ∃ p m, withdraw s c st = settle (endJobs m c p st) c ∧ m.rings = s.rings ∧ m.rm = s.rm ∧
      m.ctx c = { s.ctx c with withdrawn := some st, st := .quiescing, hold := .none, rep := none } ∧
      ∀ a, a ≠ c → m.ctx a = s.ctx a := by
  let m := s.modCtx c fun x => { x with withdrawn := some st, st := .quiescing, hold := .none, rep := none }
  have hm : m.ctx c = { s.ctx c with withdrawn := some st, st := .quiescing, hold := .none, rep := none } := s.modCtx_ctx c _
  obtain ⟨p, e⟩ := stopWork_of_no_digests m c st (by rw [hm]; exact x.digests)
  have ctxs : (killPku (dropUpdates (dropTrap m c) c) c).ctxs = m.ctxs := rfl
  refine ⟨p, killPku (dropUpdates (dropTrap m c) c) c, ?_, rfl, rfl, (Hw.ctx_congr ctxs c).trans hm, ?_⟩
  rotate_left
  · intro a h
    rw [Hw.ctx_congr ctxs]
    exact s.modCtx_ctx_ne _ h
  have streams : ((stopWork m c st).ctx c).cstreams = [] := by
    have := congrArg Ctx.cstreams (endJobs_sansTickets (killPku (dropUpdates (dropTrap m c) c) c) c c p st)
    rw [e]
    exact this.trans ((congrArg Ctx.cstreams ((Hw.ctx_congr ctxs c).trans hm)).trans x.ciphers)
  rw [← e]
  unfold withdraw
  simp only [Option.isNone_iff_eq_none, x.uncommitted, x.wanted, x.recorded, Option.isSome_none, Bool.or_false]
  rw [if_neg (by simp [Option.isSome_iff_ne_none.mp x.request])]
  show settle (List.foldl _ (stopWork m c st) (List.map _ ((stopWork m c st).ctx c).cstreams)) c = _
  rw [streams]
  rfl

/-- Settling lists the record of a context that is ready with no stream begun. -/
theorem settle_lists {s : Hw} {c : Nat} (ready : recordReady (s.ctx c) = true) (streams : (s.ctx c).cstreams = []) :
    (settle s c).ctxs = s.ctxs ∧ ∀ r, r ∈ (settle s c).rm.ready ↔ r = .context c ∨ r ∈ s.rm.ready := by
  have quiet : ∀ p st, endUndecided s c p st = s := fun p st => by simp [endUndecided, streams]
  have scrub : (s.ctx c).scrubbing.isSome = false := by
    simp only [recordReady, Bool.and_eq_true] at ready
    simpa using ready.1.2
  unfold settle
  simp only [ready, Bool.true_and, quiet, scrub]
  by_cases h : Ready.context c ∈ s.rm.ready
  · simp [h]
  · simp [h, (readyPut_joins s (.context c)).mem]
    rfl

/-- A withdrawal of a request with no stream begun: its status stands, its record is listed, and nothing of other contexts,
the rings or the rest of the ready list goes. -/
theorem withdraw_fresh_ends {s : Hw} {c : Nat} (x : (s.ctx c).Fresh) (st : BitVec 8) :
    ((withdraw s c st).ctx c).withdrawn = some st ∧ (∀ a, a ≠ c → (withdraw s c st).ctx a = s.ctx a) ∧
      (∀ r, r ∈ (withdraw s c st).rm.ready ↔ r = .context c ∨ r ∈ s.rm.ready) ∧
      (withdraw s c st).rings = s.rings ∧ (withdraw s c st).rm.admitted = s.rm.admitted ∧
      (withdraw s c st).rm.lastBench = s.rm.lastBench := by
  obtain ⟨p, m, e, rings, rm, hc, ho⟩ := withdraw_fresh x st
  have ctx := Ctx.eq_of_sansTickets (endJobs_sansTickets m c c p st)
  rw [hc] at ctx
  generalize ((endJobs m c p st).ctx c).tickets = l at ctx
  have jobs := endJobs_sansJobs m c p st
  have settled := settle_sansReady (endJobs m c p st) c
  obtain ⟨ctxs, listed⟩ := settle_lists (s := endJobs m c p st) (c := c) (by
    simp [ctx, recordReady, x.request, x.uncommitted, x.recorded, x.quiet]) ((congrArg Ctx.cstreams ctx).trans x.ciphers)
  have rm' : (endJobs m c p st).rm = s.rm := (congrArg Hw.rm jobs).trans rm
  rw [e]
  refine ⟨?_, fun a h => ?_, fun r => ?_, ?_, ?_, ?_⟩
  · rw [Hw.ctx_congr ctxs]
    exact congrArg Ctx.withdrawn ctx
  · rw [Hw.ctx_congr ctxs, endJobs_ctx_ne m p st h, ho a h]
  · rw [listed, rm']
  · exact (congrArg Hw.rings settled).trans ((congrArg Hw.rings jobs).trans rings)
  · exact (congrArg (fun t : Hw => t.rm.admitted) settled).trans (congrArg RingMgr.admitted rm' :)
  · exact (congrArg (fun t : Hw => t.rm.lastBench) settled).trans (congrArg RingMgr.lastBench rm' :)

end Sys2Proof.Machine
end

section
namespace Sys2Proof.Machine

/-! ### One admission (R53, R55) -/

/-- The block as the only request that waits finds it at its admission: in a core clock that admits, its domain and its ring
served. -/
def Hw.turned (s : Hw) (arb : Arb) (turns : Table Nat) : Hw :=
  { advanceTo s s.rm.admitAt with rm := { s.rm with
    arb := arb, ringTurn := turns, admitAt := (advanceTo s s.rm.admitAt).clk.core + 1 } }

theorem nextSource_one (last : Nat) (e : Waiting × Admit) : nextSource last [e] = some e := by
  unfold nextSource
  by_cases h : last < e.1.source <;> simp [h, leastBy]

theorem admission_one {s : Hw} {w : Waiting} {a : Admit} (ha : admits s = true)
    (hw : waitings (advanceTo s s.rm.admitAt) = [(w, a)]) :
    ∃ arb turns, (∀ c, a = .grant c → admission s = grantCtx (s.turned arb turns) w c) ∧
      (a = .fenced → admission s = admitFenced (s.turned arb turns) w) := by
  have ha' : admits (advanceTo s s.rm.admitAt) = true := ha
  obtain ⟨arb, h⟩ := arbPick_one (domWeight s.active) (w.domain (advanceTo s s.rm.admitAt)) 1 s.rm.arb (one_le_domWeight _ _)
  refine ⟨arb, tset 65543 s.rm.ringTurn (w.domain (advanceTo s s.rm.admitAt)) w.source, fun c e => ?_, fun e => ?_⟩
  all_goals
    subst e
    simp [admission, ha', hw, risingNats, insertNat, h, nextSource_one]
    rfl

/-- With no request that could be admitted, nothing is. -/
theorem admission_none {s : Hw} (hw : waitings (advanceTo s s.rm.admitAt) = []) : admission s = s := by
  unfold admission
  simp [hw, risingNats, arbPick_none]

/-- A request of a domain that forwards nothing goes where its placement says (R56, R417). -/
theorem admitKind_here {s : Hw} {n : Nat} (f : Fetched) (hd : domFlag s.active (ringDomain s.active n) 5 = false) :
    (∀ c, placeRequest s (libMask s.active (fld (wordOf f.desc 0) 0 12)) = .at c → admitKind s (.ring n f) = .grant c) ∧
      (placeRequest s (libMask s.active (fld (wordOf f.desc 0) 0 12)) = .fenced → admitKind s (.ring n f) = .fenced) ∧
      (placeRequest s (libMask s.active (fld (wordOf f.desc 0) 0 12)) = .waits → admitKind s (.ring n f) = .waits) := by
  have hd' : domFlag s.active ((Waiting.ring n f).domain s) 5 = false := hd
  refine ⟨fun c h => ?_, fun h => ?_, fun h => ?_⟩ <;> simp [admitKind, hd', Waiting.desc, h]

/-- Of one ring with one request at its head that may go in its turn, and no peer's, that request alone may be admitted. -/
theorem waitings_one {s : Hw} {n : Nat} {r : Ring} {f : Fetched} (hr : s.rings = [(n, r)]) (hf : r.fetched = [f])
    (hs : f.st = .waiting) (turn : bit (wordOf f.desc 0) 55 = false ∨ r.open_.head? = some f.k) (hp : s.hns.arrivals = [])
    (intime : ∀ l, f.deadline = some l → s.clk.core < l) :
    waitings s = [(Waiting.ring n f, admitKind s (.ring n f))].filter fun e => e.2 != .waits := by
  have head : ringHead s.clk.core r = some f := by
    have : f.deadline.all (s.clk.core < ·) = true := by
      cases h : f.deadline with
      | none => rfl
      | some l => simpa using intime l h
    simp only [ringHead, hf, descFlag, hs, this]
    rcases turn with h | h <;> simp [h]
  simp [waitings, hr, head, hp]

/-- A record that becomes ready leaves a settled block settled. -/
theorem readyPut_settled {s : Hw} (h : s.Settled) (r : Ready) : (readyPut s r).Settled := fun a ready =>
  ((readyPut_joins s r).mem _).mpr (.inr (h a ready))

/-! ### The request that is granted a context (R29, R53, R96) -/

/-- The block in which the request of a ring has its context, its entry not yet checked. -/
def granted (s : Hw) (n : Nat) (f : Fetched) (c : Nat) : Hw :=
  let q := requestOf s (.ring n f)
  let t := waitingGone s (.ring n f)
  ({ t with rm := { t.rm with lastBench := benchOf c, admitted := t.rm.admitted + 1 } }.modRing n fun r =>
    { r with inFlight := r.inFlight + 1 }).setCtx c
      { st := .ready, req := some q, entry := BitVec.ofNat 12 (fld (wordOf q.desc 0) 0 12)
        dztrap := bit (libEntry s.active (fld (wordOf q.desc 0) 0 12)).2 34 }

theorem fld_lt {w : Nat} (v : BitVec w) (lo len : Nat) : fld v lo len < 2 ^ len := Nat.mod_lt _ (Nat.two_pow_pos len)

/-- The domain of a ring's request is its ring's. -/
theorem requestOf_domain (s : Hw) (n : Nat) (f : Fetched) :
    (requestOf s (.ring n f)).domain.toNat = ringDomain s.active n := by
  show (BitVec.ofNat 12 (ringDomain s.active n)).toNat = _
  rw [BitVec.toNat_ofNat]
  exact Nat.mod_eq_of_lt (fld_lt (ringWord s.active n 0) 32 12)

/-- The entry check decides between the context and its withdrawal. -/
theorem grantCtx_ring (s : Hw) (n : Nat) (f : Fetched) (c : Nat) :
    (domEntryOk s.active (ringDomain s.active n) (fld (wordOf f.desc 0) 0 12) = true →
      libValid s.active (fld (wordOf f.desc 0) 0 12) = true → grantCtx s (.ring n f) c = granted s n f c) ∧
    (domEntryOk s.active (ringDomain s.active n) (fld (wordOf f.desc 0) 0 12) = false ∨
      libValid s.active (fld (wordOf f.desc 0) 0 12) = false →
      grantCtx s (.ring n f) c = withdraw (granted s n f c) c stIllegalProgram) := by
  have e : grantCtx s (.ring n f) c =
      if domEntryOk s.active (requestOf s (.ring n f)).domain.toNat (fld (wordOf f.desc 0) 0 12) &&
          libValid s.active (fld (wordOf f.desc 0) 0 12) then granted s n f c
      else withdraw (granted s n f c) c stIllegalProgram := rfl
  rw [e, requestOf_domain]
  refine ⟨fun h1 h2 => by simp [h1, h2], fun h => ?_⟩
  rcases h with h | h <;> simp [h]

theorem granted_ctx (s : Hw) (n : Nat) (f : Fetched) (c : Nat) : (granted s n f c).ctx c =
    { st := .ready, req := some (requestOf s (.ring n f)), entry := BitVec.ofNat 12 (fld (wordOf f.desc 0) 0 12)
      dztrap := bit (libEntry s.active (fld (wordOf f.desc 0) 0 12)).2 34 } := Hw.setCtx_ctx _ c _

theorem granted_ctx_ne (s : Hw) (n : Nat) (f : Fetched) {c a : Nat} (h : a ≠ c) : (granted s n f c).ctx a = s.ctx a := by
  unfold granted
  exact Hw.setCtx_ctx_ne _ _ h

theorem Hw.modRing_ring (s : Hw) (n : Nat) (f : Ring → Ring) : (s.modRing n f).ring n = f (s.ring n) := tget_tmod _ _ n f

theorem waitingGone_ring (s : Hw) (n : Nat) {f : Fetched} (hf : (s.ring n).fetched = [f]) :
    (waitingGone s (.ring n f)).ring n = { s.ring n with fetched := [] } := by
  unfold waitingGone
  rw [Hw.modRing_ring]
  simp [hf]

theorem granted_ring (s : Hw) (n : Nat) {f : Fetched} (c : Nat) (hf : (s.ring n).fetched = [f]) :
    (granted s n f c).ring n = { s.ring n with fetched := [], inFlight := (s.ring n).inFlight + 1 } := by
  show ((waitingGone s (.ring n f)).modRing n fun r => { r with inFlight := r.inFlight + 1 }).ring n = _
  rw [Hw.modRing_ring, waitingGone_ring s n hf]

theorem granted_settled {s : Hw} (h : s.Settled) (n : Nat) (f : Fetched) (c : Nat) : (granted s n f c).Settled :=
  h.of_ctx c (fun ready => by rw [granted_ctx] at ready; cases ready) (fun _ ne => granted_ctx_ne s n f ne) fun _ hr => hr

theorem granted_fresh (s : Hw) (n : Nat) (f : Fetched) (c : Nat) : ((granted s n f c).ctx c).Fresh := by
  rw [granted_ctx]
  exact ⟨rfl, rfl, rfl, rfl, rfl, rfl, rfl⟩

/-- The withdrawal of a fresh context leaves a settled block settled: its record is listed. -/
theorem withdraw_fresh_settled {s : Hw} (h : s.Settled) {c : Nat} (x : (s.ctx c).Fresh) (st : BitVec 8) :
    (withdraw s c st).Settled := by
  obtain ⟨-, others, listed, -⟩ := withdraw_fresh_ends x st
  exact h.of_ctx c (fun _ => (listed _).mpr (.inl rfl)) others fun r hr => (listed r).mpr (.inr hr)

/-- What a granted admission leaves (R29, R53, R62, R96). -/
theorem grantCtx_ends {s : Hw} (settled : s.Settled) (n : Nat) {f : Fetched} (c : Nat) (hf : (s.ring n).fetched = [f]) :
    let h := grantCtx s (.ring n f) c
    let e := fld (wordOf f.desc 0) 0 12
    h.Settled ∧ h.rm.admitted = s.rm.admitted + 1 ∧ h.rm.lastBench = benchOf c ∧
      h.ring n = { s.ring n with fetched := [], inFlight := (s.ring n).inFlight + 1 } ∧ (∀ a, a ≠ c → h.ctx a = s.ctx a) ∧
      (domEntryOk s.active (ringDomain s.active n) e = true → libValid s.active e = true → h = granted s n f c) ∧
      (domEntryOk s.active (ringDomain s.active n) e = false ∨ libValid s.active e = false →
        (h.ctx c).withdrawn = some 0x17 ∧ Ready.context c ∈ h.rm.ready) := by
  intro h e
  obtain ⟨hok, hbad⟩ := grantCtx_ring s n f c
  have ring := granted_ring s n c hf
  have settled' := granted_settled settled n f c
  by_cases ok : domEntryOk s.active (ringDomain s.active n) e = true ∧ libValid s.active e = true
  · have eq : h = granted s n f c := hok ok.1 ok.2
    rw [eq]
    refine ⟨settled', rfl, rfl, ring, fun a ne => granted_ctx_ne s n f ne, fun _ _ => rfl, fun bad => ?_⟩
    simp [ok] at bad
  · have bad : domEntryOk s.active (ringDomain s.active n) e = false ∨ libValid s.active e = false :=
      (not_and_or.mp ok).imp Bool.eq_false_iff.mpr Bool.eq_false_iff.mpr
    have eq : h = withdraw (granted s n f c) c stIllegalProgram := hbad bad
    have fresh := granted_fresh s n f c
    obtain ⟨status, others, listed, rings, admitted, bench⟩ := withdraw_fresh_ends fresh stIllegalProgram
    rw [eq]
    refine ⟨withdraw_fresh_settled settled' fresh _, admitted, bench, ?_, fun a ne => ?_, fun o1 o2 => absurd ⟨o1, o2⟩ ok,
      fun _ => ⟨status, (listed _).mpr (.inl rfl)⟩⟩
    · unfold Hw.ring
      rw [rings]
      exact ring
    · rw [others a ne, granted_ctx_ne s n f ne]

end Sys2Proof.Machine

open Sys2Proof Sys2Proof.Machine

/-- Settles O31: one waiting request is all that the round can serve, and its placement decides what becomes of it. -/
theorem admissionGrantsAContext : Obligations.AdmissionGrantsAContext := by
  intro s n c r f cfg d e now place awake settled hadm rings hn hf hst turn arrivals hflag intime
  have hring : s.hw.ring n = r := by simp [Hw.ring, rings, tget]
  have hw := waitings_one (s := advanceTo s.hw s.hw.rm.admitAt) rings hf hst turn arrivals intime
  obtain ⟨kindAt, kindFenced, kindWaits⟩ := admitKind_here (s := advanceTo s.hw s.hw.rm.admitAt) f hflag
  refine ⟨fun hp => ?_, fun hp => ?_, fun hp => ?_⟩
  · rw [kindAt c hp] at hw
    obtain ⟨arb, turns, grant, -⟩ := admission_one hadm hw
    have same : (s.hw.turned arb turns).ring n = r := hring
    obtain ⟨settled', admitted, bench, ring, others, ok, bad⟩ :=
      grantCtx_ends (s := s.hw.turned arb turns) settled n (f := f) c (by rw [same, hf])
    refine completes_work rfl awake (by rw [grant c rfl]; exact settled') ?_
    rw [grant c rfl]
    rw [same] at ring
    refine ⟨admitted, bench, ring, others, fun h1 h2 => ?_, bad⟩
    rw [ok h1 h2, granted_ctx]
    exact ⟨rfl, rfl, requestOf (s.hw.turned arb turns) (.ring n f), rfl, Nat.mod_eq_of_lt hn, rfl, rfl,
      requestOf_domain _ n f, rfl, rfl, rfl, rfl, decide_eq_true_iff, rfl⟩
  · rw [kindFenced hp] at hw
    obtain ⟨arb, turns, -, fenced⟩ := admission_one hadm hw
    have same : (s.hw.turned arb turns).ring n = r := hring
    refine completes_work rfl awake ?_ ?_ <;> rw [fenced rfl]
    · exact readyPut_settled (s := waitingGone (s.hw.turned arb turns) (.ring n f)) settled _
    · refine ⟨(waitingGone_ring _ n (by rw [same, hf])).trans (by rw [same]), rfl, _, _,
        readyPut_joins (waitingGone (s.hw.turned arb turns) (.ring n f)) _, rfl, rfl, rfl⟩
  · rw [kindWaits hp] at hw
    have eq := admission_none hw
    refine (s.work_awake admission awake).trans ((s.events_settled admission (by rw [eq]; exact settled)).trans ?_)
    rw [eq]
end

section
namespace Sys2Proof.Machine

/-! ### The end of a job (R80) -/

theorem jobKey_div (c : Nat) {t : Nat} (h : t < 16) : jobKey c t / 16 = c := by unfold jobKey; omega

theorem jobKey_mod (c : Nat) {t : Nat} (h : t < 16) : jobKey c t % 16 = t := by unfold jobKey; omega

theorem Hw.setJob_job (s : Hw) (k : Nat) (j : Job) : (s.setJob k j).job k = some j := by
  have key : ∀ l : Table Job, (tput k j l).find? (·.1 = k) = some (k, j) := by
    intro l
    induction l with
    | nil => simp [tput]
    | cons e r ih =>
      obtain ⟨n, w⟩ := e
      simp only [tput]
      split
      · simp
      · split
        · simp
        · rename_i h
          simp [Ne.symm h, ih]
  unfold Hw.job Hw.setJob
  rw [key]
  rfl

theorem stallEnd_cs (s : Hw) (p k : Nat) : (stallEnd s p k).cs = s.cs := by
  unfold stallEnd
  split <;> rfl

/-- What a job gives back leaves the bytes of the central store. -/
theorem finish_cs_bytes (s : Hw) (k : Nat) (st : BitVec 8) (r : Word) : (finish s k st r).cs.bytes = s.cs.bytes := by
  show (releaseJob s k).cs.bytes = _
  unfold releaseJob
  dsimp only
  split
  · split
    · split <;> exact congrArg CentralStore.bytes (stallEnd_cs s _ k)
    · rfl
  · rfl

/-- The ticket of a job that ends is DONE with its status and result. -/
theorem finish_done (s : Hw) (c : Nat) {t : Nat} (ht : t < 16) (st : BitVec 8) (r : Word) :
    (finish s (jobKey c t) st r).Done c t st ∧ (((finish s (jobKey c t) st r).ctx c).tk t).result = r := by
  have h := finish_ctx s (jobKey c t) st r
  rw [jobKey_div c ht, jobKey_mod c ht] at h
  unfold Hw.Done
  rw [h, Ctx.setTk_tk]
  exact ⟨⟨rfl, rfl⟩, rfl⟩

/-- The end of a job of a running request makes no record ready. -/
theorem finish_settled {s : Hw} {c t : Nat} (settled : s.Settled) (ht : t < 16) (unposted : (s.ctx c).posted = none)
    (wanted : (s.ctx c).withdrawn = none) (st : BitVec 8) (r : Word) : (finish s (jobKey c t) st r).Settled := by
  refine settled.of_ctx c (fun ready => ?_) (fun a h => finish_ctx_ne s st r (by rwa [jobKey_div c ht])) fun q hq => ?_
  · have h := Ctx.eq_of_sansTickets (finish_sansTickets s (jobKey c t) c st r)
    rw [h] at ready
    simp [recordReady, unposted, wanted] at ready
  · have rm : (finish s (jobKey c t) st r).rm = s.rm := (congrArg Hw.rm (finish_sansJobs s (jobKey c t) st r) :)
    rwa [rm]

/-! ### A block with nothing that waits for a memory master port -/

/-- No public-key unit, forwarded request, image or ring waits for a port. -/
structure Hw.Idle (s : Hw) : Prop where
  units : s.pku = []
  forwards : s.hns.forwards = []
  image : s.ucode.verifying = false
  rings : s.rings = []

theorem Hw.Idle.congr {s t : Hw} (h : s.Idle) (h1 : t.pku = s.pku) (h2 : t.hns = s.hns) (h3 : t.ucode = s.ucode)
    (h4 : t.rings = s.rings) : t.Idle :=
  ⟨h1.trans h.units, by rw [h2, h.forwards], by rw [h3, h.image], h4.trans h.rings⟩

theorem ucGo_idle {s : Hw} (h : s.Idle) : ucGo s = s := by simp [ucGo, h.image]

theorem reissueAll_idle {s : Hw} (h : s.Idle) : reissueAll s = s := by simp [reissueAll, cplAll, h.rings]

theorem mmGo_idle {s : Hw} (h : s.Idle) (p : Nat) : mmGo s p = s := by
  simp [mmGo, h.units, h.forwards, ucGo_idle h, reissueAll_idle h]

/-! ### The fence of a memory master port (R348, R349, R352) -/

theorem modBlk_fenced (s : Hw) (u v : Nat) {f : FltBlock → FltBlock} (h : ∀ b, (f b).fenced = b.fenced) :
    (s.modBlk u f).fenced v = s.fenced v := by
  unfold Hw.fenced Hw.blk Hw.modBlk
  by_cases e : v = u
  · subst e
    rw [tget_tmod, h]
  · rw [tget_tmod_ne _ e]

theorem fltRecord_fenced (b : FltBlock) (en : FltEntry) (irq : Bool) (now : Nat) : (fltRecord b en irq now).fenced = b.fenced := by
  unfold fltRecord
  dsimp only
  split
  · rfl
  · split
    · split
      · rfl
      · split <;> rfl
    · rfl

theorem recCount_fenced (s : Hw) (u e v : Nat) : (recCount s u e).fenced v = s.fenced v := by
  unfold recCount
  split
  · rfl
  · dsimp only
    split
    · exact modBlk_fenced _ _ v fun b => fltRecord_fenced b _ _ _
    · rfl

/-- Logging fences nothing. -/
theorem logRow_fenced (s : Hw) (u e : Nat) (d : BitVec 16) (row : EvRow) (v : Nat) : (logRow s u e d row).fenced v = s.fenced v := by
  have count : (if row.rec' then recCount s u e else s).fenced v = s.fenced v := by
    split
    · exact recCount_fenced s u e v
    · rfl
  unfold logRow
  dsimp only
  generalize (if row.rec' then recCount s u e else s) = t at count ⊢
  have hist : (if row.hist then t.modBlk u fun b => fltRecord b (fltEntry t e d row.cls) row.irq t.clk.core else t).fenced v =
      s.fenced v := by
    split
    · exact (modBlk_fenced t u v fun b => fltRecord_fenced b _ _ _).trans count
    · exact count
  split <;> exact hist

theorem note_fenced (s : Hw) (u e : Nat) (d : BitVec 16) (v : Nat) : (note s u e d).fenced v = s.fenced v := by
  unfold note
  split
  · exact logRow_fenced s u e d _ v
  · rfl

/-- The block with the census blanked. -/
def Hw.sansCensus (s : Hw) : Hw := { s with cen := {} }

theorem cenFence_sansCensus (s : Hw) (u : Nat) : (cenFence s u).sansCensus = s.sansCensus := by
  unfold cenFence
  split
  · refine foldl_keeps Hw.sansCensus cenLatch (fun t off => ?_) _ s
    unfold cenLatch
    split <;> rfl
  · rfl

/-- A change of mode changes the mode controller and the log alone. -/
theorem setMode_keeps (s : Hw) (m : Mode) : (∀ v, (setMode s m).fenced v = s.fenced v) ∧ (setMode s m).mm = s.mm ∧
    (setMode s m).clk = s.clk := by
  unfold setMode
  split
  · exact ⟨fun _ => rfl, rfl, rfl⟩
  · exact ⟨fun v => note_fenced _ _ _ _ v, note_mm _ _ _ _, note_clk _ _ _ _⟩

/-- A port that serves nothing any more loses no work with its fence. -/
theorem mmFenced_orphans {s : Hw} {p : Nat} (idle : s.Idle) (h : ∀ t ∈ s.mm.txns, t.port = p → t.owner = .orphan) :
    mmFenced s p = s := by
  have map : (s.mm.txns.map fun t => if t.port = p then { t with owner := TxnOwner.orphan } else t) = s.mm.txns := by
    refine (List.map_congr_left fun t ht => ?_).trans (List.map_id _)
    split
    · rename_i e
      rw [← h t ht e]
      rfl
    · rfl
  have ends : (s.mm.txns.filter fun t => t.port = p).foldl (fun s t => txnEnd s t (some stEngineFenced)) s = s := by
    refine foldl_keeps_mem (fun u : Hw => u) _ _ (fun t ht u => ?_) s
    obtain ⟨mem, port⟩ := List.mem_filter.mp ht
    simp [txnEnd, h t mem (by simpa using port)]
  unfold mmFenced
  simp only [map, ends, reissueAll_idle idle, ucGo_idle idle]

/-- The rows of a port's violation and of its time-out fence it. -/
theorem globalRow_mmPort : ∀ p < 32, globalRow (mmUnit p) 0x40 = some rowFence ∧ globalRow (mmUnit p) 0x41 = some rowFence := by
  decide

/-- The block with the fault blocks, the recorder, err_o and the census blanked. -/
def Hw.sansFaults (s : Hw) : Hw := { s.sansLog with cen := {} }

/-- A unit's fence event is logged, its fence set and counted, and its counters latched while a census runs. -/
def fenceMark (s : Hw) (u e : Nat) (row : EvRow) : Hw :=
  cenFence ((logRow s u e 0 row).modBlk u fun b => { b with fenced := true, fences := satInc b.fences }) u

theorem Hw.sansFaults_of_sansCensus {s t : Hw} (h : s.sansCensus = t.sansCensus) : s.sansFaults = t.sansFaults :=
  congrArg Hw.sansLog h

theorem Hw.sansFaults_of_sansLog {s t : Hw} (h : s.sansLog = t.sansLog) : s.sansFaults = t.sansFaults :=
  congrArg (fun u : Hw => { u with cen := {} }) h

theorem fenceMark_sansFaults (s : Hw) (u e : Nat) (row : EvRow) : (fenceMark s u e row).sansFaults = s.sansFaults := by
  have log := Hw.sansFaults_of_sansLog (logRow_sansLog s u e 0 row)
  unfold fenceMark
  generalize logRow s u e 0 row = t at log ⊢
  exact (Hw.sansFaults_of_sansCensus (cenFence_sansCensus _ u)).trans log

theorem Hw.flt_of_sansCensus {s t : Hw} (h : s.sansCensus = t.sansCensus) : s.flt = t.flt := (congrArg Hw.flt h :)

theorem fenceMark_fenced (s : Hw) (u e : Nat) (row : EvRow) : (fenceMark s u e row).fenced u = true := by
  unfold fenceMark Hw.fenced Hw.blk
  rw [Hw.flt_of_sansCensus (cenFence_sansCensus _ u)]
  unfold Hw.modBlk
  rw [tget_tmod]

theorem Hw.mm_of_sansFaults {s t : Hw} (h : s.sansFaults = t.sansFaults) : s.mm = t.mm := (congrArg Hw.mm h :)

theorem Hw.clk_of_sansFaults {s t : Hw} (h : s.sansFaults = t.sansFaults) : s.clk = t.clk := (congrArg Hw.clk h :)

theorem Hw.Idle.of_sansFaults {s t : Hw} (i : t.Idle) (h : s.sansFaults = t.sansFaults) : s.Idle :=
  i.congr (congrArg Hw.pku h :) (congrArg Hw.hns h :) (congrArg Hw.ucode h :) (congrArg Hw.rings h :)

/-- An event that fences a unit in service. -/
theorem raise_fences {s : Hw} {u e : Nat} (row : eventRow s u e = some rowFence) (unfenced : s.fenced u = false) :
    raise s u e = if (fenceWork (fenceMark s u e rowFence) u).mc.mode = .full then
      setMode (fenceWork (fenceMark s u e rowFence) u) .degraded else fenceWork (fenceMark s u e rowFence) u := by
  have h : (logRow s u e 0 rowFence).fenced u = false := (logRow_fenced s u e 0 rowFence u).trans unfenced
  unfold raise
  simp only [row, h]
  rfl

theorem fenceWork_mmPort (s : Hw) {p : Nat} (hp : p < 32) : fenceWork s (mmUnit p) = mmFenced s p := by
  have port : mmUnit p - 0x90 = p := by unfold mmUnit; omega
  have h : 0x90 ≤ mmUnit p ∧ mmUnit p ≤ 0xAF := by unfold mmUnit; omega
  unfold fenceWork
  rw [if_neg (by omega), if_neg (by omega), if_neg (by omega), if_neg (by omega), if_neg (by omega), if_neg (by omega),
    if_pos (by simp [h]), port]

/-- An event that fences a port whose transactions serve nothing fences it, and leaves the transactions and the clock. -/
theorem raise_mmPort {s : Hw} {p e : Nat} (hp : p < 32) (he : e = 0x40 ∨ e = 0x41) (idle : s.Idle)
    (orphans : ∀ t ∈ s.mm.txns, t.port = p → t.owner = .orphan) (unfenced : s.fenced (mmUnit p) = false) :
    (raise s (mmUnit p) e).fenced (mmUnit p) = true ∧ (raise s (mmUnit p) e).mm = s.mm ∧
      (raise s (mmUnit p) e).clk = s.clk := by
  have row : eventRow s (mmUnit p) e = some rowFence := by
    unfold eventRow
    rw [if_neg (by unfold mmUnit; omega)]
    rcases he with rfl | rfl
    · exact (globalRow_mmPort p hp).1
    · exact (globalRow_mmPort p hp).2
  have keeps := fenceMark_sansFaults s (mmUnit p) e rowFence
  have mm := Hw.mm_of_sansFaults keeps
  have clk := Hw.clk_of_sansFaults keeps
  have fenced := fenceMark_fenced s (mmUnit p) e rowFence
  rw [raise_fences row unfenced, fenceWork_mmPort _ hp, mmFenced_orphans (idle.of_sansFaults keeps) (by rwa [mm])]
  generalize fenceMark s (mmUnit p) e rowFence = n at mm clk fenced ⊢
  split
  · obtain ⟨f, m, c⟩ := setMode_keeps n .degraded
    exact ⟨(f _).trans fenced, m.trans mm, c.trans clk⟩
  · exact ⟨fenced, mm, clk⟩

end Sys2Proof.Machine
end

section
namespace Sys2Proof.Machine

/-! ### The end of a transaction (R125, R433) -/

/-- The port of the only outstanding transaction finds it by its tag. -/
theorem mmFind_one {s : Hw} {x : Txn} (h : s.mm.txns = [x]) : mmFind s x.port x.write x.tag = some x := by
  simp [mmFind, h]

/-- A block whose transaction has been answered, an error logged. -/
def mmAnswered (s : Hw) (x : Txn) (bad : Bool) : Hw := if bad then note (mmDrop s x) (mmUnit x.port) 0x42 else mmDrop s x

theorem mmAnswered_sansLog (s : Hw) (x : Txn) (bad : Bool) : (mmAnswered s x bad).sansLog = (mmDrop s x).sansLog := by
  unfold mmAnswered
  split
  · exact note_sansLog _ _ _ _
  · rfl

theorem Hw.Idle.of_sansLog {s t : Hw} (i : t.Idle) (h : s.sansLog = t.sansLog) : s.Idle :=
  i.congr (congrArg Hw.pku h :) (congrArg Hw.hns h :) (congrArg Hw.ucode h :) (congrArg Hw.rings h :)

theorem Hw.Idle.of_sansJobs {s t : Hw} (i : t.Idle) (h : s.sansJobs = t.sansJobs) : s.Idle :=
  i.congr (congrArg Hw.pku h :) (congrArg Hw.hns h :) (congrArg Hw.ucode h :) (congrArg Hw.rings h :)

theorem Hw.job_of_sansLog {s t : Hw} (h : s.sansLog = t.sansLog) (k : Nat) : s.job k = t.job k := (congrArg (fun u : Hw => u.job k) h :)

theorem mmAnswered_idle {s : Hw} (idle : s.Idle) (x : Txn) (bad : Bool) : (mmAnswered s x bad).Idle :=
  Hw.Idle.of_sansLog (t := mmDrop s x) (idle.congr rfl rfl rfl rfl) (mmAnswered_sansLog s x bad)

theorem mmAnswered_job (s : Hw) (x : Txn) (bad : Bool) (k : Nat) : (mmAnswered s x bad).job k = s.job k :=
  Hw.job_of_sansLog (mmAnswered_sansLog s x bad) k

/-- A transaction that ends with nothing else to issue ends for the one it serves. -/
theorem mmEnd_idle {s : Hw} {x : Txn} (idle : (txnEnd (mmAnswered s x x.bad) x (if x.bad then some stWindowFault else none)).Idle) :
    mmEnd s x = txnEnd (mmAnswered s x x.bad) x (if x.bad then some stWindowFault else none) :=
  mmGo_idle idle x.port

/-- The acknowledgement of a SIGNAL's write ends the SIGNAL. -/
theorem mmEnd_signal {s : Hw} {x : Txn} {key : Nat} {j : Job} (idle : s.Idle) (owner : x.owner = .signal key) (job : s.job key = some j) :
    mmEnd s x = finishFree (mmAnswered s x x.bad) key (if x.bad then stWindowFault else stOk) := by
  have e : txnEnd (mmAnswered s x x.bad) x (if x.bad then some stWindowFault else none) =
      finishFree (mmAnswered s x x.bad) key (if x.bad then stWindowFault else stOk) := by
    have present : ((mmAnswered s x x.bad).job key).isSome = true := by rw [mmAnswered_job, job]; rfl
    unfold txnEnd
    rw [owner]
    simp only [present, if_true]
    cases x.bad <;> rfl
  rw [mmEnd_idle (e ▸ (mmAnswered_idle idle x x.bad).of_sansJobs (finishFree_sansJobs _ _ _)), e]

theorem mmWrote_found {s : Hw} {p : Nat} {tag : BitVec 7} {x : Txn} (answers : mmAnswers s p = true)
    (found : mmFind s p true tag = some x) (err : Bool) :
    mmWrote p tag err s = mmEnd (s.modMmp p fun m => { m with wrBeats := satInc m.wrBeats x.beats }) { x with bad := err } := by
  simp [mmWrote, answers, found]

theorem finish_mm (s : Hw) (k : Nat) (st : BitVec 8) (r : Word) : (finish s k st r).mm = s.mm :=
  (congrArg Hw.mm (finish_sansJobs s k st r) :)

/-- A ticket's job stands in a block with the same contexts, jobs and ready list that takes commands too. -/
theorem Works.congr {s h : Hw} {c t : Nat} {j : Job} (works : Works s c t j) (awake : h.inert = s.inert) (jobs : h.jobs = s.jobs)
    (ctxs : h.ctxs = s.ctxs) (ready : h.rm.ready = s.rm.ready) : Works h c t j := by
  have ctx := Hw.ctx_congr ctxs c
  obtain ⟨a, ticket, job, used, unposted, wanted, settled⟩ := works
  exact ⟨awake.trans a, ticket, by unfold Hw.job; rw [jobs]; exact job,
    ctx ▸ used, ctx ▸ unposted, ctx ▸ wanted, settled.congr ctxs ready⟩

/-- The end of a job of a running request, in a block with the same contexts and the same ready list. -/
theorem Works.job_ends {s h : Hw} {c t : Nat} {j : Job} (works : Works s c t j) (ctxs : h.ctxs = s.ctxs)
    (ready : h.rm.ready = s.rm.ready) (st : BitVec 8) (r : Word) :
    (finish h (jobKey c t) st r).Done c t st ∧ (((finish h (jobKey c t) st r).ctx c).tk t).result = r ∧
      (finish h (jobKey c t) st r).Settled := by
  obtain ⟨done, result⟩ := finish_done h c works.ticket st r
  have ctx := Hw.ctx_congr ctxs c
  exact ⟨done, result, finish_settled (works.settled.congr ctxs ready) works.ticket (by rw [ctx, works.unposted])
    (by rw [ctx, works.wanted]) st r⟩

theorem mmAnswered_ctxs (s : Hw) (x : Txn) (bad : Bool) : (mmAnswered s x bad).ctxs = s.ctxs :=
  (congrArg Hw.ctxs (mmAnswered_sansLog s x bad) :)

theorem mmAnswered_ready (s : Hw) (x : Txn) (bad : Bool) : (mmAnswered s x bad).rm.ready = s.rm.ready :=
  (congrArg (fun u : Hw => u.rm.ready) (mmAnswered_sansLog s x bad) :)

theorem mmAnswered_mm (s : Hw) (x : Txn) (bad : Bool) : (mmAnswered s x bad).mm = (mmDrop s x).mm :=
  (congrArg Hw.mm (mmAnswered_sansLog s x bad) :)

theorem Hw.modMmp_mmp (s : Hw) (p : Nat) (f : MmPort → MmPort) : (s.modMmp p f).mmp p = f (s.mmp p) := tget_tmod _ _ p f

theorem mmDrop_one {s : Hw} {x : Txn} (h : s.mm.txns = [x]) : (mmDrop s x).mm.txns = [] := by
  simp [mmDrop, h]

/-- The end of the only transaction, a SIGNAL's write, completes the SIGNAL (R125). -/
theorem Works.signal_ends {s : Hw} {x : Txn} {c t : Nat} {j : Job} (works : Works s c t j) (idle : s.Idle)
    (txns : s.mm.txns = [x]) (owner : x.owner = .signal (jobKey c t)) (err : Bool) :
    (mmEnd s { x with bad := err }).Settled ∧ (mmEnd s { x with bad := err }).Done c t (if err then 0xA else 0x0) ∧
      (mmEnd s { x with bad := err }).mm.txns = [] ∧ (mmEnd s { x with bad := err }).mm.ports = s.mm.ports := by
  rw [mmEnd_signal (x := { x with bad := err }) idle owner works.job]
  have mm := mmAnswered_mm s { x with bad := err } err
  have ctxs := mmAnswered_ctxs s { x with bad := err } err
  have ready := mmAnswered_ready s { x with bad := err } err
  dsimp only
  generalize mmAnswered s { x with bad := err } err = n at mm ctxs ready ⊢
  obtain ⟨done, -, settled⟩ := works.job_ends (h := (drawFree n).2) ctxs ready
    (if err then stWindowFault else stOk) (Config.freeWord n.freeCount)
  have ended : (finishFree n (jobKey c t) (if err then stWindowFault else stOk)).mm = n.mm :=
    (congrArg Hw.mm (finishFree_sansJobs n (jobKey c t) (if err then stWindowFault else stOk)) :)
  rw [ended, mm]
  exact ⟨settled, done, mmDrop_one (x := x) txns, rfl⟩

/-- The acknowledgement of a SIGNAL's write completes the SIGNAL, its beats counted (R125, R433). -/
theorem Works.signal_acknowledged {s : Hw} {x : Txn} {c t : Nat} {j : Job} (works : Works s c t j) (idle : s.Idle)
    (answers : mmAnswers s x.port = true) (txns : s.mm.txns = [x]) (owner : x.owner = .signal (jobKey c t))
    (write : x.write = true) (err : Bool) :
    (mmWrote x.port x.tag err s).Settled ∧ (mmWrote x.port x.tag err s).Done c t (if err then 0xA else 0x0) ∧
      (mmWrote x.port x.tag err s).mm.txns = [] ∧
      ((mmWrote x.port x.tag err s).mmp x.port).wrBeats = satInc (s.mmp x.port).wrBeats x.beats := by
  have counted := s.modMmp_mmp x.port fun m => { m with wrBeats := satInc m.wrBeats x.beats }
  rw [mmWrote_found answers (write ▸ mmFind_one txns)]
  have works' := works.congr (h := s.modMmp x.port fun m => { m with wrBeats := satInc m.wrBeats x.beats }) rfl rfl rfl rfl
  obtain ⟨settled, done, none_left, ports⟩ := works'.signal_ends (idle.congr rfl rfl rfl rfl) txns owner err
  refine ⟨settled, done, none_left, ?_⟩
  unfold Hw.mmp at counted ⊢
  rw [ports, counted]

end Sys2Proof.Machine
end

section
namespace Sys2Proof.Machine

/-! ### The fields of a sub-range (R115) -/

theorem testBit_fld {w : Nat} (v : BitVec w) (lo len i : Nat) : (fld v lo len).testBit i = (decide (i < len) && v.getLsbD (lo + i)) := by
  simp [fld, BitVec.getLsbD, Nat.testBit_mod_two_pow, Nat.testBit_shiftRight]

theorem getLsbD_put (lo len v i : Nat) :
    (put lo len v).getLsbD i = (decide (i < 64) && (decide (lo ≤ i) && (decide (i - lo < len) && v.testBit (i - lo)))) := by
  simp [put, BitVec.getLsbD_ofNat, Nat.testBit_mod_two_pow, Nat.testBit_shiftLeft]

theorem getLsbD_putb (lo i : Nat) (b : Bool) :
    (putb lo b).getLsbD i = (decide (i < 64) && (decide (lo ≤ i) && (decide (i - lo < 1) && b.toNat.testBit (i - lo)))) :=
  getLsbD_put lo 1 b.toNat i

theorem rgHnd_rgSub (r : Word) (i n : Nat) : rgHnd (rgSub r i n) = rgHnd r := by
  apply Nat.eq_of_testBit_eq
  intro k
  by_cases h : k < 4
  · have h1 : ¬32 ≤ 22 + k := by omega
    have h2 : ¬26 ≤ 22 + k := by omega
    have h3 : ¬22 + k < 22 := by omega
    have h4 : 22 + k < 64 := by omega
    simp [rgHnd, rgSub, testBit_fld, getLsbD_put, getLsbD_putb, -BitVec.getLsbD_eq_getElem, h, h1, h2, h3, h4]
  · simp [rgHnd, testBit_fld, h]

theorem rgScr_rgSub (r : Word) (i n : Nat) : rgScr (rgSub r i n) = rgScr r := by
  cases h : r.getLsbD 26 <;> simp [rgScr, bit, rgSub, getLsbD_put, getLsbD_putb, -BitVec.getLsbD_eq_getElem, h]

theorem rgOff_rgSub (r : Word) {i : Nat} (n : Nat) (h : rgOff r + i < 2 ^ 22) : rgOff (rgSub r i n) = rgOff r + i := by
  apply Nat.eq_of_testBit_eq
  intro k
  by_cases hk : k < 22
  · have h1 : ¬32 ≤ k := by omega
    have h2 : ¬26 ≤ k := by omega
    have h3 : ¬22 ≤ k := by omega
    have h4 : k < 64 := by omega
    simp [rgOff, rgSub, testBit_fld, getLsbD_put, getLsbD_putb, -BitVec.getLsbD_eq_getElem, hk, h1, h2, h3, h4]
  · have : (rgOff r + i).testBit k = false := Nat.testBit_lt_two_pow (h.trans_le (Nat.pow_le_pow_right (by omega) (by omega)))
    rw [this]
    simp [rgOff, testBit_fld, hk]

/-- The first bytes of a range in a handle. -/
theorem rgWrite_rgSub_zero (s : Hw) (c : Nat) {r : Word} (scr : rgScr r = false) (n : Nat) (b : Bytes) :
    rgWrite s c (rgSub r 0 n) b = hndWrite s ((s.ctx c).hnd (rgHnd r)) (rgOff r) b := by
  rw [rgWrite, rgScr_rgSub, rgHnd_rgSub, rgOff_rgSub r n (fld_lt r 0 22), scr]
  rfl

/-! ### The last beat of a load (R27, R121, R433) -/

/-- The settling of a load whose pieces have all come ends it OK, with the bytes moved. -/
theorem xferSettle_load {s : Hw} {key : Nat} {j : Job} {addr r : Word} (job : s.job key = some j) (op : j.op = .xload addr r)
    (phase : j.phase = .running) (moved : j.pos = rgLen r) (done : outstanding j = 0) (going : j.stopped = false) :
    xferSettle s key = finishTransfer s key j stOk := by
  have issued : xferIssued (s.ctx (key / 16)) j = true := by simp [xferIssued, xferBytes, xferList, xferRange, op, moved]
  unfold xferSettle
  simp only [job]
  simp [isXfer, xferDecided, xferStatus, op, done, phase, going, issued]

/-- The only piece of a load lands at the start of its range and completes the load. -/
theorem pieceDone_load {s : Hw} {key : Nat} {j : Job} {addr r : Word} (job : s.job key = some j) (op : j.op = .xload addr r)
    (phase : j.phase = .running) (moved : j.pos = rgLen r) (pieces : j.pieces = [⟨rgLen r, 1, false⟩]) (going : j.stopped = false)
    (scr : rgScr r = false) (data : Bytes) :
    ∃ m, pieceDone s key 0 0 data none = finish m key stOk (BitVec.ofNat 64 (rgLen r)) ∧
      m.sansJobs = s.sansJobs ∧ m.ctxs = s.ctxs ∧
      m.cs.bytes = hndPut s.cs.bytes ((s.ctx (key / 16)).hnd (rgHnd r)) (rgOff r) data := by
  refine ⟨(hndWrite s ((s.ctx (key / 16)).hnd (rgHnd r)) (rgOff r) data).setJob key { j with pieces := [⟨rgLen r, 0, false⟩] },
    ?_, rfl, rfl, rfl⟩
  have inward : j.outward = false := by simp [Job.outward, op]
  have range : xferRange j = r := by simp [xferRange, op]
  have e : pieceDone s key 0 0 data none =
      xferSettle ((hndWrite s ((s.ctx (key / 16)).hnd (rgHnd r)) (rgOff r) data).setJob key
        { j with pieces := [⟨rgLen r, 0, false⟩] }) key := by
    unfold pieceDone
    simp only [job, inward, range, rgWrite_rgSub_zero s _ scr, countBytes, op, pieces]
    rfl
  rw [e, xferSettle_load (j := { j with pieces := [⟨rgLen r, 0, false⟩] }) (Hw.setJob_job _ _ _) op phase moved rfl going]
  simp [finishTransfer, movedBytes]

/-- The last beat of a read that has come whole ends its transaction. -/
theorem mmRead_found {s : Hw} {p : Nat} {tag : BitVec 7} {x : Txn} (answers : mmAnswers s p = true)
    (found : mmFind s p false tag = some x) (beats : x.beats = 1) (empty : x.data = []) (good : x.bad = false) (data : BitVec 256) :
    mmRead p tag data true false s =
      mmEnd (s.modMmp p fun m => { m with rdBeats := satInc m.rdBeats }) { x with data := leBytes 32 data.toNat, bad := false } := by
  simp [mmRead, answers, found, beats, empty, good, leBytes_length]

/-- The end of the only transaction, the one beat of a load: its bytes land and the load completes (R27, R433). -/
theorem Works.load_ends {s : Hw} {x : Txn} {c t : Nat} {j : Job} {addr r : Word} (works : Works s c t j) (idle : s.Idle)
    (txns : s.mm.txns = [x]) (owner : x.owner = .piece (jobKey c t) 0 0) (op : j.op = .xload addr r) (phase : j.phase = .running)
    (moved : j.pos = rgLen r) (pieces : j.pieces = [⟨rgLen r, 1, false⟩]) (going : j.stopped = false) (scr : rgScr r = false)
    (data : Bytes) :
    let h := mmEnd s { x with data := data, bad := false }
    h.Settled ∧ h.Done c t 0 ∧ ((h.ctx c).tk t).result = BitVec.ofNat 64 (rgLen r) ∧
      h.cs.bytes = hndPut s.cs.bytes ((s.ctx c).hnd (rgHnd r)) (rgOff r) ((data.drop (x.addr % 32)).take x.want) ∧
      h.mm.txns = [] := by
  intro h
  have job : (mmDrop s x).job (jobKey c t) = some j := works.job
  obtain ⟨m, landed, jobs, ctxs, bytes⟩ :=
    pieceDone_load job op phase moved pieces going scr ((data.drop (x.addr % 32)).take x.want)
  have e : txnEnd (mmDrop s x) { x with data := data, bad := false } none =
      finish m (jobKey c t) stOk (BitVec.ofNat 64 (rgLen r)) := by
    rw [← landed]
    simp only [txnEnd, owner]
    rfl
  have ends : h = mmGo (txnEnd (mmDrop s x) { x with data := data, bad := false } none) x.port := rfl
  have idle' : (mmDrop s x).Idle := idle.congr rfl rfl rfl rfl
  have ready : m.rm.ready = s.rm.ready := (congrArg (fun u : Hw => u.rm.ready) jobs :)
  have mm : m.mm = (mmDrop s x).mm := (congrArg Hw.mm jobs :)
  rw [ends, e, mmGo_idle (idle'.of_sansJobs ((finish_sansJobs m (jobKey c t) stOk _).trans jobs))]
  obtain ⟨done, result, settled⟩ := works.job_ends ctxs ready stOk (BitVec.ofNat 64 (rgLen r))
  rw [finish_cs_bytes, bytes, finish_mm, mm, jobKey_div c works.ticket]
  exact ⟨settled, done, result, rfl, mmDrop_one txns⟩

/-- The one beat of the only transaction, a load's, lands in its range and completes the load (R27, R121, R432). -/
theorem Works.load_arrives {s : Hw} {x : Txn} {c t : Nat} {j : Job} {addr r : Word} (works : Works s c t j) (idle : s.Idle)
    (answers : mmAnswers s x.port = true) (txns : s.mm.txns = [x]) (owner : x.owner = .piece (jobKey c t) 0 0)
    (write : x.write = false) (beats : x.beats = 1) (empty : x.data = []) (good : x.bad = false) (op : j.op = .xload addr r)
    (phase : j.phase = .running) (moved : j.pos = rgLen r) (pieces : j.pieces = [⟨rgLen r, 1, false⟩]) (going : j.stopped = false)
    (scr : rgScr r = false) (data : BitVec 256) :
    let h := mmRead x.port x.tag data true false s
    h.Settled ∧ h.Done c t 0 ∧ ((h.ctx c).tk t).result = BitVec.ofNat 64 (rgLen r) ∧
      h.cs.bytes = hndPut s.cs.bytes ((s.ctx c).hnd (rgHnd r)) (rgOff r)
        (((leBytes 32 data.toNat).drop (x.addr % 32)).take x.want) ∧ h.mm.txns = [] := by
  rw [mmRead_found answers (write ▸ mmFind_one txns) beats empty good data]
  have works' := works.congr (h := s.modMmp x.port fun m => { m with rdBeats := satInc m.rdBeats }) rfl rfl rfl rfl
  exact works'.load_ends (idle.congr rfl rfl rfl rfl) txns owner op phase moved pieces going scr _

end Sys2Proof.Machine
end

section
namespace Sys2Proof.Machine

/-! ### The next piece of a load (R26, R34, R434) -/

theorem outward_load {j : Job} {addr r : Word} (op : j.op = .xload addr r) : j.outward = false := by simp [Job.outward, op]

theorem fromReleased_load (x : Ctx) {j : Job} {addr r : Word} (op : j.op = .xload addr r) : fromReleased x j = false := by
  simp [fromReleased, outward_load op]

theorem xferIssued_load (x : Ctx) {j : Job} {addr r : Word} (op : j.op = .xload addr r) :
    xferIssued x j = decide (rgLen r ≤ j.pos) := by
  simp [xferIssued, xferBytes, xferList, xferRange, op]

/-- The length of a load's next piece: what is left, as far as its 4 KiB page goes. -/
theorem xferCut_load (x : Ctx) {j : Job} {addr r : Word} (op : j.op = .xload addr r) (inside : addr.toNat + j.pos < 2 ^ 64) :
    xferCut x j = some (addr.toNat + j.pos, min (rgLen r - j.pos) (4096 - (addr.toNat + j.pos) % 4096)) := by
  have h := Nat.mod_eq_of_lt inside
  simp only [xferCut, xferNext, op, h, Option.map_some]

/-- Bytes within one 512 B block are one transaction. -/
theorem cutsOf_one {a n : Nat} (some_ : 0 < n) (h : n ≤ 512 - a % 512) : cutsOf a n = [(0, n)] := by
  have cut : min n (512 - a % 512) = n := Nat.min_eq_left h
  simp [cutsOf, txnCuts, cut, Nat.ne_of_gt some_]

/-- A piece of a load that no window permits stops it. -/
theorem xferPiece_load_refused {s : Hw} {key : Nat} {j : Job} {addr r : Word} (op : j.op = .xload addr r) (left : j.pos < rgLen r)
    (inside : addr.toNat + j.pos < 2 ^ 64)
    (refused : winCheck (s.cfgOf (key / 16)) (s.ctx (key / 16)).domain (addr.toNat + j.pos) false = none) :
    xferPiece s key j [] = xferStop s key stWindowFault := by
  have here : ¬peerBase ≤ addr.toNat + j.pos := Nat.not_le.mpr inside
  simp only [xferPiece, op, outward_load op, fromReleased_load _ op, xferIssued_load _ op, xferCut_load _ op inside, scrubWaits,
    refused, if_neg here, decide_eq_false (Nat.not_le.mpr left), Bool.false_and, Bool.and_false, Bool.false_eq_true, if_false]

/-- A piece of a load that a window permits is issued at its port in its turn. -/
theorem xferPiece_load_issues {s t : Hw} {key p n : Nat} {j : Job} {addr r : Word} {attr : BitVec 4} (op : j.op = .xload addr r)
    (left : j.pos < rgLen r) (inside : addr.toNat + j.pos < 2 ^ 64)
    (len : min (rgLen r - j.pos) (4096 - (addr.toNat + j.pos) % 4096) = n)
    (permitted : winCheck (s.cfgOf (key / 16)) (s.ctx (key / 16)).domain (addr.toNat + j.pos) false = some attr)
    (port : xferPort s j = some p) (room : mmRoom s p false (cutsOf (addr.toNat + j.pos) n).length = true)
    (turn : portTurn s p key (j.port != some p) = some t) :
    xferPiece s key j [] = issuePiece t key j p (addr.toNat + j.pos) n attr := by
  have here : ¬peerBase ≤ addr.toNat + j.pos := Nat.not_le.mpr inside
  simp only [xferPiece, op, outward_load op, fromReleased_load _ op, xferIssued_load _ op, xferCut_load _ op inside, scrubWaits,
    len, permitted, port, room, turn, xferRead, if_neg here, decide_eq_false (Nat.not_le.mpr left), Bool.false_and, Bool.and_false,
    Bool.false_eq_true, if_false, Bool.not_false, if_true]

/-- The only transfer of all has its turn at its port. -/
theorem portTurn_one {s : Hw} {p key : Nat} {j : Job} {a n : Nat} (jobs : s.jobs = [(key, j)])
    (cut : xferCut (s.ctx (key / 16)) j = some (a, n)) (here : a < peerBase) (some_ : 0 < n) (new : Bool) :
    ∃ arb, portTurn s p key new = some (s.modMmp p fun m => { m with arb := arb }) := by
  have asks : portAsks s p key = [⟨key, (s.ctx (key / 16)).domain, j.seq, beatsOf a n⟩] := by
    simp [portAsks, jobs, cut, Nat.not_le.mpr here, Nat.ne_of_gt some_]
  obtain ⟨arb, h⟩ := arbPick_one (domWeight s.active) (s.ctx (key / 16)).domain (beatsOf a n)
    (if new = true then (s.mmp p).arb.arrive (s.ctx (key / 16)).domain false else (s.mmp p).arb) (one_le_domWeight _ _)
  unfold portTurn
  simp only [asks]
  exact ⟨arb, by simp [risingNats, insertNat, leastBy, h]⟩

/-- One transaction of a read is issued under its port's lowest free tag. -/
theorem mmPiece_one {s : Hw} {p addr n tag : Nat} (tagged : mmTag s p false = some tag) (cuts : cutsOf addr n = [(0, n)])
    (data : Bytes) (d : Nat) (attr : BitVec 4) (o : Nat → TxnOwner) :
    mmPiece s p false addr n data d attr o = { s with mm := { s.mm with txns := s.mm.txns ++ [
      { port := p, tag := BitVec.ofNat 7 tag, write := false, addr := addr % 2 ^ 64, want := n, beats := beatsOf addr n, data := []
        domain := BitVec.ofNat 12 d, attr := attr, issuedAt := s.clk.core, owner := o 0 }] } } := by
  simp [mmPiece, cuts, mmIssue, tagged]

theorem pieceIssue_load {s : Hw} {c t : Nat} {j : Job} {addr r : Word} (job : s.job (jobKey c t) = some j)
    (op : j.op = .xload addr r) (phase : j.phase = .running) : pieceIssue c t [] s = xferPiece s (jobKey c t) j [] := by
  simp [pieceIssue, job, op, phase]

/-- A transaction that reads n bytes at an address for a domain. -/
def Txn.Reads (u : Txn) (p addr n d : Nat) (attr : BitVec 4) : Prop :=
  u.port = p ∧ u.write = false ∧ u.addr = addr ∧ u.want = n ∧ u.attr = attr ∧ u.domain = BitVec.ofNat 12 d

/-- A piece of a load within one 512 B block is one read transaction. -/
theorem issuePiece_load {s : Hw} {key p addr n tag : Nat} {j : Job} {a r : Word} (op : j.op = .xload a r)
    (phase : j.phase = .running) (port : j.port = some p) (inside : addr < 2 ^ 64) (tagged : mmTag s p false = some tag)
    (cuts : cutsOf addr n = [(0, n)]) (attr : BitVec 4) :
    (issuePiece s key j p addr n attr).ctxs = s.ctxs ∧ (issuePiece s key j p addr n attr).rm = s.rm ∧
      (issuePiece s key j p addr n attr).job key = some { j with pos := j.pos + n, pieces := j.pieces ++ [⟨n, 1, false⟩] } ∧
      ∃ u : Txn, (issuePiece s key j p addr n attr).mm.txns = s.mm.txns ++ [u] ∧
        u.Reads p addr n (s.ctx (key / 16)).domain attr := by
  unfold issuePiece
  simp only [outward_load op, fromReleased_load _ op, Bool.false_eq_true, if_false, mmPiece_one tagged cuts, Hw.setJob_job]
  refine ⟨rfl, rfl, ?_, _, rfl, rfl, rfl, Nat.mod_eq_of_lt inside, rfl, rfl, rfl⟩
  rw [cuts, ← phase, ← port]
  rfl

/-- The next piece of the one transfer at its port, a load that a window permits, is issued there (R26, R434). -/
theorem Works.piece_issued {s : Hw} {c t p tag n : Nat} {j : Job} {addr r : Word} {attr : BitVec 4} (works : Works s c t j)
    (op : j.op = .xload addr r) (phase : j.phase = .running) (left : j.pos < rgLen r) (inside : addr.toNat + j.pos < 2 ^ 64)
    (len : min (rgLen r - j.pos) (4096 - (addr.toNat + j.pos) % 4096) = n) (short : n ≤ 512 - (addr.toNat + j.pos) % 512)
    (permitted : winCheck (s.cfgOf c) (s.ctx c).domain (addr.toNat + j.pos) false = some attr) (jobs : s.jobs = [(jobKey c t, j)])
    (port : j.port = some p) (usable : mmUsable s p = true) (tagged : mmTag s p false = some tag) (room : mmOut s p false < 128) :
    (pieceIssue c t [] s).Settled ∧ (pieceIssue c t [] s).job (jobKey c t) =
        some { j with pos := j.pos + n, pieces := j.pieces ++ [⟨n, 1, false⟩] } ∧
      ∃ u : Txn, (pieceIssue c t [] s).mm.txns = s.mm.txns ++ [u] ∧ u.Reads p (addr.toNat + j.pos) n (s.ctx c).domain attr := by
  have some_ : 0 < n := by omega
  have cuts := cutsOf_one some_ short
  have div := jobKey_div c works.ticket
  have cut := xferCut_load (s.ctx (jobKey c t / 16)) op inside
  obtain ⟨arb, turn⟩ := portTurn_one (p := p) jobs (cut.trans (by rw [len])) inside some_ (j.port != some p)
  have issue := xferPiece_load_issues op left inside len (by rwa [div]) (by simp [xferPort, port, usable])
    (by simp [mmRoom, cuts]; omega) turn
  rw [pieceIssue_load works.job op phase, issue]
  generalize hm : (s.modMmp p fun m => { m with arb := arb }) = m
  have ctxs : m.ctxs = s.ctxs := hm ▸ rfl
  have rm : m.rm = s.rm := hm ▸ rfl
  have txns : m.mm.txns = s.mm.txns := hm ▸ rfl
  have tagged' : mmTag m p false = some tag := by
    subst hm
    exact tagged
  obtain ⟨ctxs', rm', job, u, issued, reads⟩ := issuePiece_load (s := m) (key := jobKey c t) op phase port inside
    tagged' cuts attr
  rw [div, Hw.ctx_congr ctxs] at reads
  exact ⟨works.settled.congr (ctxs'.trans ctxs) (congrArg RingMgr.ready (rm'.trans rm)), job, u, txns ▸ issued, reads⟩

theorem outstanding_eq_zero {j : Job} (h : ∀ q ∈ j.pieces, q.out = 0) : outstanding j = 0 := by
  unfold outstanding
  generalize j.pieces = l at h
  induction l with
  | nil => rfl
  | cons q r ih => simpa [h q (by simp)] using ih fun p hp => h p (by simp [hp])

/-- The bytes of a transfer whose pieces have all come. -/
theorem movedBytes_come {j : Job} (h : ∀ q ∈ j.pieces, q.out = 0 ∧ q.bad = false) :
    movedBytes j = j.pieces.foldl (fun m q => m + q.len) 0 := by
  have all : j.pieces.takeWhile (fun p => !p.bad && p.out = 0) = j.pieces :=
    List.takeWhile_eq_self_iff.mpr fun q hq => by simp [h q hq]
  unfold movedBytes
  rw [all]

/-- A load stopped with all its pieces come ends at once. -/
theorem xferStop_load {s : Hw} {key : Nat} {j : Job} {addr r : Word} (job : s.job key = some j) (op : j.op = .xload addr r)
    (going : j.stopped = false) (pieces : ∀ q ∈ j.pieces, q.out = 0 ∧ q.bad = false) (st : BitVec 8) :
    ∃ m, xferStop s key st = finish m key st (BitVec.ofNat 64 (j.pieces.foldl (fun m q => m + q.len) 0)) ∧
      m.ctxs = s.ctxs ∧ m.rm = s.rm ∧ m.mm = s.mm ∧ m.cs = s.cs := by
  refine ⟨s.setJob key { j with stopped := true, phase := .closing, final := st }, ?_, rfl, rfl, rfl, rfl⟩
  have e : xferStop s key st = xferSettle (s.setJob key { j with stopped := true, phase := .closing, final := st }) key := by
    simp [xferStop, job, going]
  rw [e]
  have stopped := s.setJob_job key { j with stopped := true, phase := .closing, final := st }
  generalize hk : ({ j with stopped := true, phase := .closing, final := st } : Job) = k at stopped ⊢
  generalize s.setJob key k = m at stopped ⊢
  have none_out : outstanding k = 0 := outstanding_eq_zero fun q hq => by subst hk; exact (pieces q hq).1
  have come : movedBytes k = j.pieces.foldl (fun m q => m + q.len) 0 := by subst hk; exact movedBytes_come pieces
  have good : k.pieces.any (·.bad) = false := by
    subst hk
    exact List.any_eq_false.mpr fun q hq => by simp [(pieces q hq).2]
  have whole : undefineTail m key k = m := by simp [undefineTail, good]
  have state : isXfer k = true ∧ k.phase = .closing ∧ k.stopped = true ∧ k.final = st := by
    subst hk
    simp [isXfer, op]
  obtain ⟨xfer, phase, halted, final⟩ := state
  simp [xferSettle, stopped, none_out, whole, finishTransfer, come, xfer, phase, halted, final]

/-- The next piece of a load that no window permits ends it WINDOW_FAULT with the bytes of its pieces, all come (R27). -/
theorem Works.piece_refused {s : Hw} {c t : Nat} {j : Job} {addr r : Word} (works : Works s c t j) (op : j.op = .xload addr r)
    (phase : j.phase = .running) (left : j.pos < rgLen r) (going : j.stopped = false) (inside : addr.toNat + j.pos < 2 ^ 64)
    (pieces : ∀ q ∈ j.pieces, q.out = 0 ∧ q.bad = false)
    (refused : winCheck (s.cfgOf c) (s.ctx c).domain (addr.toNat + j.pos) false = none) :
    (pieceIssue c t [] s).Settled ∧ (pieceIssue c t [] s).Done c t 0xA ∧
      (((pieceIssue c t [] s).ctx c).tk t).result = BitVec.ofNat 64 (j.pieces.foldl (fun m q => m + q.len) 0) ∧
      (pieceIssue c t [] s).mm = s.mm ∧ (pieceIssue c t [] s).cs.bytes = s.cs.bytes := by
  obtain ⟨m, stop, ctxs, rm, mm, cs⟩ := xferStop_load works.job op going pieces stWindowFault
  have e := (pieceIssue_load works.job op phase).trans ((xferPiece_load_refused op left inside
    (by rwa [jobKey_div c works.ticket])).trans stop)
  obtain ⟨done, result, settled⟩ := works.job_ends ctxs (congrArg RingMgr.ready rm) stWindowFault
    (BitVec.ofNat 64 (j.pieces.foldl (fun m q => m + q.len) 0))
  rw [e]
  exact ⟨settled, done, result, (finish_mm _ _ _ _).trans mm, (finish_cs_bytes _ _ _ _).trans (congrArg CentralStore.bytes cs)⟩

end Sys2Proof.Machine
end

section
namespace Sys2Proof.Machine

/-! ### Answers that fence a port (R352) -/

theorem mmUsable_spec {s : Hw} {p : Nat} (h : mmUsable s p = true) : s.fenced (mmUnit p) = false ∧ mmAnswers s p = true := by
  simpa [mmUsable, mmAnswers] using h

/-- An answer that fits no transaction fences the port. -/
theorem mmViolates_fences {s : Hw} {p : Nat} (hp : p < 32) (idle : s.Idle) (usable : mmUsable s p = true)
    (txns : s.mm.txns = []) : (mmViolates s p).fenced (mmUnit p) = true := by
  have unfenced := (mmUsable_spec usable).1
  obtain ⟨fenced, -, -⟩ := raise_mmPort hp (.inr rfl) idle (by simp [txns]) unfenced
  simpa [mmViolates, unfenced] using fenced

/-- With nothing outstanding an answer of either direction violates the protocol. -/
theorem mm_answer_of_none {s : Hw} {p : Nat} (answers : mmAnswers s p = true) (txns : s.mm.txns = []) (tag : BitVec 7)
    (data : BitVec 256) (last err : Bool) : mmRead p tag data last err s = mmViolates s p ∧ mmWrote p tag err s = mmViolates s p := by
  have none_found : ∀ w, mmFind s p w tag = none := fun w => by simp [mmFind, txns]
  simp [mmRead, mmWrote, answers, none_found]

/-- The only transaction times out at its port, which is fenced. -/
theorem mmTimeout_one {s : Hw} {x : Txn} (hp : x.port < 32) (idle : s.Idle) (usable : mmUsable s x.port = true)
    (txns : s.mm.txns = [x]) (owner : x.owner = .orphan) :
    (mmTimeout x.port s).fenced (mmUnit x.port) = true ∧ (mmTimeout x.port s).mm.txns = [] ∧
      (mmTimeout x.port s).clk.core = max s.clk.core (x.issuedAt + mmLimit s x.port) := by
  have unfenced : (advanceTo s (x.issuedAt + mmLimit s x.port)).fenced (mmUnit x.port) = false := (mmUsable_spec usable).1
  obtain ⟨fenced, mm, clk⟩ := raise_mmPort (s := advanceTo s (x.issuedAt + mmLimit s x.port)) hp (.inl rfl)
    (idle.congr rfl rfl rfl rfl) (by simp [txns, owner]) unfenced
  have e : mmTimeout x.port s = mmDrop (raise (advanceTo s (x.issuedAt + mmLimit s x.port)) (mmUnit x.port) 0x40) x := by
    simp [mmTimeout, txns, leastBy, unfenced]
  rw [e]
  exact ⟨fenced, mmDrop_one ((congrArg MmPorts.txns mm).trans txns), congrArg Clock.core clk⟩

theorem settleAll_fenced (s : Hw) (u : Nat) : (settleAll s).fenced u = s.fenced u := by simp [Hw.fenced, Hw.blk]

end Sys2Proof.Machine

open Sys2Proof Sys2Proof.Machine

/-- Settles O27: a piece that has its turn is issued or refused by its window, an answer ends the one transaction it
finds, and one that finds none, or does not come, fences the port. -/
theorem memoryPortsCarry : Obligations.MemoryPortsCarry := by
  unfold Obligations.MemoryPortsCarry
  refine ⟨fun s c t j port tag data err x addr value r => ?_, fun s c t j addr r p tag => ?_⟩
  · intro key p idle bytes quiet awake usable
    have idle : s.hw.Idle := ⟨quiet.1, quiet.2.1, quiet.2.2.1, quiet.2.2.2⟩
    obtain ⟨-, answers⟩ := mmUsable_spec usable
    have range : p < 32 := port.isLt
    refine ⟨?_, ?_, fun txns => ?_, fun txns hp owner => ?_⟩
    · rintro works txns hp rfl owner - write
      obtain ⟨settled, done, rest, beats⟩ := works.signal_acknowledged idle (hp ▸ answers) txns owner write err
      rw [hp] at settled done rest beats
      exact completes_work (f := mmWrote p x.tag err) rfl awake settled ⟨done, rest, fun _ => beats⟩
    · rintro works txns hp rfl owner write beats empty good want - op phase moved pieces going scr
      obtain ⟨settled, ends⟩ := works.load_arrives idle (hp ▸ answers) txns owner write beats empty good op phase moved pieces
        going scr data
      rw [hp] at settled ends
      exact completes_work (f := mmRead p x.tag data true false) rfl awake settled ends
    · obtain ⟨read, wrote⟩ := mm_answer_of_none answers txns tag data true err
      have fences := mmViolates_fences range idle usable txns
      exact ⟨completes_settleAll (f := mmRead p tag data true err) rfl awake (by rw [settleAll_fenced, read, fences]),
        completes_settleAll (f := mmWrote p tag err) rfl awake (by rw [settleAll_fenced, wrote, fences])⟩
    · obtain ⟨fenced, rest, clk⟩ := mmTimeout_one (hp ▸ range) idle (hp ▸ usable) txns owner
      rw [hp] at fenced rest clk
      refine completes_settleAll (f := mmTimeout p) rfl awake ⟨?_, ?_, ?_⟩
      · rw [settleAll_fenced, fenced]
      · rw [settleAll_mm, rest]
      · rw [settleAll_clk, clk]
        rfl
  · rintro key x a n works op phase left going inside pieces -
    refine ⟨fun attr permitted jobs port usable tagged room short => ?_, fun refused => ?_⟩
    · obtain ⟨settled, job, u, issued, hp, write, addr', want, attr', domain⟩ := works.piece_issued op phase left inside rfl short
        permitted jobs port usable tagged room
      exact completes_work (f := pieceIssue c.toNat t.toNat []) rfl works.awake settled
        ⟨⟨_, job, rfl, rfl⟩, u, issued, hp, write, addr', want, attr', domain⟩
    · obtain ⟨settled, ends⟩ := works.piece_refused op phase left going inside pieces refused
      exact completes_work (f := pieceIssue c.toNat t.toNat []) rfl works.awake settled ends
end

section
namespace Sys2Proof.Machine

/-! ### The configuration sets at reset (R23, R372) -/

/-- At reset no word of the set is listed but those of REC_POLICY and of domain 0's DOM_CTL. -/
theorem cfgWord_reset_zero {off : Nat} (h1 : off / 8 ≠ 0x1202) (h2 : off / 8 ≠ 0x20000) : cfgWord CfgSet.reset off = 0 := by
  unfold cfgWord CfgSet.reset
  simp only [tget, if_neg h1.symm, if_neg h2.symm]

theorem domValid_reset_ne_zero {d : Nat} (h : d ≠ 0) : domValid CfgSet.reset d = false := by
  unfold domValid domWord
  rw [cfgWord_reset_zero (by omega) (by omega)]
  simp [h, bit]

theorem ringEn_reset (n : Nat) : ringEn CfgSet.reset n = false := by
  unfold ringEn ringWord
  rw [cfgWord_reset_zero (by omega) (by omega)]
  simp [bit]

/-- No context holds a request at reset, so that no record is ready. -/
theorem reset_settled : State.reset.hw.Settled := fun _ ready => nomatch ready

end Sys2Proof.Machine

open Sys2Proof Sys2Proof.Machine

/-- Settles O58: the sets list two words, and every table is empty. -/
theorem resetLeaves : Obligations.ResetLeaves :=
  ⟨rfl, rfl, rfl, rfl, rfl, fun _ => domValid_reset_ne_zero, ringEn_reset, rfl, fun _ => rfl, rfl, rfl, rfl, fun _ => rfl,
    reset_settled⟩
end
section
namespace Sys2Proof.Machine

open Sys2Proof.Tests

/-- A command after which a test of the block passes does not complete with what the test excludes. -/
theorem not_completes_of_after {i : Instr} {s : State} {test : Hw → Bool} {P : Hw → Prop} (e : after i s test = true)
    (excludes : ∀ h, test h = true → ¬P h) : ¬Completes i s P := by
  rintro ⟨h, run, p⟩
  unfold after at e
  rw [run] at e
  exact excludes h e p

/-- A KCHK that its predecessors let go, for whose ticket a charge waits besides. -/
def strayCharge : Hw :=
  { work ctx0 kchkJob with keys := { full.keys with charges := [{ slot := 0, key := jobKey 0 0, units := 1, since := 0 }] } }

theorem strayCharge_works : Works strayCharge 0 0 kchkJob := works_of (by decide +kernel)

/-- The end of the KCHK gives the charge up (`releaseJob`). -/
theorem strayCharge_released : after (.jobPassedToEngine 0 0) (st strayCharge) (fun h => h.keys.charges = []) = true := by
  decide +kernel

end Sys2Proof.Machine

open Sys2Proof Sys2Proof.Machine Sys2Proof.Tests

/-- Refutes O17: a KCHK is to leave the key store as it is, but its end drops every charge that waits under its ticket, and a
state may list one (no KCHK of a run from reset ever has one). -/
theorem not_routerPassesJobs : ¬Obligations.RouterPassesJobs := by
  rintro ⟨passes, -⟩
  obtain ⟨-, -, -, goes⟩ := passes (st strayCharge) 0 0 kchkJob strayCharge_works rfl (by decide)
  obtain ⟨kchk, -⟩ := goes (by decide) (by decide +kernel)
  refine not_completes_of_after strayCharge_released (fun h dropped => ?_) (kchk _ rfl)
  rintro ⟨-, keys, -⟩
  rw [keys] at dropped
  cases dropped
end

section
namespace Sys2Proof.Machine

open Sys2Proof.Tests

/-- A waiting ALLOC of one buffer, for a domain whose CS_BUF is 0. -/
def overQuota : Hw :=
  { work allocating allocJob with active := tset 0 cfg0 0x20001 0, shadow := tset 0 cfg0 0x20001 0 }

theorem overQuota_works : Works overQuota 0 0 allocJob := works_of (by decide +kernel)

/-- CS_BUF is looked at before the pool (R30). -/
theorem overQuota_refused : after (.bufferAllocated 0 0) (st overQuota) (fun h => ((h.ctx 0).tk 0).status = 0x13) = true := by
  decide +kernel

end Sys2Proof.Machine

open Sys2Proof Sys2Proof.Machine Sys2Proof.Tests

/-- Refutes O18: `canAllocate` asks for free buffers and room in the pool, not for room under CS_BUF, so that a waiting ALLOC
that it passes completes QUOTA all the same when it would take its domain past CS_BUF. -/
theorem not_buffersComeAndGo : ¬Obligations.BuffersComeAndGo := by
  intro all
  obtain ⟨alloc, -⟩ := all (st overQuota) 0 0 allocJob 3 1 0 true
  obtain ⟨-, served⟩ := alloc overQuota_works rfl rfl (by decide +kernel)
  refine not_completes_of_after overQuota_refused (fun h quota => ?_) (served (by decide +kernel))
  rintro ⟨⟨-, ok⟩, -⟩
  have := of_decide_eq_true quota
  exact absurd (this.symm.trans ok) (by decide)
end

section
namespace Sys2Proof.Machine

open Sys2Proof.Tests

/-- A context whose record has committed, and one whose posted record is ready with plaintext held. Ticket 0 of the second has
two entries in the job table: an AES-XTS encryption with a unit reserved on slot 0, and behind it a store of the plaintext. -/
def doubled : Hw := { full with
  ctxs := [(0, { ctx0 with committed := true }),
    (1, { ctx0 with posted := some 0, cstreams := [(0, { undecided := true, held := [put 32 32 1] })] })]
  jobs := [(jobKey 1 0, { op := .ciph (blk [0x203]), started := true, span := 1 }),
    (jobKey 1 0, { op := .xstore 0 (put 32 32 1) })]
  keys := { full.keys with slots := [(0, { reserved := 1 })] } }

/-- With the store the held plaintext ends the encryption, which gives its reservation back (R461). -/
theorem doubled_released : after (.contextQuiesced 0) (st doubled) (fun h => h.keys.slots = []) = true := by
  decide +kernel

end Sys2Proof.Machine

open Sys2Proof Sys2Proof.Machine Sys2Proof.Tests

/-- Refutes O33: CONTEXT_QUIESCED is to leave the slots as they are, but it settles the other contexts too, and where a record
of one becomes ready with plaintext held, the work on that plaintext ends by its tickets. In a job table that lists a ticket
twice (none of a run from reset does) an AES-XTS job ends with it, and its slot loses a reservation. -/
theorem not_requestsEnd : ¬Obligations.RequestsEnd := by
  intro all
  obtain ⟨-, -, quiesced, -⟩ := all (st doubled) 0 req0 0 0 (fetched 0 .waiting) .ctla
  refine not_completes_of_after doubled_released (fun h released => ?_)
    (quiesced (by decide +kernel) (by decide +kernel) (.inl (by decide +kernel)) (by decide +kernel))
  rintro ⟨-, -, slots⟩
  rw [slots] at released
  cases released
end

section
namespace Sys2Proof.Machine

/-! ### Shifts and rotates of a word (R87) -/

/-- A left shift multiplies by a power of two. -/
theorem shiftL_eq (a : Word) (n : Nat) : shiftL a n = BitVec.ofNat 64 (a.toNat * 2 ^ n) := by
  apply BitVec.eq_of_toNat_eq
  unfold shiftL
  split
  · next h =>
    obtain ⟨k, rfl⟩ := Nat.exists_eq_add_of_le h
    have : a.toNat * 2 ^ (64 + k) = 2 ^ 64 * (a.toNat * 2 ^ k) := by rw [Nat.pow_add]; ac_rfl
    simp [this]
  · simp [Nat.shiftLeft_eq]

/-- A right shift with zero fill divides by a power of two. -/
theorem shiftR_eq (a : Word) (n : Nat) : shiftR a n = BitVec.ofNat 64 (a.toNat / 2 ^ n) := by
  apply BitVec.eq_of_toNat_eq
  have small : a.toNat / 2 ^ n < 2 ^ 64 := (Nat.div_le_self ..).trans_lt a.isLt
  rw [BitVec.toNat_ofNat, Nat.mod_eq_of_lt small]
  unfold shiftR
  split
  · next h => exact (Nat.div_eq_of_lt (a.isLt.trans_le (Nat.pow_le_pow_right (by decide) h))).symm
  · simp [Nat.shiftRight_eq_div_pow]

/-- A right shift with sign fill divides by a power of two and rounds down; from 64 on every bit is the sign. -/
theorem shiftA_eq (a : Word) (n : Nat) : shiftA a n = BitVec.ofInt 64 (a.toInt / 2 ^ n) := by
  have clip : a.sshiftRight (min n 64) = a.sshiftRight n := by
    apply BitVec.eq_of_getLsbD_eq
    intro i hi
    rw [BitVec.getLsbD_sshiftRight, BitVec.getLsbD_sshiftRight]
    by_cases h : n ≤ 64
    · rw [Nat.min_eq_left h]
    · rw [if_neg (by omega), if_neg (by omega)]
  rw [shiftA, clip, BitVec.sshiftRight_eq, Int.shiftRight_eq_div_pow]
  norm_cast

theorem getLsbD_rotR (a : Word) (n : Nat) {k : Nat} (h : k < 64) : (rotR a n).getLsbD k = a.getLsbD ((k + n) % 64) := by
  rw [rotR, BitVec.getLsbD_rotateRight, Nat.mod_mod]
  by_cases wrap : k < 64 - n % 64
  · simp only [wrap, decide_true, cond_true]
    congr 1
    omega
  · simp only [wrap, h, decide_true, decide_false, cond_false, Bool.true_and]
    congr 1
    omega

theorem getLsbD_rotL (a : Word) (n : Nat) {k : Nat} (h : k < 64) : (rotL a n).getLsbD ((k + n) % 64) = a.getLsbD k := by
  rw [rotL, BitVec.getLsbD_rotateLeft, Nat.mod_mod]
  by_cases wrap : (k + n) % 64 < n % 64
  · simp only [wrap, decide_true, cond_true]
    congr 1
    omega
  · simp only [wrap, Nat.mod_lt, decide_true, decide_false, cond_false, Bool.true_and, Nat.zero_lt_succ]
    congr 1
    omega

/-- A shift or rotate writes its result, and of the flags Z and N alone. -/
theorem insn_shift {s : State} {c : BitVec 9} (i : Issues s.hw c.toNat) (word : BitVec 32) (rd : BitVec 5)
    (v : Ctx → Word) {r : Word} (hr : v (s.hw.ctx c.toNat) = r) :
    s.insn c word .repeatable (aluAct c.toNat rd v fun x => x.flags.zn (v x)) =
      s.result c rd r { (s.hw.ctx c.toNat).flags with z := decide (r = 0), n := r.msb } := by
  subst hr
  exact insn_result i word rd v _

end Sys2Proof.Machine

open Sys2Proof Sys2Proof.Machine

/-- Settles O3: each form is a register result whose value is the shift's by arithmetic, or the rotate's bit by bit. -/
theorem shiftResults : Obligations.ShiftResults := by
  intro s c rd ra rb amount i
  exact ⟨insn_shift i _ rd _ (shiftL_eq _ _), insn_shift i _ rd _ (shiftR_eq _ _), insn_shift i _ rd _ (shiftA_eq _ _),
    ⟨_, fun _ => getLsbD_rotR _ _, insn_shift i _ rd _ rfl⟩, ⟨_, fun _ => getLsbD_rotL _ _, insn_shift i _ rd _ rfl⟩,
    insn_shift i _ rd _ (shiftL_eq _ _), insn_shift i _ rd _ (shiftR_eq _ _), insn_shift i _ rd _ (shiftA_eq _ _),
    ⟨_, fun _ => getLsbD_rotR _ _, insn_shift i _ rd _ rfl⟩⟩
end

section
namespace Sys2Proof.Machine

/-! ### Bit reversal (R79) -/

theorem revBits_lt (n v : Nat) : revBits v n < 2 ^ n := by
  induction n generalizing v with
  | zero => exact Nat.one_pos
  | succ n ih =>
    have := ih (v / 2)
    have bit : v % 2 * 2 ^ n ≤ 1 * 2 ^ n := Nat.mul_le_mul_right _ (by omega)
    rw [revBits, Nat.pow_succ]
    omega

/-- Bit k of a number is bit n - 1 - k of its reverse over n bits. -/
theorem testBit_revBits (n v : Nat) {k : Nat} (h : k < n) : (revBits v n).testBit (n - 1 - k) = v.testBit k := by
  induction n generalizing v k with
  | zero => omega
  | succ n ih =>
    have low := revBits_lt n (v / 2)
    rw [revBits, Nat.mul_comm, Nat.testBit_two_pow_mul_add _ low]
    cases k with
    | zero => simp [Nat.testBit_zero]
    | succ k =>
      rw [if_pos (by omega), show n + 1 - 1 - (k + 1) = n - 1 - k by omega, ih _ (by omega), Nat.testBit_succ]

end Sys2Proof.Machine

open Sys2Proof Sys2Proof.Machine

/-- Settles O7, mode by mode; the bit-reversed index is `revBits` of the base. -/
theorem addressingModes : Obligations.AddressingModes := by
  intro x rb adr n
  refine ⟨rfl, rfl, rfl, fun empty => ?_, fun region past => ?_, fun region inside => ?_, fun width => ?_, fun some_ width => ?_⟩
  · exact if_pos empty
  · exact (if_neg region).trans (if_pos past)
  · exact (if_neg region).trans (if_neg (Nat.not_lt.mpr inside))
  · have : x.brw.toNat = 0 ∨ 16 < x.brw.toNat := width.imp_left fun e => by rw [e]; rfl
    exact if_pos (by simpa using this)
  · have fits : revBits (x.rget rb).toNat x.brw.toNat < 2 ^ 64 :=
      (revBits_lt _ _).trans_le (Nat.pow_le_pow_right (by decide) (by omega))
    have same : (BitVec.ofNat 64 (revBits (x.rget rb).toNat x.brw.toNat)).toNat = revBits (x.rget rb).toNat x.brw.toNat :=
      Nat.mod_eq_of_lt fits
    refine ⟨BitVec.ofNat 64 (revBits (x.rget rb).toNat x.brw.toNat), fun k hk => ?_, ?_, ?_⟩
    · rw [BitVec.getLsbD, same, testBit_revBits _ _ hk]
      rfl
    · rw [same]
      exact revBits_lt _ _
    · have : x.brw.toNat ≠ 0 := fun e => some_ (BitVec.eq_of_toNat_eq e)
      exact if_neg (by simpa [this] using width)
end

section
namespace Sys2Proof.Machine

/-! ### Little-endian values (R3) -/

theorem leNat_lt (b : Bytes) : leNat b < 256 ^ b.length := by
  induction b with
  | nil => exact Nat.one_pos
  | cons x r ih =>
    have : x.toNat < 256 := x.isLt
    rw [leNat, List.length_cons, Nat.pow_succ]
    omega

theorem mread_length (m : Memory) (a n : Nat) : (mread m a n).length = n := by
  induction n generalizing a with
  | zero => rfl
  | succ n ih => rw [mread, List.length_cons, ih]

theorem getElem?_mread (m : Memory) (a : Nat) {n k : Nat} (h : k < n) : (mread m a n)[k]? = some (mget m (a + k)) := by
  induction n generalizing a k with
  | zero => omega
  | succ n ih =>
    cases k with
    | zero => rfl
    | succ k => rw [mread, List.getElem?_cons_succ, ih _ (by omega), Nat.add_right_comm, Nat.add_assoc]

/-- A write is read back byte by byte. -/
theorem mget_mwrite (m : Memory) (a : Nat) (b : Bytes) {k : Nat} (h : k < b.length) : mget (mwrite m a b) (a + k) = b[k] := by
  have read := getElem?_mread (mwrite m a b) a h
  rw [mread_mwrite, List.getElem?_eq_getElem h] at read
  exact (Option.some.inj read).symm

/-- Byte k of a register's little-endian form. -/
theorem getElem?_leBytes (n v : Nat) {k : Nat} (h : k < n) : (leBytes n v)[k]? = some (BitVec.ofNat 8 (v / 256 ^ k)) := by
  induction n generalizing v k with
  | zero => omega
  | succ n ih =>
    cases k with
    | zero => simp [leBytes]
    | succ k => rw [leBytes, List.getElem?_cons_succ, ih _ (by omega), Nat.div_div_eq_div_mul, Nat.pow_succ']

theorem ofNat_div_eq_extract (v : Word) (k : Nat) : BitVec.ofNat 8 (v.toNat / 256 ^ k) = v.extractLsb' (8 * k) 8 := by
  apply BitVec.eq_of_toNat_eq
  rw [BitVec.extractLsb'_toNat, BitVec.toNat_ofNat, Nat.shiftRight_eq_div_pow, Nat.pow_mul]

/-- A value of n bytes, extended with its sign. -/
theorem signExtend_ofNat {n v : Nat} (pos : 0 < n) (wide : n ≤ 8) (h : v < 2 ^ (8 * n)) :
    (BitVec.ofNat (8 * n) v).signExtend 64 =
      if 2 ^ (8 * n - 1) ≤ v then BitVec.ofNat 64 (2 ^ 64 - 2 ^ (8 * n) + v) else BitVec.ofNat 64 v := by
  apply BitVec.eq_of_toNat_eq
  have top : 2 ^ (8 * n) ≤ 2 ^ 64 := Nat.pow_le_pow_right (by decide) (by omega)
  have msb : (BitVec.ofNat (8 * n) v).msb = decide (2 ^ (8 * n - 1) ≤ v) := by
    rw [BitVec.msb_eq_decide, BitVec.toNat_ofNat, Nat.mod_eq_of_lt h]
  rw [BitVec.toNat_signExtend, msb, BitVec.toNat_setWidth, BitVec.toNat_ofNat, Nat.mod_eq_of_lt h,
    Nat.mod_eq_of_lt (h.trans_le top)]
  split
  · next neg =>
    rw [if_pos (by simpa using neg), BitVec.toNat_ofNat]
    omega
  · next neg =>
    rw [if_neg (by simpa using neg), BitVec.toNat_ofNat]
    omega

/-- What a load of n bytes gives a register (R105). -/
theorem loadValue_eq {b : Bytes} {n : Nat} (length : b.length = n) (pos : 0 < n) (wide : n ≤ 8) (sx : Bool) :
    loadValue b sx = if sx then (BitVec.ofNat (8 * n) (leNat b)).signExtend 64 else BitVec.ofNat 64 (leNat b) := by
  subst length
  have small : leNat b < 2 ^ (8 * b.length) := by
    rw [Nat.pow_mul]
    exact leNat_lt b
  rw [signExtend_ofNat pos wide small]
  cases sx with
  | false => rfl
  | true => simp [loadValue]

/-! ### What issues and goes on (R68, R84) -/

@[simp] theorem Ctx.past_posted (x : Ctx) (lc : Bool) : (x.past lc).posted = x.posted := by
  unfold Ctx.past
  split <;> rfl

@[simp] theorem Ctx.past_withdrawn (x : Ctx) (lc : Bool) : (x.past lc).withdrawn = x.withdrawn := by
  unfold Ctx.past
  split <;> rfl

theorem recordReady_running {x : Ctx} (posted : x.posted = none) (withdrawn : x.withdrawn = none) : recordReady x = false := by
  simp [recordReady, posted, withdrawn]

/-- The block stays settled when a context neither posts nor is withdrawn. -/
theorem Hw.Settled.setCtx {h : Hw} (settled : h.Settled) (c : Nat) {y : Ctx} (posted : y.posted = none)
    (withdrawn : y.withdrawn = none) : (h.setCtx c y).Settled := by
  refine settled.of_ctx c (fun ready => ?_) (fun a ne => h.setCtx_ctx_ne y ne) fun r mem => mem
  rw [Hw.setCtx_ctx, recordReady_running posted withdrawn] at ready
  cases ready

/-- A repeatable instruction that issues does its act. -/
theorem insn_repeatable {s : State} {c : BitVec 9} (i : Issues s.hw c.toNat) (word : BitVec 32) (act : Hw → Act) :
    s.insn c word .repeatable act = s.to (applyAct s.hw c.toNat word (act s.hw)) := by
  unfold State.insn
  rw [State.live_awake _ _ i.awake, issue_repeatable i]

/-- A repeatable instruction that reads the store and changes its context alone. -/
theorem insnRead_leaves {s : State} {c : BitVec 9} (i : Issues s.hw c.toNat) (settled : s.hw.Settled) (word : BitVec 32)
    (act : Hw → Act) (f : Ctx → Ctx) (lc : Bool) (ha : act s.hw = .done (s.hw.modCtx c.toNat f) lc)
    (hf : (f (s.hw.ctx c.toNat)).st ≠ .free) (posted : (f (s.hw.ctx c.toNat)).posted = none)
    (withdrawn : (f (s.hw.ctx c.toNat)).withdrawn = none) :
    s.insnRead c word .repeatable act = s.leaves c ((f (s.hw.ctx c.toNat)).past lc) := by
  have done : issue s.hw c.toNat word .repeatable act = s.hw.setCtx c.toNat ((f (s.hw.ctx c.toNat)).past lc) := by
    rw [issue_repeatable i, ha, applyAct_done _ _ _ hf]
  unfold State.insnRead
  rw [State.work_awake _ _ i.awake, State.events_settled]
  · rw [done]
    rfl
  · rw [done]
    exact settled.setCtx _ (by simp [posted]) (by simp [withdrawn])

/-! ### Places of an access (R71, R72) -/

theorem accessPlace_scratch (x : Ctx) {ea : Word} {n : Nat} (aligned : ea.toNat % n = 0) (inside : ea.toNat + n ≤ 0x1000)
    (write : Bool) : accessPlace x ea n write = .ok (.scratch ea.toNat) := by
  simp [accessPlace, place, aligned, inside]

theorem accessPlace_descriptor (x : Ctx) {ea : Word} {n : Nat} (aligned : ea.toNat % n = 0) (pos : 0 < n)
    (from_ : 0x1000 ≤ ea.toNat) (inside : ea.toNat + n ≤ 0x1040) :
    accessPlace x ea n false = .ok (.descriptor (ea.toNat - 0x1000)) := by
  have outside : ¬ea.toNat + n ≤ 0x1000 := by omega
  simp [accessPlace, place, aligned, outside, from_, inside]

@[simp] theorem updateBase_st (x : Ctx) (rb : BitVec 5) (e : Eff) : (updateBase x rb e).st = x.st := by
  unfold updateBase
  split <;> simp

@[simp] theorem updateBase_posted (x : Ctx) (rb : BitVec 5) (e : Eff) : (updateBase x rb e).posted = x.posted := by
  unfold updateBase
  split <;> simp

@[simp] theorem updateBase_withdrawn (x : Ctx) (rb : BitVec 5) (e : Eff) : (updateBase x rb e).withdrawn = x.withdrawn := by
  unfold updateBase
  split <;> simp

/-! ### Loads from scratch and from the request descriptor -/

/-- A load of n bytes reads them from scratch or from the request descriptor. -/
def Ctx.Reads (x : Ctx) (e : Eff) (n : Nat) (bytes : Bytes) : Prop :=
  e.ea.toNat + n ≤ 0x1000 ∧ bytes = mread x.scratch e.ea.toNat n ∨
    ∃ r, x.req = some r ∧ 0x1000 ≤ e.ea.toNat ∧ e.ea.toNat + n ≤ 0x1040 ∧
      bytes = ((leBytes 64 r.desc.toNat).drop (e.ea.toNat - 0x1000)).take n

theorem Ctx.Reads.length {x : Ctx} {e : Eff} {n : Nat} {bytes : Bytes} (r : x.Reads e n bytes) : bytes.length = n := by
  rcases r with ⟨-, rfl⟩ | ⟨q, -, first, last, rfl⟩
  · exact mread_length _ _ n
  · rw [List.length_take, List.length_drop, leBytes_length]
    omega

/-- Outside the handles a load finds its bytes and leaves the block (R71, R72). -/
theorem Ctx.Reads.loadBytes {s : Hw} {c : Nat} {e : Eff} {n : Nat} {bytes : Bytes} (r : (s.ctx c).Reads e n bytes)
    (pos : 0 < n) (aligned : e.ea.toNat % n = 0) : ∃ p, accessPlace (s.ctx c) e.ea n false = .ok p ∧
      ∀ read, loadBytes s c p n read = (bytes, s) := by
  rcases r with ⟨inside, rfl⟩ | ⟨q, req, first, last, rfl⟩
  · exact ⟨_, accessPlace_scratch _ aligned inside false, fun _ => rfl⟩
  · refine ⟨_, accessPlace_descriptor _ aligned pos first last, fun _ => ?_⟩
    simp [Machine.loadBytes, placeRead, req]

/-- The registers from RD on take n bytes each of what a load has read. -/
def loadInto (x : Ctx) (rd : BitVec 5) (regs n : Nat) (bytes : Bytes) (sx : Bool) : Ctx :=
  (List.range regs).foldl (fun x i => x.rset (rd + BitVec.ofNat 5 i) (loadValue ((bytes.drop (n * i)).take n) sx)) x

theorem loadInto_keeps {γ : Type} (E : Ctx → γ) (h : ∀ (x : Ctx) r v, E (x.rset r v) = E x) (x : Ctx) (rd : BitVec 5)
    (regs n : Nat) (bytes : Bytes) (sx : Bool) : E (loadInto x rd regs n bytes sx) = E x :=
  foldl_keeps E _ (fun x _ => h x _ _) _ x

theorem loadInto_one (x : Ctx) (rd : BitVec 5) {n : Nat} {bytes : Bytes} (length : bytes.length = n) (pos : 0 < n)
    (wide : n ≤ 8) (sx : Bool) : loadInto x rd 1 n bytes sx =
      x.rset rd (if sx then (BitVec.ofNat (8 * n) (leNat bytes)).signExtend 64 else BitVec.ofNat 64 (leNat bytes)) := by
  have whole : (bytes.drop (n * 0)).take n = bytes := by
    rw [Nat.mul_zero, List.drop_zero, List.take_of_length_le length.le]
  simp only [loadInto, List.range_one, List.foldl_cons, List.foldl_nil, whole, loadValue_eq length pos wide sx,
    BitVec.add_zero]

theorem loadInto_four (x : Ctx) (rd : BitVec 5) {bytes : Bytes} (length : bytes.length = 32) :
    loadInto x rd 4 8 bytes false = (((x.rset rd (BitVec.ofNat 64 (leNat (bytes.take 8)))).rset (rd + 1)
      (BitVec.ofNat 64 (leNat ((bytes.drop 8).take 8)))).rset (rd + 2)
      (BitVec.ofNat 64 (leNat ((bytes.drop 16).take 8)))).rset (rd + 3) (BitVec.ofNat 64 (leNat (bytes.drop 24))) := by
  have last : (bytes.drop 24).take 8 = bytes.drop 24 := List.take_of_length_le (by rw [List.length_drop, length])
  simp [loadInto, List.range_succ, loadValue, last]

/-- A load that touches no handle writes the base register, then its registers. -/
theorem loadAct_reads {s : Hw} {c : Nat} {rd rb : BitVec 5} {mode : BitVec 3} {adr : BitVec 10} {regs n : Nat} {e : Eff}
    {bytes : Bytes} (eff : effective (s.ctx c) rb mode adr (regs * n) = .ok e) (aligned : e.ea.toNat % (regs * n) = 0)
    (pos : 0 < regs * n) (r : (s.ctx c).Reads e (regs * n) bytes) (sx : Bool) (read : List WordErrors) :
    loadAct c rd rb mode adr regs n sx read s =
      .done (s.modCtx c fun x => loadInto (updateBase x rb e) rd regs n bytes sx) false := by
  obtain ⟨p, place, load⟩ := r.loadBytes pos aligned
  unfold loadAct
  simp only [eff, place, load]
  rfl

/-- A load from scratch or from the descriptor, as its context has it afterwards. -/
theorem insnRead_load {s : State} {c : BitVec 9} (i : Issues s.hw c.toNat) (settled : s.hw.Settled) (word : BitVec 32)
    {rd rb : BitVec 5} {mode : BitVec 3} {adr : BitVec 10} {regs n : Nat} {e : Eff} {bytes : Bytes}
    (eff : effective (s.hw.ctx c.toNat) rb mode adr (regs * n) = .ok e) (aligned : e.ea.toNat % (regs * n) = 0)
    (pos : 0 < regs * n) (r : (s.hw.ctx c.toNat).Reads e (regs * n) bytes) (sx : Bool) (read : List WordErrors) :
    s.insnRead c word .repeatable (loadAct c.toNat rd rb mode adr regs n sx read) =
      s.leaves c ((loadInto (updateBase (s.hw.ctx c.toNat) rb e) rd regs n bytes sx).past false) :=
  insnRead_leaves i settled word _ _ false (loadAct_reads eff aligned pos r sx read)
    (by rw [loadInto_keeps Ctx.st Ctx.rset_st]; simpa using i.notFree)
    (by rw [loadInto_keeps Ctx.posted Ctx.rset_posted]; simpa using i.unposted)
    (by rw [loadInto_keeps Ctx.withdrawn Ctx.rset_withdrawn]; simpa using i.wanted)

theorem memKind_allowed {bad : Bool} (h : bad = false) : memKind bad = .repeatable := by
  subst h
  rfl

/-- An LDW or STW in the one form that is not reserved (R105). -/
theorem wideReserved_allowed {rd : BitVec 5} {mode : BitVec 3} {adr : BitVec 10} (h : modeReserved mode adr = false)
    (aligned : rd.toNat % 4 = 0) : wideReserved rd mode 0 false adr = false := by
  simp [wideReserved, h, aligned]

end Sys2Proof.Machine

open Sys2Proof Sys2Proof.Machine

/-- Settles O8: both loads are `loadInto` of the bytes read, with one register and with four. -/
theorem loadResults : Obligations.LoadResults := by
  intro s c rd rb mode adr sz sx read e bytes i settled allowed
  refine ⟨?_, ?_⟩
  · rintro ⟨eff, aligned, r⟩
    have r : (s.hw.ctx c.toNat).Reads e (2 ^ sz.toNat) bytes := r
    have pos : 0 < 2 ^ sz.toNat := Nat.two_pow_pos _
    have wide : 2 ^ sz.toNat ≤ 2 ^ 3 := Nat.pow_le_pow_right (by decide) (by have := sz.isLt; omega)
    have one := loadInto_one (updateBase (s.hw.ctx c.toNat) rb e) rd r.length pos wide sx
    rw [← Nat.one_mul (2 ^ sz.toNat)] at eff aligned pos r
    show s.insnRead c _ (memKind _) _ = _
    rw [memKind_allowed allowed, insnRead_load i settled _ eff aligned pos r sx read, one]
    rfl
  · rintro four ⟨eff, aligned, r⟩
    have r : (s.hw.ctx c.toNat).Reads e (4 * 8) bytes := r
    show s.insnRead c _ (memKind _) _ = _
    rw [memKind_allowed (wideReserved_allowed allowed four),
      insnRead_load (regs := 4) (n := 8) i settled _ eff aligned (by decide) r false read, loadInto_four _ _ r.length]
    rfl
end

section
namespace Sys2Proof.Machine

/-! ### What a store writes (R105, R106) -/

/-- The bytes of `regs` registers of n bytes each from RD. -/
def storeBytes (x : Ctx) (rd : BitVec 5) (regs n : Nat) : Bytes :=
  (List.range regs).flatMap fun i => leBytes n (x.rget (rd + BitVec.ofNat 5 i)).toNat

theorem storeBytes_succ (x : Ctx) (rd : BitVec 5) (regs n : Nat) : storeBytes x rd (regs + 1) n =
    storeBytes x rd regs n ++ leBytes n (x.rget (rd + BitVec.ofNat 5 regs)).toNat := by
  simp [storeBytes, List.range_succ]

theorem storeBytes_length (x : Ctx) (rd : BitVec 5) (regs n : Nat) : (storeBytes x rd regs n).length = regs * n := by
  induction regs with
  | zero => simp [storeBytes]
  | succ r ih => rw [storeBytes_succ, List.length_append, ih, leBytes_length, Nat.succ_mul]

/-- Byte k of a store comes from register k / n. -/
theorem getElem_storeBytes (x : Ctx) (rd : BitVec 5) (regs : Nat) {n k : Nat} (h : k < (storeBytes x rd regs n).length) :
    (storeBytes x rd regs n)[k] = (x.rget (rd + BitVec.ofNat 5 (k / n))).extractLsb' (8 * (k % n)) 8 := by
  induction regs with
  | zero => simp [storeBytes] at h
  | succ r ih =>
    simp only [storeBytes_succ]
    by_cases low : k < (storeBytes x rd r n).length
    · rw [List.getElem_append_left low, ih]
    · have fits : k < (r + 1) * n := by rwa [storeBytes_length] at h
      rw [storeBytes_length] at low
      have quotient : k / n = r := Nat.div_eq_of_lt_le (by omega) fits
      have remainder : k % n = k - r * n := by rw [← quotient, ← Nat.mod_eq_sub_div_mul]
      rw [List.getElem_append_right (by rw [storeBytes_length]; omega), ← ofNat_div_eq_extract]
      apply Option.some.inj
      rw [← List.getElem?_eq_getElem, getElem?_leBytes _ _ (by rw [storeBytes_length, Nat.succ_mul] at *; omega),
        storeBytes_length, quotient, remainder]

/-! ### Stores to scratch -/

theorem updateBase_scratch (x : Ctx) (rb : BitVec 5) (e : Eff) (m : Memory) :
    updateBase { x with scratch := m } rb e = { updateBase x rb e with scratch := m } := by
  unfold updateBase Ctx.rset
  split
  · split <;> rfl
  · rfl

/-- A store to scratch changes scratch and the base register. -/
theorem storeAct_scratch {s : Hw} {c : Nat} {rd rb : BitVec 5} {mode : BitVec 3} {adr : BitVec 10} {regs n : Nat} {e : Eff}
    (running : (s.ctx c).st ≠ .free) (eff : effective (s.ctx c) rb mode adr (regs * n) = .ok e)
    (aligned : e.ea.toNat % (regs * n) = 0) (inside : e.ea.toNat + regs * n ≤ 0x1000) :
    storeAct c rd rb mode adr regs n s = .done (s.modCtx c fun x =>
      { updateBase x rb e with scratch := mwrite x.scratch e.ea.toNat (storeBytes x rd regs n) }) false := by
  unfold storeAct
  simp only [eff, accessPlace_scratch _ aligned inside]
  rw [Hw.modCtx_modCtx _ _ _ _ running (by simpa using running), updateBase_scratch]
  rfl

/-- A store to scratch, as its context has it afterwards. -/
theorem insn_storeScratch {s : State} {c : BitVec 9} (i : Issues s.hw c.toNat) (word : BitVec 32) {rd rb : BitVec 5}
    {mode : BitVec 3} {adr : BitVec 10} {regs n : Nat} {e : Eff}
    (eff : effective (s.hw.ctx c.toNat) rb mode adr (regs * n) = .ok e) (aligned : e.ea.toNat % (regs * n) = 0)
    (inside : e.ea.toNat + regs * n ≤ 0x1000) :
    s.insn c word .repeatable (storeAct c.toNat rd rb mode adr regs n) =
      s.leaves c (({ (updateBase (s.hw.ctx c.toNat) rb e) with
        scratch := mwrite (s.hw.ctx c.toNat).scratch e.ea.toNat (storeBytes (s.hw.ctx c.toNat) rd regs n) } : Ctx).past false) :=
  insn_leaves i word _ _ false (storeAct_scratch i.notFree eff aligned inside) (by simpa using i.notFree)

/-- The bytes of a store to scratch, and the rest of scratch. -/
theorem mwrite_storeBytes {m : Memory} (wf : m.wf = true) (x : Ctx) (rd : BitVec 5) (regs n a : Nat) :
    (mwrite m a (storeBytes x rd regs n)).wf = true ∧
      (∀ k < regs * n, mget (mwrite m a (storeBytes x rd regs n)) (a + k) =
        (x.rget (rd + BitVec.ofNat 5 (k / n))).extractLsb' (8 * (k % n)) 8) ∧
      ∀ b, b < a ∨ a + regs * n ≤ b → mget (mwrite m a (storeBytes x rd regs n)) b = mget m b := by
  refine ⟨memoryWf_mwrite _ _ wf, fun k hk => ?_, fun b hb => mget_mwrite_outside m a b _ (by rwa [storeBytes_length])⟩
  have h : k < (storeBytes x rd regs n).length := by rwa [storeBytes_length]
  rw [mget_mwrite m a _ h, getElem_storeBytes]

/-- A store of one register has its low bytes. -/
theorem storeByte_one (x : Ctx) (rd : BitVec 5) {n k : Nat} (h : k < n) :
    (x.rget (rd + BitVec.ofNat 5 (k / n))).extractLsb' (8 * (k % n)) 8 = (x.rget rd).extractLsb' (8 * k) 8 := by
  rw [Nat.div_eq_of_lt h, Nat.mod_eq_of_lt h]
  simp

/-! ### Stores to a handle (R285) -/

/-- Within a buffer a handle's bytes follow each other. -/
theorem hndAddr_add {h : Handle} {o i b : Nat} (same : o % 4096 + i < 4096) (buf : h.bufs[o / 4096]? = some b) :
    hndAddr h (o + i) = 4096 * b + (o % 4096 + i) := by
  have page : (o + i) / 4096 = o / 4096 := by omega
  have place : (o + i) % 4096 = o % 4096 + i := by omega
  rw [hndAddr, page, buf, place]

/-- A write through a handle whose places are distinct is read back byte by byte. -/
theorem mget_hndPut (m : Memory) (h : Handle) (o : Nat) (b : Bytes)
    (distinct : ∀ i j, i < b.length → j < b.length → hndAddr h (o + i) = hndAddr h (o + j) → i = j) {k : Nat}
    (hk : k < b.length) : mget (hndPut m h o b) (hndAddr h (o + k)) = b[k] := by
  induction b generalizing m o k with
  | nil => exact absurd hk (Nat.not_lt_zero k)
  | cons x r ih =>
    rw [List.length_cons] at distinct hk
    have shift : ∀ i, o + 1 + i = o + (i + 1) := fun i => by omega
    rw [hndPut]
    cases k with
    | zero =>
      rw [mget_hndPut_outside _ _ _ _ _ fun i hi e => absurd (distinct 0 (i + 1) (by omega) (by omega) (shift i ▸ e)) (by omega)]
      exact mget_mset _ _ _
    | succ k =>
      rw [← shift k, ih _ (o + 1) (fun i j hi hj e => ?_) (by omega)]
      · rfl
      · rw [shift, shift] at e
        have := distinct _ _ (by omega) (by omega) e
        omega

/-- Where an access that falls in a handle lies in it (R71). -/
theorem place_handle {x : Ctx} {a n k o : Nat} (found : place x a n = some (.handle k o)) :
    0x10000000 ≤ a ∧ o = (a - 0x10000000) % 0x400000 := by
  unfold place at found
  split at found
  · cases found
  · split at found
    · cases found
    · split at found
      · next inHandles =>
        simp only [Bool.and_eq_true, decide_eq_true_eq] at inHandles
        refine ⟨inHandles.1, ?_⟩
        dsimp only at found
        split at found
        · cases found
          rfl
        · cases found
      · cases found

theorem accessPlace_ok {x : Ctx} {ea : Word} {n : Nat} {write : Bool} {p : Place} (ok : accessPlace x ea n write = .ok p) :
    ea.toNat % n = 0 ∧ place x ea.toNat n = some p := by
  unfold accessPlace at ok
  split at ok
  · cases ok
  · next aligned =>
    refine ⟨by simpa using aligned, ?_⟩
    split at ok
    · cases ok
    · next q found =>
      have same : q = p := by
        cases q with
        | scratch a => exact Except.ok.inj ok
        | descriptor a => cases write <;> cases ok; rfl
        | handle h o =>
          dsimp only at ok
          split at ok <;> cases ok
          rfl
      rw [found, same]

/-- An aligned access to a handle lies in one buffer. -/
theorem aligned_in_buffer {x : Ctx} {ea : Word} {n k o : Nat} {write : Bool} (power : n ∣ 4096)
    (ok : accessPlace x ea n write = .ok (.handle k o)) {i : Nat} (h : i < n) : o % 4096 + i < 4096 := by
  obtain ⟨aligned, found⟩ := accessPlace_ok ok
  obtain ⟨above, offset⟩ := place_handle found
  have page : o % 4096 = (ea.toNat - 4096 * 0x10000) % 4096 := by omega
  obtain ⟨q, hq⟩ : n ∣ o % 4096 := by
    rw [page, Nat.dvd_mod_iff power]
    exact Nat.dvd_sub (Nat.dvd_of_mod_eq_zero aligned) (power.mul_right _)
  obtain ⟨d, hd⟩ := power
  have below : n * q < n * d := by omega
  have next : n * (q + 1) ≤ n * d := Nat.mul_le_mul_left n (Nat.lt_of_mul_lt_mul_left below)
  rw [Nat.mul_add] at next
  omega

/-- A store to a handle changes the central store's bytes and the base register. -/
theorem storeAct_handle {s : Hw} {c : Nat} {rd rb : BitVec 5} {mode : BitVec 3} {adr : BitVec 10} {regs n k o : Nat} {e : Eff}
    (eff : effective (s.ctx c) rb mode adr (regs * n) = .ok e)
    (place : accessPlace (s.ctx c) e.ea (regs * n) true = .ok (.handle k o)) :
    storeAct c rd rb mode adr regs n s =
      .done ((hndWrite s ((s.ctx c).hnd k) o (storeBytes (s.ctx c) rd regs n)).modCtx c fun x => updateBase x rb e) false := by
  unfold storeAct
  simp only [eff, place]
  rfl

/-- A store to a handle, as the block is afterwards. -/
theorem insn_storeHandle {s : State} {c : BitVec 9} (i : Issues s.hw c.toNat) (word : BitVec 32) {rd rb : BitVec 5}
    {mode : BitVec 3} {adr : BitVec 10} {regs n k o : Nat} {e : Eff}
    (eff : effective (s.hw.ctx c.toNat) rb mode adr (regs * n) = .ok e)
    (place : accessPlace (s.hw.ctx c.toNat) e.ea (regs * n) true = .ok (.handle k o)) :
    s.insn c word .repeatable (storeAct c.toNat rd rb mode adr regs n) =
      s.to ((hndWrite s.hw ((s.hw.ctx c.toNat).hnd k) o (storeBytes (s.hw.ctx c.toNat) rd regs n)).setCtx c.toNat
        ((updateBase (s.hw.ctx c.toNat) rb e).past false)) := by
  rw [insn_repeatable i, storeAct_handle eff place]
  exact congrArg s.to (applyAct_done (h := hndWrite s.hw ((s.hw.ctx c.toNat).hnd k) o _) word _ false
    (by simpa [hndWrite, Hw.ctx] using i.notFree))

/-- The bytes of a store to a handle stand at the places that the handle maps. -/
theorem mget_hndPut_storeBytes (m : Memory) {h : Handle} {o : Nat} (x : Ctx) (rd : BitVec 5) {regs n : Nat}
    (mapped : o / 4096 < h.bufs.length) (within : ∀ i, i < regs * n → o % 4096 + i < 4096) {k : Nat} (hk : k < regs * n) :
    mget (hndPut m h o (storeBytes x rd regs n)) (hndAddr h (o + k)) =
      (x.rget (rd + BitVec.ofNat 5 (k / n))).extractLsb' (8 * (k % n)) 8 := by
  have length := storeBytes_length x rd regs n
  have buf := List.getElem?_eq_getElem mapped
  rw [mget_hndPut _ _ _ _ (fun i j hi hj e => ?_) (by rwa [length]), getElem_storeBytes]
  rw [length] at hi hj
  rw [hndAddr_add (within i hi) buf, hndAddr_add (within j hj) buf] at e
  omega

/-- What a store to a handle writes, and what it leaves of the block. -/
def StoresToHandle (s h : Hw) (c : Nat) (v : Handle) (o n : Nat) (byte : Nat → Byte) (y : Ctx) : Prop :=
  (o / 4096 < v.bufs.length → ∀ i < n, mget h.cs.bytes (hndAddr v (o + i)) = byte i) ∧
    h.ctx c = y ∧ (∀ a, a ≠ c → h.ctx a = s.ctx a) ∧
    (∀ a, (∀ i < n, a ≠ hndAddr v (o + i)) → mget h.cs.bytes a = mget s.cs.bytes a) ∧
    h.rings = s.rings ∧ h.jobs = s.jobs ∧ h.keys = s.keys ∧ h.flt = s.flt ∧ h.mm = s.mm ∧
    h.active = s.active ∧ h.cs.bufs = s.cs.bufs

theorem StoresToHandle.congr_byte {s h : Hw} {c : Nat} {v : Handle} {o n : Nat} {f g : Nat → Byte} {y : Ctx}
    (stores : StoresToHandle s h c v o n f y) (same : ∀ k < n, f k = g k) : StoresToHandle s h c v o n g y :=
  ⟨fun mapped k hk => (stores.1 mapped k hk).trans (same k hk), stores.2⟩

theorem hndWrite_storesToHandle (s : Hw) (c : Nat) (v : Handle) {o : Nat} (x y : Ctx) (rd : BitVec 5) {regs n : Nat}
    (within : ∀ i, i < regs * n → o % 4096 + i < 4096) :
    StoresToHandle s ((hndWrite s v o (storeBytes x rd regs n)).setCtx c y) c v o (regs * n)
      (fun k => (x.rget (rd + BitVec.ofNat 5 (k / n))).extractLsb' (8 * (k % n)) 8) y := by
  refine ⟨fun mapped k hk => mget_hndPut_storeBytes _ x rd mapped within hk, Hw.setCtx_ctx _ c y,
    fun a ne => Hw.setCtx_ctx_ne _ y ne, fun a apart => ?_, rfl, rfl, rfl, rfl, rfl, rfl, rfl⟩
  exact mget_hndPut_outside _ v o a _ fun i hi => apart i (by rwa [storeBytes_length] at hi)

end Sys2Proof.Machine

open Sys2Proof Sys2Proof.Machine

/-- Settles O9: both stores write `storeBytes` to scratch. -/
theorem scratchStores : Obligations.ScratchStores := by
  intro s c rd rb mode adr sz e i allowed wf
  refine ⟨fun eff aligned inside => ?_, fun four eff aligned inside => ?_⟩
  · obtain ⟨wf', bytes, rest⟩ := mwrite_storeBytes wf (s.hw.ctx c.toNat) rd 1 (2 ^ sz.toNat) e.ea.toNat
    rw [← Nat.one_mul (2 ^ sz.toNat)] at eff aligned inside
    refine ⟨_, ?_, wf', fun k hk => ?_, fun a ha => rest a (by rwa [Nat.one_mul])⟩
    · show s.insn c _ (memKind _) _ = _
      rw [memKind_allowed (by rw [allowed]; rfl), insn_storeScratch i _ eff aligned inside]
      rfl
    · rw [bytes k (by rwa [Nat.one_mul]), storeByte_one _ _ hk]
  · obtain ⟨wf', bytes, rest⟩ := mwrite_storeBytes wf (s.hw.ctx c.toNat) rd 4 8 e.ea.toNat
    refine ⟨_, ?_, wf', bytes, rest⟩
    show s.insn c _ (memKind _) _ = _
    rw [memKind_allowed (wideReserved_allowed allowed four), insn_storeScratch (regs := 4) (n := 8) i _ eff aligned inside]
    rfl

/-- Settles O10: both stores write `storeBytes` through the handle. -/
theorem handleStores : Obligations.HandleStores := by
  intro s c rd rb mode adr sz e k o i allowed
  refine ⟨fun eff place => ?_, fun four eff place => ?_⟩
  · have power : 2 ^ sz.toNat ∣ 2 ^ 12 := Nat.pow_dvd_pow 2 (by have := sz.isLt; omega)
    have within := fun j => aligned_in_buffer (i := j) power place
    rw [← Nat.one_mul (2 ^ sz.toNat)] at eff place within
    have stored := hndWrite_storesToHandle s.hw c.toNat ((s.hw.ctx c.toNat).hnd k) (s.hw.ctx c.toNat)
      ((updateBase (s.hw.ctx c.toNat) rb e).past false) rd within
    rw [Nat.one_mul] at stored
    refine completes_of_to ?_ (stored.congr_byte fun _ hk => storeByte_one _ _ hk)
    show s.insn c _ (memKind _) _ = _
    rw [memKind_allowed (by rw [allowed]; rfl), insn_storeHandle i _ eff place]
  · have within := fun j => aligned_in_buffer (i := j) (by decide) place
    refine completes_of_to ?_ (hndWrite_storesToHandle s.hw c.toNat ((s.hw.ctx c.toNat).hnd k) (s.hw.ctx c.toNat)
      ((updateBase (s.hw.ctx c.toNat) rb e).past false) rd (regs := 4) (n := 8) within)
    show s.insn c _ (memKind _) _ = _
    rw [memKind_allowed (wideReserved_allowed allowed four), insn_storeHandle (regs := 4) (n := 8) i _ eff place]
end

section
namespace Sys2Proof.Machine

/-! ### Sets of tickets (R82) -/

/-- Ticket k is in the mask when the set names it and its state passes. -/
theorem getLsbD_ticketMask (x : Ctx) (set : BitVec 16) (p : TicketState → Bool) {k : Nat} (h : k < 16) :
    (ticketMask x set p).getLsbD k = (set.getLsbD k && p (x.tk k).st) := by
  have upTo : ∀ n ≤ 16, ((List.range n).foldl
      (fun m t => if bit set t && p (x.tk t).st then m ||| (1#16 <<< t) else m) 0#16).getLsbD k =
      (decide (k < n) && (set.getLsbD k && p (x.tk k).st)) := by
    intro n
    induction n with
    | zero => simp
    | succ n ih =>
      intro hn
      have one : (1#16 <<< n).getLsbD k = decide (k = n) := by
        rw [BitVec.getLsbD_shiftLeft, BitVec.getLsbD_one]
        by_cases e : k = n
        · simp [e]; omega
        · by_cases lt : k < n
          · simp [e, lt]
          · simp [e, lt]; omega
      rw [List.range_succ, List.foldl_concat]
      split
      · next named =>
        rw [BitVec.getLsbD_or, ih (by omega), one]
        by_cases e : k = n
        · subst e
          simpa [bit] using named
        · simp [e, Nat.le_iff_lt_or_eq]
      · next other =>
        rw [ih (by omega)]
        by_cases e : k = n
        · subst e
          simpa [bit] using other
        · simp [e, Nat.le_iff_lt_or_eq]
  refine (upTo 16 (Nat.le_refl _)).trans ?_
  simp [h]

theorem ticketMask_eq_zero {x : Ctx} {set : BitVec 16} {p : TicketState → Bool} :
    ticketMask x set p = 0#16 ↔ ∀ t < 16, set.getLsbD t = true → p (x.tk t).st = false := by
  constructor
  · intro none t ht named
    have := getLsbD_ticketMask x set p ht
    rw [none, named] at this
    simpa using this.symm
  · intro none
    apply BitVec.eq_of_getLsbD_eq
    intro t ht
    rw [getLsbD_ticketMask x set p ht]
    cases named : set.getLsbD t with
    | false => simp
    | true => simp [none t ht named]

theorem ticketMask_eq_set {x : Ctx} {set : BitVec 16} {p : TicketState → Bool} :
    ticketMask x set p = set ↔ ∀ t < 16, set.getLsbD t = true → p (x.tk t).st = true := by
  constructor
  · intro all t ht named
    have := getLsbD_ticketMask x set p ht
    rw [all, named] at this
    simpa using this.symm
  · intro all
    apply BitVec.eq_of_getLsbD_eq
    intro t ht
    rw [getLsbD_ticketMask x set p ht]
    cases named : set.getLsbD t with
    | false => simp
    | true => simp [all t ht named]

/-! ### The end of a WAIT (R78, R82) -/

/-- What a WAIT waits for. -/
def Ctx.Met (x : Ctx) (set : BitVec 16) (any : Bool) : Prop :=
  if any then ∃ t < 16, set.getLsbD t = true ∧ (x.tk t).st = .done
  else ∀ t < 16, set.getLsbD t = true → (x.tk t).st = .done

theorem waitMet_iff (x : Ctx) (set : BitVec 16) (any : Bool) : waitMet x set any = true ↔ x.Met set any := by
  cases any with
  | false => simp [waitMet, Ctx.Met, ticketMask_eq_set]
  | true =>
    have none_done := ticketMask_eq_zero (x := x) (set := set) (p := fun st => decide (st = .done))
    simp [waitMet, Ctx.Met, none_done]

/-- The verdict tickets of a set that are DONE. -/
def verdictTickets (x : Ctx) (set : BitVec 16) : List Nat :=
  (List.range 16).filter fun t => bit (ticketMask x set (· = .done)) t && (x.tk t).verdict

theorem mem_verdictTickets {x : Ctx} {set : BitVec 16} {t : Nat} :
    t ∈ verdictTickets x set ↔ t < 16 ∧ set.getLsbD t = true ∧ (x.tk t).st = .done ∧ (x.tk t).verdict = true := by
  rw [verdictTickets, List.mem_filter, List.mem_range]
  refine and_congr_right fun ht => ?_
  simp [bit, getLsbD_ticketMask x set _ ht, and_assoc]

/-- T after a WAIT: with the condition met and a verdict ticket DONE, whether all of those are OK. -/
def waitT (x : Ctx) (set : BitVec 16) (any : Bool) : Bool :=
  if waitMet x set any && !(verdictTickets x set).isEmpty then (verdictTickets x set).all fun t => (x.tk t).status = stOk
  else x.flags.t

/-- A WAIT that ends writes RD, Z and T alone. -/
theorem endWait_eq (x : Ctx) (rd : BitVec 5) (set : BitVec 16) (any : Bool) : endWait x rd set any =
    { (x.rset rd ((ticketMask x set (· = .done)).zeroExtend 64)) with
      flags := { x.flags with z := waitMet x set any, t := waitT x set any } } := rfl

/-- A verdict ticket of the set is DONE. -/
def Ctx.Verdicts (x : Ctx) (set : BitVec 16) : Prop :=
  ∃ t < 16, set.getLsbD t = true ∧ (x.tk t).st = .done ∧ (x.tk t).verdict = true

theorem verdictTickets_isEmpty (x : Ctx) (set : BitVec 16) : (verdictTickets x set).isEmpty = false ↔ x.Verdicts set := by
  rw [List.isEmpty_eq_false_iff_exists_mem]
  simp only [mem_verdictTickets]
  rfl

theorem waitT_of_verdicts {x : Ctx} {set : BitVec 16} {any : Bool} (met : x.Met set any) (verdicts : x.Verdicts set) :
    waitT x set any = true ↔ ∀ t < 16, set.getLsbD t = true → (x.tk t).st = .done → (x.tk t).verdict = true →
      (x.tk t).status = 0 := by
  rw [waitT, (waitMet_iff x set any).mpr met, (verdictTickets_isEmpty x set).mpr verdicts]
  simp [mem_verdictTickets]

theorem waitT_stands {x : Ctx} {set : BitVec 16} {any : Bool} (h : ¬(x.Met set any ∧ x.Verdicts set)) :
    waitT x set any = x.flags.t := by
  rw [waitT, if_neg]
  rw [Bool.and_eq_true, waitMet_iff, Bool.not_eq_true', verdictTickets_isEmpty]
  exact h

/-- How a WAIT leaves its context when it ends: the mask of DONE tickets in RD, Z and T. -/
def Ctx.Ended (x : Ctx) (rd : BitVec 5) (any : Bool) (set : BitVec 16) (y : Ctx) : Prop :=
  ∃ m : BitVec 16, ∃ z t : Bool,
    (∀ k < 16, m.getLsbD k = (set.getLsbD k && decide ((x.tk k).st = .done))) ∧ (z = true ↔ x.Met set any) ∧
    (x.Met set any → x.Verdicts set → (t = true ↔ ∀ t < 16, set.getLsbD t = true → (x.tk t).st = .done →
      (x.tk t).verdict = true → (x.tk t).status = 0)) ∧
    (¬(x.Met set any ∧ x.Verdicts set) → t = x.flags.t) ∧
    y = { x.rset rd (m.zeroExtend 64) with flags := { x.flags with z := z, t := t } }

theorem endWait_ended (x : Ctx) (rd : BitVec 5) (any : Bool) (set : BitVec 16) : x.Ended rd any set (endWait x rd set any) :=
  ⟨_, _, _, fun _ => getLsbD_ticketMask x set _, waitMet_iff x set any, waitT_of_verdicts, waitT_stands, endWait_eq x rd set any⟩

theorem endWait_st (x : Ctx) (rd : BitVec 5) (set : BitVec 16) (any : Bool) : (endWait x rd set any).st = x.st := by
  simp [endWait_eq]

/-- A WAIT whose time has come ends; one whose condition is met ends at once. -/
theorem waitEnd_eq {s : Hw} {c t : Nat} {rd : BitVec 5} {set : BitVec 16} {any : Bool} (waiting : (s.ctx c).st = .waiting)
    (hold : (s.ctx c).hold = .wait rd set any (some t)) : waitEnd c s =
      (if waitMet (s.ctx c) set any then s else advanceTo s t).modCtx c fun x =>
        { endWait x rd set any with st := .ready, hold := .none } := by
  unfold waitEnd
  simp only [hold, waiting]
  rw [if_neg (by simp)]
  split <;> rfl

/-- A WAIT on a set of tickets that are taken ends, or holds its context. -/
theorem exec_wait {s : State} {c : BitVec 9} (i : Issues s.hw c.toNat) (rep : (s.hw.ctx c.toNat).rep = none)
    (rd ra rb : BitVec 5) (any : Bool) {set : BitVec 16} (hset : ((s.hw.ctx c.toNat).rget rb).setWidth 16 = set)
    (some_ : set ≠ 0#16) (taken : ∀ t < 16, set.getLsbD t = true → ((s.hw.ctx c.toNat).tk t).st ≠ .free) :
    exec (.wait c rd ra rb any) s = s.leaves c ((if waitMet (s.hw.ctx c.toNat) set any
      then endWait (s.hw.ctx c.toNat) rd set any
      else { s.hw.ctx c.toNat with
        st := .waiting
        hold := .wait rd set any (if ((s.hw.ctx c.toNat).rget ra).toNat = 0 then none
          else some (s.hw.clk.core + ((s.hw.ctx c.toNat).rget ra).toNat)) }).past false) := by
  have none_free : ticketMask (s.hw.ctx c.toNat) set (· = .free) = 0#16 :=
    ticketMask_eq_zero.mpr fun t ht named => decide_eq_false (taken t ht named)
  show s.insn c _ .notRepeatable _ = _
  by_cases met : waitMet (s.hw.ctx c.toNat) set any = true
  · rw [if_pos met]
    refine insn_once i rep _ _ (fun x => endWait x rd set any) false ?_ ((endWait_st ..).trans_ne i.notFree)
    simp [hset, some_, none_free, met]
  · rw [if_neg met]
    refine insn_once i rep _ _ (fun x => { x with st := .waiting, hold := _ }) false ?_ (by simp)
    simp [hset, some_, none_free, met]

/-- TSTAT of a DONE ticket (R80). -/
theorem exec_tstat {s : State} {c : BitVec 9} (i : Issues s.hw c.toNat) (rep : (s.hw.ctx c.toNat).rep = none)
    (rd rc ra : BitVec 5) {t : Nat} (number : ((s.hw.ctx c.toNat).rget ra).toNat % 16 = t)
    (done : ((s.hw.ctx c.toNat).tk t).st = .done) : exec (.tstat c rd rc ra) s = s.leaves c
      (((((s.hw.ctx c.toNat).rset rc ((s.hw.ctx c.toNat).tk t).result).rset rd
        (((s.hw.ctx c.toNat).tk t).status.zeroExtend 64)).setTk t {}).past false) := by
  have field : fld ((s.hw.ctx c.toNat).rget ra) 0 4 = t := by simpa [fld] using number
  refine insn_once i rep _ _ (fun x => ((x.rset rc ((s.hw.ctx c.toNat).tk t).result).rset rd
    (((s.hw.ctx c.toNat).tk t).status.zeroExtend 64)).setTk t {}) false ?_ ?_
  · simp [field, done]
  · simpa [Ctx.setTk] using i.notFree

end Sys2Proof.Machine

open Sys2Proof Sys2Proof.Machine

/-- Settles O13: a WAIT ends as `endWait` says, at its issue or with WAIT_END. -/
theorem waitsAndTickets : Obligations.WaitsAndTickets := by
  intro s c rd rc ra rb any
  refine ⟨fun i rep some_ taken => ?_, fun awake waiting set t hold => ?_, fun i rep t ht number done => ?_⟩
  · have wait := exec_wait i rep rd ra rb any rfl some_ taken
    refine ⟨fun met => ⟨_, endWait_ended _ rd any _, ?_⟩, fun unmet => ?_⟩
    · rw [wait, if_pos ((waitMet_iff ..).mpr met)]
    · rw [wait, if_neg fun met => unmet ((waitMet_iff ..).mp met)]
  · refine ⟨_, endWait_ended (s.hw.ctx c.toNat) rd any set, ?_⟩
    refine completes_of_to (State.live_awake s (waitEnd c.toNat) awake) ?_
    rw [waitEnd_eq waiting hold]
    have same : (if waitMet (s.hw.ctx c.toNat) set any then s.hw else advanceTo s.hw t).ctx c.toNat = s.hw.ctx c.toNat := by
      split <;> rfl
    refine ⟨?_, ?_, fun unmet => ?_⟩
    · rw [Hw.modCtx_ctx, same]
    · split <;> rfl
    · rw [if_neg fun met => unmet ((waitMet_iff ..).mp met)]
      rfl
  · exact exec_tstat i rep rd rc ra number done
end

section
namespace Sys2Proof.Machine

/-! ### Ending work leaves all of a context but its tickets, its streams, its scrub and its scratch -/

/-- A context with what the end of its work writes blanked: tickets, streams, the scrub that runs, and scratch, where held
plaintext is overwritten. -/
def Ctx.sansWork (x : Ctx) : Ctx := { x with tickets := [], cstreams := [], dstreams := [], scrubbing := none, scratch := [] }

theorem sansWork_of_sansTickets {x y : Ctx} (h : x.sansTickets = y.sansTickets) : x.sansWork = y.sansWork :=
  (congrArg Ctx.sansWork h : x.sansTickets.sansWork = y.sansTickets.sansWork)

theorem modCtx_sansWork (s : Hw) (c a : Nat) {f : Ctx → Ctx} (h : ∀ x, (f x).sansWork = x.sansWork) :
    ((s.modCtx c f).ctx a).sansWork = (s.ctx a).sansWork := by
  by_cases e : a = c
  · subst e
    rw [Hw.modCtx_ctx, h]
  · rw [Hw.modCtx_ctx_ne s f e]

theorem endJobs_sansWork (s : Hw) (c a : Nat) (p : Job → Bool) (st : BitVec 8) :
    ((endJobs s c p st).ctx a).sansWork = (s.ctx a).sansWork := sansWork_of_sansTickets (endJobs_sansTickets s c a p st)

theorem rgWrite_sansWork (s : Hw) (c a : Nat) (r : Word) (b : Bytes) :
    ((rgWrite s c r b).ctx a).sansWork = (s.ctx a).sansWork := by
  unfold rgWrite
  split
  · exact modCtx_sansWork s c a fun _ => rfl
  · rfl

theorem failDs_sansWork (s : Hw) (c a n : Nat) (st : BitVec 8) : ((failDs s c n st).ctx a).sansWork = (s.ctx a).sansWork :=
  (endJobs_sansWork _ c a _ st).trans (modCtx_sansWork s c a fun _ => rfl)

theorem dropHold_sansWork (s : Hw) (c a n : Nat) (st : BitVec 8) :
    ((dropHold s c n st).ctx a).sansWork = (s.ctx a).sansWork := by
  unfold dropHold
  dsimp only
  refine (endJobs_sansWork _ c a _ st).trans ?_
  refine (foldl_keeps (fun t : Hw => (t.ctx a).sansWork) _ (fun t n => failDs_sansWork t c a n st) _ _).trans ?_
  refine (modCtx_sansWork _ c a ?_).trans ?_
  · exact fun _ => rfl
  exact foldl_keeps (fun t : Hw => (t.ctx a).sansWork) _ (fun t r => rgWrite_sansWork t c a r _) _ _

theorem startScrub_sansWork (s : Hw) (c a : Nat) (k : Scrub) : ((startScrub s c k).ctx a).sansWork = (s.ctx a).sansWork := by
  refine modCtx_sansWork s c a fun x => ?_
  split <;> rfl

theorem failCs_sansWork (s : Hw) (c a n : Nat) (st : BitVec 8) (lead : Option Nat) :
    ((failCs s c n st lead).ctx a).sansWork = (s.ctx a).sansWork := by
  unfold failCs
  dsimp only
  refine (endJobs_sansWork _ c a _ st).trans ?_
  generalize hd : (if ((s.ctx c).cs n).holdBufs != 0 || (((s.ctx c).cs n).undecided && !((s.ctx c).cs n).rel)
      then dropHold s c n st else s) = t
  have dropped : (t.ctx a).sansWork = (s.ctx a).sansWork := by
    rw [← hd]
    split
    · exact dropHold_sansWork s c a n st
    · rfl
  clear hd
  have failed := (modCtx_sansWork t c a (f := fun x => x.setCs n
    { num := (x.cs n).num, isOpen := (x.cs n).isOpen, failed := some ((x.cs n).ending.getD st), held := (x.cs n).held
      rel := (x.cs n).rel
      undecided := ((s.ctx c).cs n).undecided && ((s.ctx c).cs n).rel && !((s.ctx c).cs n).held.isEmpty
      mode := (x.cs n).mode }) fun _ => rfl).trans dropped
  split
  · refine (startScrub_sansWork _ c a _).trans ?_
    split
    · split <;> exact failed
    · exact failed
  · exact failed

theorem endUndecided_sansWork (s : Hw) (c a : Nat) (p : Bool) (st : BitVec 8) :
    ((endUndecided s c p st).ctx a).sansWork = (s.ctx a).sansWork := by
  unfold endUndecided
  dsimp only
  generalize hd : List.foldl _ s _ = t
  have dropped : (t.ctx a).sansWork = (s.ctx a).sansWork := by
    rw [← hd]
    exact foldl_keeps (fun t : Hw => (t.ctx a).sansWork) (fun (s : Hw) (e : Nat × CipherStream) => dropHold s c e.1 st)
      (fun t e => dropHold_sansWork t c a e.1 st) _ _
  clear hd
  split
  · exact dropped
  · split
    · exact dropped
    · exact (startScrub_sansWork _ c a _).trans dropped

theorem settle_sansWork (s : Hw) (c a : Nat) : ((settle s c).ctx a).sansWork = (s.ctx a).sansWork := by
  unfold settle
  split
  · dsimp only
    generalize hu : endUndecided s c _ _ = t
    have ended : (t.ctx a).sansWork = (s.ctx a).sansWork := by rw [← hu]; exact endUndecided_sansWork s c a _ _
    clear hu
    split <;> exact ended
  · rfl

theorem settleAll_sansWork (s : Hw) (a : Nat) : ((settleAll s).ctx a).sansWork = (s.ctx a).sansWork :=
  foldl_keeps (fun t : Hw => (t.ctx a).sansWork) settle (fun t c => settle_sansWork t c a) _ s

theorem stopWork_sansWork (s : Hw) (c a : Nat) (st : BitVec 8) : ((stopWork s c st).ctx a).sansWork = (s.ctx a).sansWork := by
  unfold stopWork
  dsimp only
  refine (endJobs_sansWork _ c a _ st).trans ?_
  exact foldl_keeps (fun t : Hw => (t.ctx a).sansWork) _ (fun t n => failDs_sansWork t c a n st) _ _

/-! ### The withdrawal of a request (R64) -/

/-- A context runs a request whose outcome is open. -/
def Ctx.Runs (x : Ctx) : Prop := x.req.isSome = true ∧ x.committed = false ∧ x.withdrawn = none ∧ x.noRecord = false

/-- A context as a withdrawal first leaves it. -/
def Ctx.withdrawnAs (x : Ctx) (st : BitVec 8) : Ctx :=
  { x with withdrawn := some st, st := .quiescing, hold := .none, rep := none }

/-- All that a withdrawal ends, once the status is decided. -/
def withdrawWork (s : Hw) (c : Nat) (st : BitVec 8) : Hw :=
  settle (((stopWork s c st).ctx c).cstreams.map (·.1) |>.foldl (fun s n =>
    if ((s.ctx c).cs n).failed.isNone then failCs s c n st none else s) (stopWork s c st)) c

theorem withdraw_runs {s : Hw} {c : Nat} (runs : (s.ctx c).Runs) (st : BitVec 8) :
    withdraw s c st = withdrawWork (s.modCtx c fun x => x.withdrawnAs st) c st := by
  obtain ⟨request, uncommitted, wanted, recorded⟩ := runs
  unfold withdraw
  rw [if_neg (by simp [Option.isSome_iff_ne_none.mp request, uncommitted, wanted, recorded])]
  rfl

theorem withdrawWork_sansWork (s : Hw) (c a : Nat) (st : BitVec 8) :
    ((withdrawWork s c st).ctx a).sansWork = (s.ctx a).sansWork := by
  unfold withdrawWork
  refine (settle_sansWork _ c a).trans ?_
  refine (foldl_keeps (fun t : Hw => (t.ctx a).sansWork) _ (fun t n => ?_) _ _).trans (stopWork_sansWork s c a st)
  split
  · exact failCs_sansWork t c a n st none
  · rfl

/-- Of the trap queue and the clocks, the work that a withdrawal ends changes the context's own record (R94). -/
theorem withdrawWork_trapq (s : Hw) (c : Nat) (st : BitVec 8) :
    (withdrawWork s c st).trapq = (dropTrap s c).trapq ∧ (withdrawWork s c st).clk = s.clk := by
  suffices view : (withdrawWork s c st).sansReady = (killPku (dropUpdates (dropTrap s c) c) c).sansReady by
    generalize withdrawWork s c st = t at view ⊢
    exact ⟨by simpa [Hw.sansReady, Hw.sansJobs, killPku, dropUpdates] using congrArg Hw.trapq view,
      by simpa [Hw.sansReady, Hw.sansJobs, killPku, dropUpdates, dropTrap] using congrArg Hw.clk view⟩
  unfold withdrawWork
  refine (settle_sansReady _ c).trans (sansReady_of_sansJobs ?_)
  refine (foldl_keeps Hw.sansJobs _ (fun t n => ?_) _ _).trans ?_
  · split
    · exact failCs_sansJobs t c n st none
    · rfl
  · unfold stopWork
    dsimp only
    refine (endJobs_sansJobs _ c _ st).trans ?_
    exact foldl_keeps Hw.sansJobs _ (fun t n => failDs_sansJobs t c n st) _ _

/-- A withdrawn request's context: its status stands, it quiesces, and nothing else goes but its repeat, hold and work. -/
theorem withdraw_ctx {s : Hw} {c : Nat} (runs : (s.ctx c).Runs) (st : BitVec 8) :
    ((withdraw s c st).ctx c).sansWork = ((s.ctx c).withdrawnAs st).sansWork := by
  rw [withdraw_runs runs, withdrawWork_sansWork, Hw.modCtx_ctx]

/-- A withdrawal leaves the trap queue but for the context's own record, and the clocks (R94). -/
theorem withdraw_trapq {s : Hw} {c : Nat} (runs : (s.ctx c).Runs) (st : BitVec 8) :
    (withdraw s c st).trapq = (dropTrap s c).trapq ∧ (withdraw s c st).clk = s.clk := by
  obtain ⟨trapq, clk⟩ := withdrawWork_trapq (s.modCtx c fun x => x.withdrawnAs st) c st
  rw [withdraw_runs runs]
  exact ⟨trapq, clk.trans (Hw.modCtx_clk ..)⟩

/-- A request is withdrawn with a status, in a context that was x. -/
def Ctx.WithdrawnFrom (y x : Ctx) (st : BitVec 8) : Prop := y.sansWork = (x.withdrawnAs st).sansWork

theorem Ctx.WithdrawnFrom.withdrawn {x y : Ctx} {st : BitVec 8} (h : y.WithdrawnFrom x st) : y.withdrawn = some st :=
  (congrArg Ctx.withdrawn h :)

theorem Ctx.WithdrawnFrom.quiescing {x y : Ctx} {st : BitVec 8} (h : y.WithdrawnFrom x st) : y.st = .quiescing :=
  (congrArg Ctx.st h :)

theorem Ctx.WithdrawnFrom.regs {x y : Ctx} {st : BitVec 8} (h : y.WithdrawnFrom x st) : y.regs = x.regs :=
  (congrArg Ctx.regs h :)

theorem Ctx.WithdrawnFrom.pc {x y : Ctx} {st : BitVec 8} (h : y.WithdrawnFrom x st) : y.pc = x.pc :=
  (congrArg Ctx.pc h :)

theorem mayIssue_withdrawn {h : Hw} {c : Nat} {st : BitVec 8} (withdrawn : (h.ctx c).withdrawn = some st) :
    mayIssue h c = false := by
  simp [mayIssue, withdrawn]

/-- A program fault withdraws its request with ILLEGAL_PROGRAM (R89). -/
theorem programFault_ctx {s : Hw} {c : Nat} (runs : (s.ctx c).Runs) (cls : TrapClass) :
    ((programFault s c cls).ctx c).WithdrawnFrom (s.ctx c) stIllegalProgram := by
  have noted : (note s (awlUnit (awlOf c)) 2 (cls.zeroExtend 16)).ctx c = s.ctx c := note_ctx ..
  unfold programFault
  refine (settleAll_sansWork _ c).trans ((withdraw_ctx (by rwa [noted]) _).trans ?_)
  rw [noted]

/-! ### Instructions that end in a program fault (R86, R88, R89) -/

/-- The issue of an instruction raises a trap of a program-fault class. -/
def IssueFaults (h : Hw) (c : Nat) (word : BitVec 32) (kind : RepKind) (act : Hw → Act) : Prop :=
  ∃ cls : TrapClass, 3 < cls.toNat ∧ issue h c word kind act = takeTrap h c cls word

theorem issueFaults_repeatable {h : Hw} {c : Nat} (i : Issues h c) (word : BitVec 32) {act : Hw → Act} {cls : TrapClass}
    (fault : 3 < cls.toNat) (ha : act h = .trap cls) : IssueFaults h c word .repeatable act :=
  ⟨cls, fault, by rw [issue_repeatable i, ha]; rfl⟩

/-- Under a repeat an instruction that does not repeat faults whatever it does (R86). -/
theorem issueFaults_in_repeat {h : Hw} {c : Nat} (i : Issues h c) (word : BitVec 32) (act : Hw → Act)
    (rep : (h.ctx c).rep.isSome = true) : IssueFaults h c word .notRepeatable act := by
  refine ⟨4, by decide, ?_⟩
  unfold issue
  rw [if_neg (by simp [i.mayIssue]), if_neg (Nat.not_le.mpr i.steps), if_neg (Nat.not_le.mpr i.code),
    if_neg (by rw [i.word]; exact Bool.false_ne_true)]
  exact if_pos rep

theorem issueFaults_once {h : Hw} {c : Nat} (i : Issues h c) (word : BitVec 32) {act : Hw → Act} {cls : TrapClass}
    (fault : 3 < cls.toNat) (ha : act h = .trap cls) : IssueFaults h c word .notRepeatable act := by
  by_cases rep : (h.ctx c).rep.isSome = true
  · exact issueFaults_in_repeat i word act rep
  · exact ⟨cls, fault, by rw [issue_once i (by simpa using rep), ha]; rfl⟩

theorem Issues.runs {h : Hw} {c : Nat} (i : Issues h c) (uncommitted : (h.ctx c).committed = false) : (h.ctx c).Runs :=
  ⟨i.request, uncommitted, i.wanted, i.recorded⟩

theorem IssueFaults.withdrawn {h : Hw} {c : Nat} {word : BitVec 32} {kind : RepKind} {act : Hw → Act}
    (f : IssueFaults h c word kind act) (runs : (h.ctx c).Runs) :
    ((issue h c word kind act).ctx c).WithdrawnFrom (h.ctx c) stIllegalProgram := by
  obtain ⟨cls, fault, e⟩ := f
  rw [e, takeTrap, if_neg (Nat.not_le.mpr fault)]
  exact programFault_ctx runs cls

/-- The block after an instruction of context c that was x has faulted. -/
def FaultEnds (h : Hw) (c : Nat) (x : Ctx) : Prop :=
  (h.ctx c).withdrawn = some 0x17 ∧ (h.ctx c).st = .quiescing ∧ (h.ctx c).regs = x.regs ∧ (h.ctx c).pc = x.pc ∧
    mayIssue h c = false

theorem Ctx.WithdrawnFrom.faultEnds {h : Hw} {c : Nat} {x : Ctx} (w : (h.ctx c).WithdrawnFrom x stIllegalProgram) :
    FaultEnds h c x := ⟨w.withdrawn, w.quiescing, w.regs, w.pc, mayIssue_withdrawn w.withdrawn⟩

theorem completes_fault {s : State} {c : BitVec 9} {i : Instr} {word : BitVec 32} {kind : RepKind} {act : Hw → Act}
    (e : exec i s = s.insn c word kind act) (issues : Issues s.hw c.toNat)
    (uncommitted : (s.hw.ctx c.toNat).committed = false) (f : IssueFaults s.hw c.toNat word kind act) :
    Completes i s fun h => FaultEnds h c.toNat (s.hw.ctx c.toNat) :=
  completes_of_to (e.trans (State.live_awake s _ issues.awake)) (f.withdrawn (issues.runs uncommitted)).faultEnds

/-- An instruction that reads the store faults before it reads. -/
theorem completes_readFault {s : State} {c : BitVec 9} {i : Instr} {word : BitVec 32} {kind : RepKind} {act : Hw → Act}
    (e : exec i s = s.insnRead c word kind act) (issues : Issues s.hw c.toNat)
    (uncommitted : (s.hw.ctx c.toNat).committed = false) (f : IssueFaults s.hw c.toNat word kind act) :
    Completes i s fun h => FaultEnds h c.toNat (s.hw.ctx c.toNat) := by
  have settled := (settleAll_sansWork (issue s.hw c.toNat word kind act) c.toNat).trans (f.withdrawn (issues.runs uncommitted))
  exact completes_of_to (e.trans (State.work_awake s _ issues.awake)) (Ctx.WithdrawnFrom.faultEnds settled)

end Sys2Proof.Machine
end

section
namespace Sys2Proof.Machine

theorem Completes.mono {i : Instr} {s : State} {P Q : Hw → Prop} (h : Completes i s P) (imp : ∀ h, P h → Q h) :
    Completes i s Q := by
  obtain ⟨t, run, p⟩ := h
  exact ⟨t, run, imp t p⟩

/-! ### Loads and stores that fault (R71, R72) -/

theorem accessPlace_misaligned (x : Ctx) {ea : Word} {n : Nat} (h : ea.toNat % n ≠ 0) (write : Bool) :
    accessPlace x ea n write = .error 6 := by
  simp [accessPlace, h]

/-- Between the descriptor and the handles there is no region. -/
theorem accessPlace_outside (x : Ctx) {ea : Word} {n : Nat} (aligned : ea.toNat % n = 0) (pos : 0 < n)
    (above : 0x1040 ≤ ea.toNat) (below : ea.toNat < 0x10000000) (write : Bool) : accessPlace x ea n write = .error 5 := by
  have h1 : ¬ea.toNat + n ≤ 0x1000 := by omega
  have h2 : ¬ea.toNat + n ≤ 0x1040 := by omega
  have h3 : ¬0x10000000 ≤ ea.toNat := by omega
  simp [accessPlace, place, aligned, h1, h2, h3]

/-- A load at an address that its access refuses traps. -/
theorem loadAct_error {s : Hw} {c : Nat} {rb : BitVec 5} {adr : BitVec 10} {n : Nat} {cls : TrapClass}
    (refused : accessPlace (s.ctx c) ((s.ctx c).rget rb + adr.signExtend 64) n false = .error cls) (rd : BitVec 5) (sx : Bool)
    (read : List WordErrors) : loadAct c rd rb 0 adr 1 n sx read s = .trap cls := by
  have eff : effective (s.ctx c) rb 0 adr (1 * n) = .ok ⟨(s.ctx c).rget rb + adr.signExtend 64, none⟩ := rfl
  rw [← Nat.one_mul n] at refused
  unfold loadAct
  simp only [eff, refused]

theorem storeAct_error {s : Hw} {c : Nat} {rb : BitVec 5} {adr : BitVec 10} {n : Nat} {cls : TrapClass}
    (refused : accessPlace (s.ctx c) ((s.ctx c).rget rb + adr.signExtend 64) n true = .error cls) (rd : BitVec 5) :
    storeAct c rd rb 0 adr 1 n s = .trap cls := by
  have eff : effective (s.ctx c) rb 0 adr (1 * n) = .ok ⟨(s.ctx c).rget rb + adr.signExtend 64, none⟩ := rfl
  rw [← Nat.one_mul n] at refused
  unfold storeAct
  simp only [eff, refused]

theorem completes_loadFault {s : State} {c : BitVec 9} (i : Issues s.hw c.toNat)
    (uncommitted : (s.hw.ctx c.toNat).committed = false) (rd : BitVec 5) {rb : BitVec 5} {adr : BitVec 10} {sz : BitVec 2}
    (sx : Bool) (read : List WordErrors) {cls : TrapClass} (fault : 3 < cls.toNat)
    (refused : accessPlace (s.hw.ctx c.toNat) ((s.hw.ctx c.toNat).rget rb + adr.signExtend 64) (2 ^ sz.toNat) false =
      .error cls) : Completes (.ld c rd rb 0 sz sx adr read) s fun h => FaultEnds h c.toNat (s.hw.ctx c.toNat) :=
  completes_readFault (kind := .repeatable) rfl i uncommitted (issueFaults_repeatable i _ fault (loadAct_error refused rd sx read))

/-! ### Engine instructions with no ticket free (R80) -/

theorem Ctx.freeTicket_none {x : Ctx} (taken : ∀ t < 16, (x.tk t).st ≠ .free) : x.freeTicket = none := by
  simpa [Ctx.freeTicket] using taken

theorem engineAct_no_ticket {s : Hw} {c : Nat} (none_free : (s.ctx c).freeTicket = none) (i : Instr) (rd rb : BitVec 5)
    {e : Engine} (first : e.first = none) (start : Hw → Nat → Hw) : engineAct i c rd rb e start s = .trap 7 := by
  unfold engineAct
  simp only [first, none_free]
  exact ite_self _

theorem postAct_no_ticket {s : Hw} {c : BitVec 9} (none_free : (s.ctx c.toNat).freeTicket = none) (reg : Bool) (ra : BitVec 5)
    (status : BitVec 8) : postAct c reg ra status s = .trap 7 := by
  unfold postAct
  simp only [none_free]

/-! ### Traps that wait in the queue (R89, R90) -/

/-- The record of a trap that context c raises now. -/
def trapRecord (s : Hw) (c : Nat) (cls : TrapClass) (word : BitVec 32) : TrapRecord :=
  { ctx := c, cls := cls, pc := (s.ctx c).pc.setWidth 32, word := word
    repRemain := match (s.ctx c).rep with | some p => p.remain | none => 0
    repActive := (s.ctx c).rep.isSome, deadline := s.clk.core + trapDeadline s }

theorem queueTrap_ctxs (s : Hw) (c : Nat) (cls : TrapClass) (word : BitVec 32) :
    (queueTrap s c cls word).ctxs = (s.modCtx c fun x => { x with st := .trapped }).ctxs := by
  unfold queueTrap
  rw [note_ctxs]

theorem queueTrap_ctx (s : Hw) (c : Nat) (cls : TrapClass) (word : BitVec 32) :
    (queueTrap s c cls word).ctx c = { s.ctx c with st := .trapped } :=
  (Hw.ctx_congr (queueTrap_ctxs s c cls word) c).trans (s.modCtx_ctx c _)

theorem queueTrap_ctx_ne (s : Hw) {c a : Nat} (cls : TrapClass) (word : BitVec 32) (h : a ≠ c) :
    (queueTrap s c cls word).ctx a = s.ctx a :=
  (Hw.ctx_congr (queueTrap_ctxs s c cls word) a).trans (s.modCtx_ctx_ne _ h)

theorem queueTrap_trapq (s : Hw) (c : Nat) (cls : TrapClass) (word : BitVec 32) :
    (queueTrap s c cls word).trapq = { s.trapq with queue := s.trapq.queue ++ [trapRecord s c cls word] } := by
  unfold queueTrap
  rw [note_trapq]
  rfl

/-- A word that encodes no instruction raises the reserved-opcode trap when it is fetched (R99). -/
theorem exec_reservedOpcode {s : State} {c : BitVec 9} {word : BitVec 32} (i : Fetches s.hw c.toNat)
    (none_ : awlDecode 0 word [] = none) : exec (.reservedOpcode c word) s = s.to (queueTrap s.hw c.toNat 1 word) := by
  have reserved : wordReserved word = true := by rw [wordReserved, none_]; rfl
  refine (if_pos reserved).trans ((State.live_awake s _ i.awake).trans ?_)
  rw [issue_reserved i]
  rfl

theorem exec_reservedOpcode_encodes {s : State} {c : BitVec 9} {word : BitVec 32} (i : Fetches s.hw c.toNat)
    (some_ : (awlDecode 0 word []).isSome = true) : exec (.reservedOpcode c word) s = s.to s.hw := by
  have encodes : wordReserved word = false := by simpa [wordReserved] using some_
  exact (if_neg (by simp [encodes])).trans (State.live_awake s _ i.awake)

end Sys2Proof.Machine

open Sys2Proof Sys2Proof.Machine

/-- Settles O14: faults of an access, of MOVS, of a repeat and for want of a ticket end in `programFault`, a reserved word in
`queueTrap`. -/
theorem trapsAndProgramFaults : Obligations.TrapsAndProgramFaults := by
  refine ⟨fun s c i issues uncommitted => ?_, fun s c word fetches => ⟨fun none_ => ?_, ?_⟩,
    fun s c rd rc ra rb len reg status i issues rep uncommitted taken => ?_⟩
  · intro x
    rintro (⟨rd, rb, adr, sz, sx, read, rfl, misaligned | ⟨aligned, above, below⟩⟩ | ⟨rd, rb, adr, sz, rfl, misaligned⟩ |
      ⟨num, ra, rfl, low, high⟩ | ⟨cond, off, rfl, rep⟩)
    · exact completes_loadFault issues uncommitted rd sx read (by decide) (accessPlace_misaligned _ misaligned false)
    · exact completes_loadFault issues uncommitted rd sx read (by decide)
        (accessPlace_outside _ aligned (Nat.two_pow_pos _) above below false)
    · exact completes_fault (kind := .repeatable) rfl issues uncommitted
        (issueFaults_repeatable issues _ (by decide) (storeAct_error (accessPlace_misaligned _ misaligned true) rd))
    · have kind : specKind num.toNat = .notRepeatable := by simp [specKind, low, high]; omega
      refine completes_fault rfl issues uncommitted ?_
      rw [kind]
      exact issueFaults_once issues _ (cls := 5) (by decide) (by simp [low, high])
    · exact completes_fault rfl issues uncommitted (issueFaults_in_repeat issues _ _ rep)
  · refine completes_of_to (exec_reservedOpcode fetches none_) ⟨queueTrap_ctx .., fun a => queueTrap_ctx_ne s.hw 1 word,
      trapRecord s.hw c.toNat 1 word, queueTrap_trapq .., rfl, rfl, rfl, rfl, rfl, rfl⟩
  · exact exec_reservedOpcode_encodes fetches
  · have none_free := Ctx.freeTicket_none taken
    have faults : ∀ (word : BitVec 32) (act : Hw → Act), exec i s = s.insn c word .notRepeatable act → act s.hw = .trap 7 →
        Completes i s fun h => FaultEnds h c.toNat (s.hw.ctx c.toNat) := fun word act e trap =>
      completes_fault e issues uncommitted (issueFaults_once issues word (by decide) trap)
    intro form
    suffices ends : Completes i s fun h => FaultEnds h c.toNat (s.hw.ctx c.toNat) from
      ends.mono fun h ⟨withdrawn, quiescing, regs, _, _⟩ => ⟨withdrawn, quiescing, regs⟩
    obtain rfl | rfl | rfl | rfl := form
    · refine faults _ _ rfl ?_
      unfold cmpctAct
      exact engineAct_no_ticket none_free _ rd rb rfl _
    · exact faults _ _ rfl (engineAct_no_ticket none_free _ rd rb rfl _)
    · refine faults _ _ rfl ?_
      unfold signalAct
      exact engineAct_no_ticket none_free _ rd rb rfl _
    · exact faults _ _ rfl (postAct_no_ticket none_free reg ra status)
end

section
namespace Sys2Proof.Machine

/-! ### Waking leaves what a port's service and most writes look at (R390) -/

@[simp] theorem wake_clk (s : Hw) : (wake s).clk = s.clk := by
  unfold wake
  split <;> simp

@[simp] theorem wake_seam (s : Hw) : (wake s).seam = s.seam := by
  unfold wake
  split <;> simp

@[simp] theorem wake_active (s : Hw) : (wake s).active = s.active := by
  unfold wake
  split <;> simp

@[simp] theorem wake_trapq (s : Hw) : (wake s).trapq = s.trapq := by
  unfold wake
  split <;> simp

@[simp] theorem wake_ctxs (s : Hw) : (wake s).ctxs = s.ctxs := by
  unfold wake
  split <;> simp

theorem wake_fenced (s : Hw) (u : Nat) : (wake s).fenced u = s.fenced u := by
  unfold wake
  split
  · exact note_fenced _ 0xC8 0x11 0 u
  · rfl

theorem wake_power (s : Hw) : (wake s).sec.power ≠ .idle := by
  unfold wake
  split
  · simp
  · assumption

theorem wake_awake {s : Hw} (h : s.sec.power ≠ .idle) : wake s = s := if_neg h

/-- A port in service stays in service when the block wakes. -/
theorem ctlServes_wake (s : Hw) (p : CtlPort) : ctlServes (wake s) p = ctlServes s p := by
  have fenced := wake_fenced s (ctlUnit p)
  unfold ctlServes
  rw [fenced]
  unfold wake
  split
  · next idle => cases p <;> simp [ctlInReset, clamped, idle]
  · rfl

theorem ctlServes_congr {s t : Hw} (flt : t.flt = s.flt) (sec : t.sec = s.sec) (clk : t.clk = s.clk) (rm : t.rm = s.rm)
    (p : CtlPort) : ctlServes t p = ctlServes s p := by
  cases p <;> simp only [ctlServes, ctlInReset, clamped, Hw.fenced, Hw.blk, clkPerUs, flt, sec, clk, rm] <;> rfl

/-- Writes of two ports in one core clock, the first of which touches neither fault blocks, power, time nor the ring manager:
both take effect, and the block wakes once. -/
theorem openWrite_both {s : Hw} {p q : CtlPort} (hp : Serves s p) (hq : Serves s q) {f : Hw → Hw} (g : Hw → Hw)
    (flt : (f (wake s)).flt = (wake s).flt) (sec : (f (wake s)).sec = (wake s).sec) (clk : (f (wake s)).clk = (wake s).clk)
    (rm : (f (wake s)).rm = (wake s).rm) : openWrite (openWrite s p f) q g = g (f (wake s)) := by
  have first : openWrite s p f = f (wake s) := if_pos hp.port
  have serves : ctlServes (f (wake s)) q = true := by rw [ctlServes_congr flt sec clk rm, ctlServes_wake, hq.port]
  rw [first, openWrite, if_pos serves, wake_awake (by rw [sec]; exact wake_power s)]

theorem serves_first {s : Hw} (a : Serves s .ctla) (b : Serves s .ctlb) (p : CtlPort) : Serves s p := by
  cases p
  · exact a
  · exact b

/-! ### The lease of the cinch (R308, R309) -/

/-- The end of a lease that starts now: at least a millisecond, at most 10,000, in aon_clk periods from the next. -/
theorem leaseFrom_eq (s : Hw) :
    leaseFrom s = s.clk.aon + 1 + (max 1 (min 10000 (fld s.cinch.lease 0 14)) * 32768 + 999) / 1000 := by
  rw [leaseFrom, ceilDiv, leaseMs, Nat.add_sub_assoc (by decide)]

/-- The cinch as a port acquires it in block s. -/
def Cinch.acquired (s : Hw) (p : CtlPort) : Cinch :=
  { s.cinch with owner := some p, gen := s.cinch.gen + 1, note := 0, leaseEnd := leaseFrom s }

theorem cinchAcquire_free {s : Hw} (h : s.cinch.owner = none) (p : CtlPort) :
    cinchAcquire p s = { s with cinch := Cinch.acquired s p } :=
  if_neg (by simp [h])

theorem cinchAcquire_held {s : Hw} (h : s.cinch.owner.isSome = true) (p : CtlPort) : cinchAcquire p s = s := if_pos h

theorem leaseFrom_wake (s : Hw) : leaseFrom (wake s) = leaseFrom s := by simp [leaseFrom_eq]

theorem acquired_wake (s : Hw) (p : CtlPort) : Cinch.acquired (wake s) p = Cinch.acquired s p := by
  simp [Cinch.acquired, leaseFrom_wake]

/-- Ticket reads of both ports that find the cinch free: the port that did not win the last tie acquires it. -/
theorem ticketBoth_free {s : Hw} (a : Serves s .ctla) (b : Serves s .ctlb) (h : s.cinch.owner = none) :
    ticketBoth s = { wake s with cinch :=
      { Cinch.acquired s (otherPort s.cinch.lastTie) with lastTie := otherPort s.cinch.lastTie } } := by
  have free : (wake s).cinch.owner = none := by rw [wake_cinch, h]
  have got := cinchAcquire_free free (otherPort s.cinch.lastTie)
  have both := openWrite_both (serves_first a b (otherPort s.cinch.lastTie))
    (serves_first a b (otherPort (otherPort s.cinch.lastTie))) (f := cinchAcquire (otherPort s.cinch.lastTie))
    (cinchAcquire (otherPort (otherPort s.cinch.lastTie))) (by rw [got]) (by rw [got]) (by rw [got]) (by rw [got])
  have tie : (s.cinch.owner.isNone && ctlServes s .ctla && ctlServes s .ctlb) = true := by simp [h, a.port, b.port]
  unfold ticketBoth
  simp only [tie, both, got, if_true]
  rw [cinchAcquire_held rfl, acquired_wake]

/-! ### The cinch is given up (R97, R310, R311) -/

/-- What ends with a hold of the cinch: program loading, and the port's messages; the cinch, the seam, the active set and the
clocks stand. -/
theorem dropHolder_keeps (s : Hw) (p : CtlPort) : (dropHolder s p).awlLoad = false ∧ (dropHolder s p).cinch = s.cinch ∧
    (dropHolder s p).seam = s.seam ∧ (dropHolder s p).active = s.active ∧ (dropHolder s p).clk = s.clk := by
  unfold dropHolder abandonAppr abandonIntake
  split <;> split <;> exact ⟨rfl, rfl, rfl, rfl, rfl⟩

/-- A broken cinch is free, and names the cause; edits not yet made by a seam are discarded by a copy. -/
theorem breakCinch_held {s : Hw} {p : CtlPort} (h : s.cinch.owner = some p) (cause : BitVec 3) :
    (breakCinch s cause).cinch = { s.cinch with
      owner := none, broken := true, cause := cause, discarded := decide (s.seam.st = .ready) && s.seam.dirty } ∧
    (breakCinch s cause).awlLoad = false ∧ (breakCinch s cause).clk = s.clk ∧
    (breakCinch s cause).seam.st = (if s.seam.st = .ready ∧ s.seam.dirty = true then .copying else s.seam.st) ∧
    (breakCinch s cause).active = s.active := by
  unfold breakCinch
  simp only [h]
  obtain ⟨load, cinch, seam, active, clk⟩ := dropHolder_keeps { s with cinch :=
    { s.cinch with owner := none, broken := true, cause := cause, discarded := decide (s.seam.st = .ready) && s.seam.dirty } } p
  generalize dropHolder _ p = t at load cinch seam active clk ⊢
  split
  · next discards =>
    simp only [Bool.and_eq_true, decide_eq_true_eq] at discards
    simp [startCopy, load, cinch, active, clk, discards]
  · next keeps =>
    simp only [Bool.and_eq_true, decide_eq_true_eq] at keeps
    simp [load, cinch, seam, active, clk, keeps]

end Sys2Proof.Machine

open Sys2Proof Sys2Proof.Machine

/-- Settles O35: every clause is the operation of the command, on the block awake. -/
theorem theCinchChangesHands : Obligations.TheCinchChangesHands := by
  intro s p note
  refine ⟨fun serves free => ?_, fun serves held => ?_, fun a b free => ?_, fun m => ⟨?_, ?_, ?_⟩, fun awake owner => ?_⟩
  · refine (State.opened_serves _ serves).trans (State.writes_congr s ?_)
    rw [cinchAcquire_free (by rw [wake_cinch, free]), acquired_wake]
    rfl
  · refine (State.opened_serves _ serves).trans (State.writes_congr s ?_)
    rw [cinchAcquire_held (by rwa [wake_cinch]), ← wake_cinch]
  · refine (State.work_awake s _ a.awake).trans ?_
    unfold State.events State.writes
    rw [ticketBoth_free a b free]
    rfl
  · refine (State.cinched_masters _ m).trans (State.writes_congr s ?_)
    simp only [wake_cinch]
  · refine (State.cinched_masters _ m).trans (State.writes_congr s ?_)
    simp only [wake_cinch, leaseFrom_wake]
    rfl
  · obtain ⟨load, cinch, seam, -, -⟩ :=
      dropHolder_keeps { wake s.hw with cinch := { (wake s.hw).cinch with owner := none } } p
    refine completes_of_to (State.cinched_masters _ m) ⟨?_, ?_, ?_⟩
    · rw [settleAll_cinch]
      exact cinch.trans (by rw [wake_cinch])
    · rw [settleAll_awlLoad]
      exact load
    · rw [settleAll_seam]
      exact seam.trans (wake_seam _)
  · have expiry : leaseExpiry s.hw = breakCinch (wake (advanceAon s.hw s.hw.cinch.leaseEnd)) 1 := if_pos (by rw [owner]; rfl)
    obtain ⟨cinch, load, clk, seam, active⟩ := breakCinch_held (s := wake (advanceAon s.hw s.hw.cinch.leaseEnd))
      (by rw [wake_cinch]; exact owner) 1
    refine completes_settleAll (f := leaseExpiry) rfl awake ?_
    rw [settleAll_cinch, settleAll_awlLoad, settleAll_clk, settleAll_seam, settleAll_active, expiry]
    rw [cinch, load, clk, seam, active]
    simp only [wake_cinch, wake_clk, wake_seam, wake_active]
    refine ⟨rfl, trivial, ?_, rfl, rfl⟩
    show s.hw.clk.aon + (s.hw.cinch.leaseEnd - s.hw.clk.aon) = max s.hw.clk.aon s.hw.cinch.leaseEnd
    omega
end

section
namespace Sys2Proof.Machine

/-! ### Claims of trap records (R90) -/

@[simp] theorem Hw.setClaim_claim (s : Hw) (p : CtlPort) (v : Option TrapRecord) : (s.setClaim p v).claim p = v := by
  cases p <;> rfl

@[simp] theorem otherPort_otherPort (p : CtlPort) : otherPort (otherPort p) = p := by cases p <;> rfl

theorem Hw.claim_congr {s t : Hw} (h : s.trapq = t.trapq) (p : CtlPort) : s.claim p = t.claim p := by
  unfold Hw.claim
  rw [h]

@[simp] theorem wake_claim (s : Hw) (p : CtlPort) : (wake s).claim p = s.claim p := Hw.claim_congr (wake_trapq s) p

@[simp] theorem wake_ctx (s : Hw) (c : Nat) : (wake s).ctx c = s.ctx c := Hw.ctx_congr (wake_ctxs s) c

/-- A claim that takes a record. -/
theorem claimOne_takes {s : Hw} {p : CtlPort} {r : TrapRecord} {q : List TrapRecord} (free : s.claim p = none)
    (queue : s.trapq.queue = r :: q) : (claimOne p s).trapq.queue = q ∧ (claimOne p s).claim p = some r ∧
      (claimOne p s).claim (otherPort p) = s.claim (otherPort p) ∧ (claimOne p s).trapq.expired = s.trapq.expired := by
  cases p with
  | ctla =>
    have unclaimed : s.trapq.claimA = none := free
    simp [claimOne, Hw.claim, Hw.setClaim, otherPort, unclaimed, queue]
  | ctlb =>
    have unclaimed : s.trapq.claimB = none := free
    simp [claimOne, Hw.claim, Hw.setClaim, otherPort, unclaimed, queue]

/-- A claim touches the trap queue alone. -/
theorem claimOne_eq (p : CtlPort) (s : Hw) : claimOne p s = { s with trapq := (claimOne p s).trapq } := by
  unfold claimOne
  dsimp only
  split <;> rfl

/-- Claims of both ports that find two records: the port that did not win the last tie takes the older. -/
theorem claimBoth_takes {s : Hw} {r v : TrapRecord} {q : List TrapRecord} (a : Serves s .ctla) (b : Serves s .ctlb)
    (freeA : s.trapq.claimA = none) (freeB : s.trapq.claimB = none) (queue : s.trapq.queue = r :: v :: q) :
    (claimBoth s).trapq.queue = q ∧ (claimBoth s).claim (otherPort s.trapq.lastTie) = some r ∧
      (claimBoth s).claim (otherPort (otherPort s.trapq.lastTie)) = some v ∧
      (claimBoth s).trapq.lastTie = otherPort s.trapq.lastTie := by
  have tie : (s.trapq.claimA.isNone && s.trapq.claimB.isNone && !s.trapq.queue.isEmpty) = true := by simp [freeA, freeB, queue]
  unfold claimBoth
  simp only [tie, if_true]
  generalize otherPort s.trapq.lastTie = first
  have free : ∀ p, (wake s).claim p = none := fun p => by
    rw [wake_claim]
    cases p
    · exact freeA
    · exact freeB
  have one := claimOne_eq first (wake s)
  rw [openWrite_both (serves_first a b first) (serves_first a b (otherPort first)) _ (by rw [one]) (by rw [one]) (by rw [one])
    (by rw [one])]
  obtain ⟨queue1, claim1, other1, -⟩ := claimOne_takes (free first) (by rw [wake_trapq, queue])
  obtain ⟨queue2, claim2, other2, -⟩ := claimOne_takes (p := otherPort first) (s := claimOne first (wake s))
    (by rw [other1, free]) queue1
  rw [otherPort_otherPort] at other2
  exact ⟨queue2, (Hw.claim_congr rfl first).trans (other2.trans claim1), claim2, trivial⟩

/-! ### Resumes (R91) -/

theorem resumeWith_claimed {s : Hw} {p : CtlPort} {k : TrapRecord} (h : s.claim p = some k) (f : TrapRecord → Ctx → Ctx) :
    resumeWith p f s = (s.setClaim p none).modCtx k.ctx fun x => { f k x with st := .ready, hold := .none, emulated := true } := by
  simp only [resumeWith, h]

theorem resumeWith_unclaimed {s : Hw} {p : CtlPort} (h : s.claim p = none) (f : TrapRecord → Ctx → Ctx) :
    resumeWith p f s = s := by
  simp only [resumeWith, h]

/-- The iterations of a context that an emulator's action has counted. -/
def TrapRecord.counts (k : TrapRecord) (x : Ctx) (n : Nat) : Nat := x.retired + if k.cls = 3 then n - 1 else n

theorem stepPast_retireTrapped (k : TrapRecord) (n : Nat) (x : Ctx) (lc : Bool) :
    stepPast (retireTrapped k n x) lc = { x.past lc with retired := k.counts x n } := by
  unfold stepPast Ctx.past
  have rep : (retireTrapped k n x).rep = x.rep := rfl
  rw [rep]
  cases x.rep with
  | none => rfl
  | some r =>
    dsimp only
    generalize (if r.remain = 0 then 0 else r.remain - 1) = left
    split <;> rfl

/-- A resume by the port that holds the claim: the context is READY in what the action makes of it. -/
theorem exec_resume {s : State} {p : CtlPort} {k : TrapRecord} (serves : Serves s.hw p) (claimed : s.hw.claim p = some k)
    (f : TrapRecord → Ctx → Ctx) {y : Ctx} (e : f k (s.hw.ctx k.ctx) = y) : s.opened p (resumeWith p f) = s.writes fun h =>
      (h.setClaim p none).setCtx k.ctx { y with st := .ready, hold := .none, emulated := true } := by
  refine (State.opened_serves _ serves).trans (State.writes_congr s ?_)
  rw [resumeWith_claimed (by rwa [wake_claim]), ← e, ← wake_ctx]
  rfl

/-! ### Records that end their request (R91, R92, R94) -/

theorem dropTrap_unclaimed {s : Hw} {p : CtlPort} (h : s.claim p = none) (c : Nat) : (dropTrap s c).claim p = none := by
  cases p with
  | ctla =>
    have unclaimed : s.trapq.claimA = none := h
    simp [dropTrap, Hw.claim, unclaimed]
  | ctlb =>
    have unclaimed : s.trapq.claimB = none := h
    simp [dropTrap, Hw.claim, unclaimed]

/-- ABORT withdraws the request of the claimed record. -/
theorem abortClaim_claimed {s : Hw} {p : CtlPort} {k : TrapRecord} (claimed : s.claim p = some k) (runs : (s.ctx k.ctx).Runs) :
    (settleAll (abortClaim p s)).claim p = none ∧
      ((settleAll (abortClaim p s)).ctx k.ctx).WithdrawnFrom (s.ctx k.ctx) stTrapUnhandled := by
  have aborted : abortClaim p s = withdraw (s.setClaim p none) k.ctx stTrapUnhandled := by simp only [abortClaim, claimed]
  have runs : ((s.setClaim p none).ctx k.ctx).Runs := runs
  rw [aborted]
  obtain ⟨trapq, -⟩ := withdraw_trapq runs stTrapUnhandled
  refine ⟨?_, (settleAll_sansWork _ k.ctx).trans (withdraw_ctx runs _)⟩
  rw [Hw.claim_congr (settleAll_trapq _) p, Hw.claim_congr trapq p]
  exact dropTrap_unclaimed (Hw.setClaim_claim ..) _

theorem abortClaim_unclaimed {s : Hw} {p : CtlPort} (h : s.claim p = none) : abortClaim p s = s := by
  simp only [abortClaim, h]

theorem slotWrite_unclaimed {s : Hw} {p : CtlPort} (h : s.claim p = none) (pc : Word) : slotWrite p pc s = s := by
  simp only [slotWrite, h]

/-- The block at the deadline of a record of context c, before the request is withdrawn: the record is gone, and counted
expired. -/
def trapExpired (s : Hw) (c : Nat) (r : TrapRecord) : Hw :=
  let t := forgetTrap (advanceTo s r.deadline) c
  note { t with trapq := { t.trapq with expired := satInc t.trapq.expired } } (awlUnit (awlOf c)) 3

/-- The deadline of the only record there is. -/
theorem trapExpiry_only {s : Hw} {c : Nat} {r : TrapRecord} (queue : s.trapq.queue = [r]) (freeA : s.trapq.claimA = none)
    (freeB : s.trapq.claimB = none) (mine : r.ctx = c) (runs : (s.ctx c).Runs) :
    (trapExpiry c s).trapq.queue = [] ∧ (trapExpiry c s).trapq.expired = satInc s.trapq.expired ∧
      (trapExpiry c s).clk.core = max s.clk.core r.deadline ∧
      ((trapExpiry c s).ctx c).WithdrawnFrom (s.ctx c) stTrapUnhandled := by
  have found : trapOf s c = some r := by simp [trapOf, queue, freeA, freeB, mine]
  have expiry : trapExpiry c s = withdraw (trapExpired s c r) c stTrapUnhandled := by
    simp only [trapExpiry, found]
    rfl
  have ctx : (trapExpired s c r).ctx c = s.ctx c := note_ctx ..
  obtain ⟨trapq, clk⟩ := withdraw_trapq (s := trapExpired s c r) (by rwa [ctx]) stTrapUnhandled
  rw [expiry, trapq, clk]
  refine ⟨?_, ?_, ?_, (withdraw_ctx (by rwa [ctx]) _).trans (by rw [ctx])⟩
  · simp [dropTrap, trapExpired, forgetTrap, advanceTo, queue, mine]
  · simp [dropTrap, trapExpired, forgetTrap, advanceTo]
  · simp [trapExpired, forgetTrap, advanceTo]

end Sys2Proof.Machine

open Sys2Proof Sys2Proof.Machine

/-- Settles O34: the claims, resumes and ends of trap records, each by what its operation does with a record. -/
theorem trapRecordsAreResolved : Obligations.TrapRecordsAreResolved := by
  intro s p r v q k pc c
  refine ⟨fun serves free queue => ?_, fun a b freeA freeB queue => ?_, fun serves claimed => ⟨?_, ?_, ?_, ?_, fun runs => ?_⟩,
    fun serves unclaimed i form => ?_, fun awake queue freeA freeB mine runs => ?_⟩
  · refine completes_of_to (State.opened_serves _ serves) ?_
    have taken := claimOne_takes (p := p) (s := wake s.hw) (by rwa [wake_claim]) (by rw [wake_trapq, queue])
    simpa [Hw.claim_congr (settleAll_trapq _)] using taken
  · refine completes_settleAll (f := claimBoth) rfl a.awake ?_
    have taken := claimBoth_takes a b freeA freeB queue
    simpa [Hw.claim_congr (settleAll_trapq _)] using taken
  · exact exec_resume serves claimed _ rfl
  · refine exec_resume serves claimed advanceCtx ?_
    unfold advanceCtx
    simp only [stepPast_retireTrapped]
    rfl
  · exact exec_resume serves claimed finishCtx rfl
  · refine (State.opened_serves _ serves).trans (State.writes_congr s ?_)
    simp only [slotWrite, wake_claim, claimed]
  · obtain ⟨claim, ended⟩ := abortClaim_claimed (p := p) (s := wake s.hw) (by rwa [wake_claim]) (by rwa [wake_ctx])
    exact completes_of_to (State.opened_serves _ serves) ⟨claim, ended.withdrawn, mayIssue_withdrawn ended.withdrawn⟩
  · have nothing : ∀ f : Hw → Hw, f (wake s.hw) = wake s.hw → s.opened p f = s.writes fun h => h := fun f e =>
      (State.opened_serves _ serves).trans (State.writes_congr s e)
    have unclaimed : (wake s.hw).claim p = none := by rwa [wake_claim]
    obtain rfl | rfl | rfl | rfl | rfl := form
    · exact nothing _ (resumeWith_unclaimed unclaimed _)
    · exact nothing _ (resumeWith_unclaimed unclaimed _)
    · exact nothing _ (resumeWith_unclaimed unclaimed _)
    · exact nothing _ (abortClaim_unclaimed unclaimed)
    · exact nothing _ (slotWrite_unclaimed unclaimed pc)
  · obtain ⟨emptied, expired, clk, ended⟩ := trapExpiry_only queue freeA freeB mine runs
    refine completes_settleAll (f := trapExpiry c.toNat) rfl awake ⟨?_, ?_, ?_, ?_⟩
    · rw [settleAll_trapq, emptied]
    · rw [settleAll_trapq, expired]
    · rw [settleAll_clk, clk]
    · exact Ctx.WithdrawnFrom.withdrawn ((settleAll_sansWork _ _).trans ended)
end

section
namespace Sys2Proof.Machine

/-! ### The ticket of an engine instruction (R80) -/

theorem Ctx.freeTicket_some {x : Ctx} {t : Nat} (ht : t < 16) (free : (x.tk t).st = .free)
    (lowest : ∀ u < t, (x.tk u).st ≠ .free) : x.freeTicket = some t := by
  simpa [Ctx.freeTicket, List.find?_range_eq_some, ht, free] using lowest

/-- A context with ticket t taken, its number in RD. -/
def Ctx.ticketed (x : Ctx) (t : Nat) (rd : BitVec 5) (verdict : Bool) : Ctx :=
  (x.setTk t { st := .pending, verdict := verdict }).rset rd (BitVec.ofNat 64 t)

section
variable (x : Ctx) (t : Nat) (rd : BitVec 5) (v : Bool)

@[simp] theorem Ctx.ticketed_st : (x.ticketed t rd v).st = x.st := by simp [Ctx.ticketed]
@[simp] theorem Ctx.ticketed_posted : (x.ticketed t rd v).posted = x.posted := by simp [Ctx.ticketed]
@[simp] theorem Ctx.ticketed_withdrawn : (x.ticketed t rd v).withdrawn = x.withdrawn := by simp [Ctx.ticketed]
@[simp] theorem Ctx.ticketed_handles : (x.ticketed t rd v).handles = x.handles := by simp [Ctx.ticketed]
@[simp] theorem Ctx.ticketed_inCursor : (x.ticketed t rd v).inCursor = x.inCursor := by simp [Ctx.ticketed]
@[simp] theorem Ctx.ticketed_outCursor : (x.ticketed t rd v).outCursor = x.outCursor := by simp [Ctx.ticketed]
@[simp] theorem Ctx.ticketed_req : (x.ticketed t rd v).req = x.req := by simp [Ctx.ticketed]
@[simp] theorem Ctx.ticketed_domain : (x.ticketed t rd v).domain = x.domain := by simp [Ctx.domain]
@[simp] theorem Ctx.ticketed_holdNeed : holdNeed (x.ticketed t rd v) = holdNeed x := by simp [holdNeed, Ctx.length]

end

/-- An engine instruction issues outside a repeat, ticket t is the lowest that is FREE, and its AFTER set names no FREE one. -/
structure TakesTicket (h : Hw) (c : Nat) (rb : BitVec 5) (t : Nat) : Prop where
  issues : Issues h c
  settled : h.Settled
  once : (h.ctx c).rep = none
  lt : t < 16
  free : (h.ctx c).freeTicket = some t
  after : ticketMask (h.ctx c) (afterSet (h.ctx c) rb) (· = .free) = 0#16

/-! ### The job in the router (R113) -/

/-- How ticket u stands, as a job that waits for it knows it. -/
def predAt (x : Ctx) (u : Nat) : Pred := ⟨BitVec.ofNat 4 u, if (x.tk u).st = .done then some (x.tk u).status else none⟩

theorem predAt_mem_predsOf (s : Hw) (c : Nat) {set : BitVec 16} (op : JobOp) {u : Nat} (hu : u < 16)
    (named : set.getLsbD u = true) : predAt (s.ctx c) u ∈ predsOf s c set op := by
  unfold predsOf
  exact List.mem_map.mpr ⟨u, List.mem_append_left _ (by simp [hu, bit, named]), rfl⟩

theorem predsMet_of_pending {x : Ctx} {u : Nat} (pending : (x.tk u).st = .pending) {l : List Pred} (mem : predAt x u ∈ l) :
    predsMet l = false := by
  have waits : (predAt x u).status.isSome = false := by simp [predAt, pending]
  exact List.all_eq_false.mpr ⟨_, mem, by simp [waits]⟩

/-- The block with context c as it goes into the router with its job, and the domains' holds. -/
def Hw.routed (s : Hw) (c : Nat) (y : Ctx) (holds : Table Nat) : Hw :=
  { s with ctxs := (s.setCtx c y).ctxs, cs := { s.cs with holds := holds } }

/-- The block once a job stands in the router. -/
def Hw.entered (s : Hw) (c t : Nat) (y : Ctx) (holds : Table Nat) (j : Job) : Hw :=
  { s with
    ctxs := (s.setCtx c y).ctxs
    jobs := tput (16 * c + t) j s.jobs
    jobSeq := s.jobSeq + 1
    cs := { s.cs with holds := holds } }

theorem enterJob_routed (s : Hw) (c t : Nat) (y : Ctx) (holds : Table Nat) (j : Job) :
    enterJob (s.routed c y holds) (jobKey c t) j = routerGo (s.entered c t y holds j) (jobKey c t) := rfl

theorem entered_ctx (s : Hw) (c t : Nat) (y : Ctx) (holds : Table Nat) (j : Job) : (s.entered c t y holds j).ctx c = y :=
  s.setCtx_ctx c y

theorem entered_job (s : Hw) (c t : Nat) (y : Ctx) (holds : Table Nat) (j : Job) :
    (s.entered c t y holds j).job (jobKey c t) = some j :=
  Hw.setJob_job s (jobKey c t) j

theorem entered_settled {s : Hw} (settled : s.Settled) {c : Nat} {y : Ctx} (posted : y.posted = none)
    (withdrawn : y.withdrawn = none) (t : Nat) (holds : Table Nat) (j : Job) : (s.entered c t y holds j).Settled :=
  (settled.setCtx c posted withdrawn).congr rfl rfl

/-- A job one of whose predecessors is not DONE waits (R113). -/
theorem routerGo_waits {s : Hw} {key : Nat} {j : Job} (job : s.job key = some j) (unmet : predsMet j.preds = false) :
    routerGo s key = s := by
  simp [routerGo, job, unmet]

theorem exec_jobPassedToEngine (s : State) (c : BitVec 9) {t : Nat} (ht : t < 16) :
    exec (.jobPassedToEngine c (BitVec.ofNat 4 t)) s = s.work fun h => routerGo h (jobKey c.toNat t) := by
  show (s.work fun h => routerGo h (jobKey c.toNat (BitVec.ofNat 4 t).toNat)) = _
  rw [BitVec.toNat_ofNat, Nat.mod_eq_of_lt ht]

/-- What the start of a job does to its context, the ticket taken, and to the domains' holds. -/
theorem takeTicket_modCtx {s : Hw} {c : Nat} (running : (s.ctx c).st = .ready) (t : Nat) (rd : BitVec 5) (v : Bool)
    (holds : Table Nat) {f : Ctx → Ctx} (keeps : ∀ x, (f x).st = x.st) :
    ({ takeTicket s c t rd v with cs := { s.cs with holds := holds } } : Hw).modCtx c f =
      s.routed c (f ((s.ctx c).ticketed t rd v)) holds := by
  have twice : (takeTicket s c t rd v).modCtx c f = s.setCtx c (f ((s.ctx c).ticketed t rd v)) :=
    s.modCtx_modCtx c _ f (by simp [running]) (by simp [keeps, running])
  have ctxs := congrArg Hw.ctxs twice
  unfold Hw.routed
  rw [← ctxs]
  rfl

/-! ### Engine instructions -/

/-- Context y is x with ticket t taken, but for what a job's start may change. -/
def Ctx.StartedFrom (y x : Ctx) (t : Nat) (rd : BitVec 5) (v : Bool) : Prop :=
  y = { x.ticketed t rd v with
    cstreams := y.cstreams, dstreams := y.dstreams, inCursor := y.inCursor, outCursor := y.outCursor, handles := y.handles }

theorem Ctx.StartedFrom.posted {x y : Ctx} {t : Nat} {rd : BitVec 5} {v : Bool} (h : y.StartedFrom x t rd v) :
    y.posted = x.posted :=
  (congrArg Ctx.posted (show y = _ from h) :).trans (x.ticketed_posted t rd v)

theorem Ctx.StartedFrom.withdrawn {x y : Ctx} {t : Nat} {rd : BitVec 5} {v : Bool} (h : y.StartedFrom x t rd v) :
    y.withdrawn = x.withdrawn :=
  (congrArg Ctx.withdrawn (show y = _ from h) :).trans (x.ticketed_withdrawn t rd v)

/-- The jobs that an engine instruction puts in the router, its ticket taken. -/
def Enters (s : State) (c : BitVec 9) (rd rb : BitVec 5) (t : Nat) (holds : Table Nat) (i : Instr) (op : JobOp)
    (more : Ctx → Prop) : Prop :=
  let x := s.hw.ctx c.toNat
  let set := afterSet x rb
  ∃ (j : Job) (y : Ctx) (v : Bool), j.op = op ∧ j.phase = .after ∧ more y ∧
    (∀ u < 16, set.getLsbD u = true → predAt x u ∈ j.preds) ∧ y.StartedFrom x t rd v ∧
    let entered := s.hw.entered c.toNat t y holds j
    ((∃ u < 16, set.getLsbD u = true ∧ (x.tk u).st = .pending) →
      exec i s = s.to (entered.setCtx c.toNat (y.past false))) ∧
    ((∀ n, queueFull s.hw c.toNat n op = false) →
      ∃ h, exec (.jobPassedToEngine c (BitVec.ofNat 4 t)) { s with hw := entered } = s.to h ∧
        exec i s = s.to (h.setCtx c.toNat ((h.ctx c.toNat).past false)))

/-- The job that an engine instruction of context c puts in the router. -/
def Engine.enteringJob (e : Engine) (s : Hw) (c : Nat) (rb : BitVec 5) : Job :=
  e.job s (predsOf s c (afterSet (s.ctx c) rb) e.op)

/-- Nothing holds an engine instruction back: its job waits for others, or its queue has room. -/
def Engine.NotHeld (e : Engine) (s : Hw) (c t : Nat) (rb : BitVec 5) : Prop :=
  goesNow s (jobKey c t) (e.enteringJob s c rb) = false ∨ queueFull s c e.stream e.op = false

theorem engineAct_enters {s : Hw} {c t : Nat} {rb : BitVec 5} (k : TakesTicket s c rb t) (i : Instr) (rd : BitVec 5)
    {e : Engine} (start : Hw → Nat → Hw) (first : e.first = none) (last : e.last = none) (accepted : e.refuse = none)
    (room : e.NotHeld s c t rb) :
    engineAct i c rd rb e start s = .done (settleAll (enterJob (start (takeTicket s c t rd e.verdict) (jobKey c t)) (jobKey c t)
      (e.enteringJob s c rb))) false := by
  have taken : ¬(ticketMask (s.ctx c) (afterSet (s.ctx c) rb) (· = .free) != 0) = true := by simp [k.after]
  have go : ¬(goesNow s (jobKey c t) (e.job s (predsOf s c (afterSet (s.ctx c) rb) e.op)) &&
      queueFull s c e.stream e.op) = true := by
    obtain waits | room := room
    · have waits : goesNow s (jobKey c t) (e.job s (predsOf s c (afterSet (s.ctx c) rb) e.op)) = false := waits
      simp [waits]
    · simp [room]
  unfold engineAct
  simp only [first, last, accepted, k.free, if_neg taken, Option.isNone_none, Bool.true_and, if_neg go]
  rfl

section
variable {s : State} {c : BitVec 9} {rd rb : BitVec 5} {t : Nat} {i : Instr} {word : BitVec 32} {act : Hw → Act} {e : Engine}
  {start : Hw → Nat → Hw} {y : Ctx} {holds : Table Nat}

/-- An engine instruction that is not held takes its ticket, puts its job in the router, which passes it on if it may, and
retires. -/
theorem exec_engine (k : TakesTicket s.hw c.toNat rb t) (run : exec i s = s.insn c word .notRepeatable act)
    (engine : act s.hw = engineAct i c.toNat rd rb e start s.hw) (first : e.first = none) (last : e.last = none)
    (accepted : e.refuse = none)
    (started : start (takeTicket s.hw c.toNat t rd e.verdict) (jobKey c.toNat t) = s.hw.routed c.toNat y holds)
    (room : e.NotHeld s.hw c.toNat t rb) :
    exec i s = s.to ((settleAll (routerGo (s.hw.entered c.toNat t y holds (e.enteringJob s.hw c.toNat rb))
      (jobKey c.toNat t))).modCtx c.toNat (·.past false)) := by
  have acts := engine.trans (engineAct_enters k i rd start first last accepted room)
  rw [started, enterJob_routed] at acts
  have issued := issue_once k.issues k.once word act
  rw [acts] at issued
  refine run.trans ((State.live_awake s _ k.issues.awake).trans (congrArg s.to (issued.trans ?_)))
  exact congrArg (Hw.modCtx _ _) (funext fun x => retire_stepPast x false)

/-- An engine instruction that is not refused takes its ticket and puts its job in the router (R80, R113). -/
theorem engine_enters (k : TakesTicket s.hw c.toNat rb t) (run : exec i s = s.insn c word .notRepeatable act)
    (engine : act s.hw = engineAct i c.toNat rd rb e start s.hw) (first : e.first = none) (last : e.last = none)
    (accepted : e.refuse = none)
    (started : start (takeTicket s.hw c.toNat t rd e.verdict) (jobKey c.toNat t) = s.hw.routed c.toNat y holds)
    (from_ : y.StartedFrom (s.hw.ctx c.toNat) t rd e.verdict) {more : Ctx → Prop} (extra : more y) :
    Enters s c rd rb t holds i e.op more := by
  have preds : ∀ u < 16, (afterSet (s.hw.ctx c.toNat) rb).getLsbD u = true →
      predAt (s.hw.ctx c.toNat) u ∈ (e.enteringJob s.hw c.toNat rb).preds := fun u hu named =>
    predAt_mem_predsOf s.hw c.toNat e.op hu named
  refine ⟨e.enteringJob s.hw c.toNat rb, y, e.verdict, rfl, rfl, extra, preds, from_, ?_, fun room => ?_⟩
  · rintro ⟨u, hu, named, pending⟩
    have unmet := predsMet_of_pending pending (preds u hu named)
    have settled := entered_settled (c := c.toNat) k.settled (from_.posted.trans k.issues.unposted) (from_.withdrawn.trans k.issues.wanted) t
      holds (e.enteringJob s.hw c.toNat rb)
    rw [exec_engine k run engine first last accepted started (.inl (by simp [goesNow, unmet])),
      routerGo_waits (entered_job ..) unmet, settleAll_of_settled settled]
    unfold Hw.modCtx
    rw [entered_ctx]
  · refine ⟨_, ?_, exec_engine k run engine first last accepted started (.inr (room _))⟩
    exact (exec_jobPassedToEngine _ c k.lt).trans (State.work_awake _ _ k.issues.awake)

end

end Sys2Proof.Machine
end

section
namespace Sys2Proof.Machine

/-! ### Parameter blocks and privileges at issue (R96, R112, R121, R122) -/

theorem blockTrap_inside {a : Word} {n : Nat} (inside : a.toNat + n ≤ 0x1000) (aligned : a.toNat % n = 0) :
    blockTrap a n = none := by
  simp [blockTrap, Nat.not_lt.mpr inside, aligned]

/-- RA points to parameter block b of n bytes, aligned in scratch (R112). -/
structure Ctx.HasBlock (x : Ctx) (ra : BitVec 5) (n : Nat) (b : Block) : Prop where
  inside : (x.rget ra).toNat + n ≤ 0x1000
  aligned : (x.rget ra).toNat % n = 0
  read : blockAt x (x.rget ra) n = b

theorem Ctx.HasBlock.trap {x : Ctx} {ra : BitVec 5} {n : Nat} {b : Block} (p : x.HasBlock ra n b) :
    blockTrap (x.rget ra) n = none := blockTrap_inside p.inside p.aligned

theorem kindTrap_masked {s : Hw} {c k : Nat} (masked : bit (libMask (s.cfgOf c) (s.ctx c).entry.toNat) k = true) :
    kindTrap s c k = none := if_pos masked

theorem tenantTrap_system {s : Hw} {c : Nat} (system : (s.ctx c).domain = 0) : tenantTrap s c = none := if_pos system

@[simp] theorem fld_zero {w : Nat} (v : BitVec w) (len : Nat) : fld v 0 len = v.toNat % 2 ^ len := rfl

/-! ### The engine instructions, each with its job (R116 to R125) -/

/-- A context's cursors and handles stand as in x. -/
def Ctx.KeepsTransfers (x y : Ctx) : Prop := y.inCursor = x.inCursor ∧ y.outCursor = x.outCursor ∧ y.handles = x.handles

theorem Ctx.ticketed_keepsTransfers (x : Ctx) (t : Nat) (rd : BitVec 5) (v : Bool) : x.KeepsTransfers (x.ticketed t rd v) :=
  ⟨x.ticketed_inCursor t rd v, x.ticketed_outCursor t rd v, x.ticketed_handles t rd v⟩

section
variable {s : State} {c : BitVec 9} {rb : BitVec 5} {t : Nat}

/-- An engine instruction that does no more at issue than to put its job in the router. -/
theorem plain_enters (k : TakesTicket s.hw c.toNat rb t) {rd : BitVec 5} {i : Instr} {word : BitVec 32} {act : Hw → Act}
    {e : Engine} (run : exec i s = s.insn c word .notRepeatable act)
    (engine : act s.hw = engineAct i c.toNat rd rb e (fun s _ => s) s.hw) (first : e.first = none) (last : e.last = none)
    (accepted : e.refuse = none) : Enters s c rd rb t s.hw.cs.holds i e.op (s.hw.ctx c.toNat).KeepsTransfers :=
  engine_enters k run engine first last accepted rfl rfl (Ctx.ticketed_keepsTransfers ..)

/-- The domains' holds once a CIPH job has issued: FIRST reserves its own (R157). -/
def ciphHolds (s : Hw) (x : Ctx) (b : Block) : Table Nat :=
  if pbFirst b then tmod 0 s.cs.holds x.domain (· + if cbDir b && taggedMode (cbMode b) && !cbRel b then holdNeed x else 0)
  else s.cs.holds

/-- A context's streams once a CIPH job has issued. -/
def ciphOpened (b : Block) (id : Nat) (x : Ctx) : Ctx :=
  if pbFirst b then openStream x b id { holdBufs := if cbDir b && taggedMode (cbMode b) && !cbRel b then holdNeed x else 0 }
  else x.setCs id { x.cs id with isOpen := !pbLast b }

theorem ciphOpened_eq (b : Block) (id : Nat) (x : Ctx) :
    ciphOpened b id x = { x with cstreams := (ciphOpened b id x).cstreams } := by
  unfold ciphOpened
  split <;> rfl

theorem ciphStreams_accepted (k : TakesTicket s.hw c.toNat rb t) (rd : BitVec 5) (v : Bool) (b : Block) (id : Nat) :
    ciphStreams b id none (takeTicket s.hw c.toNat t rd v) (jobKey c.toNat t) =
      s.hw.routed c.toNat (ciphOpened b id ((s.hw.ctx c.toNat).ticketed t rd v)) (ciphHolds s.hw (s.hw.ctx c.toNat) b) := by
  have keeps : ∀ x, (ciphOpened b id x).st = x.st := fun x => (congrArg Ctx.st (ciphOpened_eq b id x) :)
  rw [← takeTicket_modCtx k.issues.ready t rd v _ keeps]
  have ctx : (takeTicket s.hw c.toNat t rd v).ctx c.toNat = (s.hw.ctx c.toNat).ticketed t rd v := Hw.modCtx_ctx ..
  unfold ciphStreams ciphHolds ciphOpened
  simp only [jobKey_div _ k.lt, ctx, Ctx.ticketed_domain, Ctx.ticketed_holdNeed]
  by_cases first : pbFirst b = true
  · simp only [first, if_true, Bool.not_true, Bool.false_eq_true, if_false]
    have need : ∀ x, x = (s.hw.ctx c.toNat).ticketed t rd v → holdNeed (s.hw.ctx c.toNat) = holdNeed x := by
      rintro _ rfl
      exact (Ctx.ticketed_holdNeed ..).symm
    refine congrArg (Hw.setCtx _ _) ?_
    exact congrArg (fun n => openStream _ b id { holdBufs := if cbDir b && taggedMode (cbMode b) && !cbRel b then n else 0 })
      (need _ ctx)
  · simp only [first, Bool.not_false, if_true]
    rfl

/-- The engine instruction of a CIPH whose job, of stream id, is accepted. -/
def ciphEngine (s : Hw) (c : Nat) (a : Word) (b : Block) (id : Nat) : Engine :=
  { first := blockTrap a 64, last := kindTrap s c (if cbMode b = 0x10 then 1 else 0), op := .ciph b, stream := id
    verdict := ciphVerdict b }

theorem ciphAct_accepted {h : Hw} {ra : BitVec 5} {b : Block} {id : Nat} (p : (h.ctx c.toNat).HasBlock ra 64 b)
    (issued : ciphIssue h c.toNat (afterSet (h.ctx c.toNat) rb) b = (id, none)) (rd : BitVec 5) :
    ciphAct c rd ra rb h = engineAct (.ciph c rd ra rb) c.toNat rd rb (ciphEngine h c.toNat ((h.ctx c.toNat).rget ra) b id)
        (ciphStreams b id none) h := by
  unfold ciphAct
  simp only [p.read, issued]
  rfl

theorem ciph_enters (k : TakesTicket s.hw c.toNat rb t) (rd : BitVec 5) {ra : BitVec 5} {b : Block}
    (p : (s.hw.ctx c.toNat).HasBlock ra 64 b) (kind : kindTrap s.hw c.toNat (if cbMode b = 0x10 then 1 else 0) = none)
    (accepted : (ciphIssue s.hw c.toNat (afterSet (s.hw.ctx c.toNat) rb) b).2 = none) :
    Enters s c rd rb t (ciphHolds s.hw (s.hw.ctx c.toNat) b) (.ciph c rd ra rb) (.ciph b)
      (s.hw.ctx c.toNat).KeepsTransfers := by
  have acts := ciphAct_accepted p (id := (ciphIssue s.hw c.toNat (afterSet (s.hw.ctx c.toNat) rb) b).1)
    (Prod.ext rfl accepted) rd
  generalize (ciphIssue s.hw c.toNat (afterSet (s.hw.ctx c.toNat) rb) b).1 = id at acts
  have opened := ciphOpened_eq b id ((s.hw.ctx c.toNat).ticketed t rd (ciphVerdict b))
  refine engine_enters k (word := encR 0x18 rd ra rb 0 0x00) rfl acts p.trap kind rfl
    (ciphStreams_accepted k rd (ciphVerdict b) b id) ?_ ?_
  · unfold Ctx.StartedFrom
    rw [opened]
    rfl
  · rw [opened]
    exact Ctx.ticketed_keepsTransfers ..

/-- A context's streams once a DGST job has issued. -/
def dgstOpened (b : Block) (id : Nat) (x : Ctx) : Ctx :=
  if pbFirst b then openDigest x b id {} else x.setDs id { x.ds id with isOpen := !pbLast b }

theorem dgstOpened_eq (b : Block) (id : Nat) (x : Ctx) :
    dgstOpened b id x = { x with dstreams := (dgstOpened b id x).dstreams } := by
  unfold dgstOpened
  split <;> rfl

/-- The start of a job that changes its context alone. -/
theorem takeTicket_starts (k : TakesTicket s.hw c.toNat rb t) (rd : BitVec 5) (v : Bool) {f : Ctx → Ctx}
    (keeps : ∀ x, (f x).st = x.st) : (takeTicket s.hw c.toNat t rd v).modCtx c.toNat f =
      s.hw.routed c.toNat (f ((s.hw.ctx c.toNat).ticketed t rd v)) s.hw.cs.holds :=
  takeTicket_modCtx k.issues.ready t rd v s.hw.cs.holds keeps

theorem takeTicket_starts_of_key (k : TakesTicket s.hw c.toNat rb t) (rd : BitVec 5) (v : Bool) {f : Ctx → Ctx}
    (keeps : ∀ x, (f x).st = x.st) : (takeTicket s.hw c.toNat t rd v).modCtx (jobKey c.toNat t / 16) f =
      s.hw.routed c.toNat (f ((s.hw.ctx c.toNat).ticketed t rd v)) s.hw.cs.holds := by
  rw [jobKey_div _ k.lt]
  exact takeTicket_starts k rd v keeps

/-- The engine instruction of a DGST whose job, of stream id, is accepted. -/
def dgstEngineOf (s : Hw) (c : Nat) (a : Word) (b : Block) (id : Nat) : Engine :=
  { first := blockTrap a 64, last := kindTrap s c (if digKeyed (dbAlg b) then 3 else 2), op := .dgst b, stream := id
    verdict := dbCheck b }

theorem dgstAct_accepted {h : Hw} {ra : BitVec 5} {b : Block} {id : Nat} (p : (h.ctx c.toNat).HasBlock ra 64 b)
    (issued : dgstIssue h c.toNat (afterSet (h.ctx c.toNat) rb) b = (id, none)) (rd : BitVec 5) :
    dgstAct c rd ra rb h = engineAct (.dgst c rd ra rb) c.toNat rd rb (dgstEngineOf h c.toNat ((h.ctx c.toNat).rget ra) b id)
        (dgstStreams b id none) h := by
  unfold dgstAct
  simp only [p.read, issued]
  rfl

theorem dgst_enters (k : TakesTicket s.hw c.toNat rb t) (rd : BitVec 5) {ra : BitVec 5} {b : Block}
    (p : (s.hw.ctx c.toNat).HasBlock ra 64 b) (kind : kindTrap s.hw c.toNat (if digKeyed (dbAlg b) then 3 else 2) = none)
    (accepted : (dgstIssue s.hw c.toNat (afterSet (s.hw.ctx c.toNat) rb) b).2 = none) :
    Enters s c rd rb t s.hw.cs.holds (.dgst c rd ra rb) (.dgst b) (s.hw.ctx c.toNat).KeepsTransfers := by
  have acts := dgstAct_accepted p (id := (dgstIssue s.hw c.toNat (afterSet (s.hw.ctx c.toNat) rb) b).1)
    (Prod.ext rfl accepted) rd
  generalize (dgstIssue s.hw c.toNat (afterSet (s.hw.ctx c.toNat) rb) b).1 = id at acts
  have opened := dgstOpened_eq b id ((s.hw.ctx c.toNat).ticketed t rd (dbCheck b))
  refine engine_enters k (word := encR 0x19 rd ra rb 0 0x00) rfl acts p.trap kind rfl
    (takeTicket_starts_of_key k rd (dbCheck b) (f := dgstOpened b id) fun x => (congrArg Ctx.st (dgstOpened_eq b id x) :)) ?_ ?_
  · unfold Ctx.StartedFrom
    rw [opened]
    rfl
  · rw [opened]
    exact Ctx.ticketed_keepsTransfers ..

theorem pk_enters (k : TakesTicket s.hw c.toNat rb t) (rd : BitVec 5) {ra : BitVec 5} {b : Block}
    (p : (s.hw.ctx c.toNat).HasBlock ra 64 b) (kind : kindTrap s.hw c.toNat 4 = none)
    (accepted : pkIssue s.hw c.toNat (afterSet (s.hw.ctx c.toNat) rb) b = none) :
    Enters s c rd rb t s.hw.cs.holds (.pk c rd ra rb) (.pk b) (s.hw.ctx c.toNat).KeepsTransfers := by
  obtain rfl := p.read
  exact plain_enters k (act := pkAct c rd ra rb) (word := encR 0x1A rd ra rb 0 0x00) rfl rfl p.trap kind accepted

end

end Sys2Proof.Machine
end

section
namespace Sys2Proof.Machine

section
variable {s : State} {c : BitVec 9} {rb : BitVec 5} {t : Nat}

/-! ### KEY and NDRAW (R118, R122, R247) -/

/-- An instruction of the key store with a 16 B block, accepted. -/
theorem key_enters (k : TakesTicket s.hw c.toNat rb t) {i : Instr} {word : BitVec 32} {rd ra : BitVec 5} {act : Hw → Act}
    {first : Option TrapClass} {op : Word → Word → JobOp} {bad : Word → Word → Bool} {b : Block}
    (run : exec i s = s.insn c word .notRepeatable act) (key : act s.hw = keyAct i c rd ra rb first op bad s.hw)
    (allowed : first = none) (p : (s.hw.ctx c.toNat).HasBlock ra 16 b) (good : bad (wordOf b 0) (wordOf b 1) = false) :
    Enters s c rd rb t s.hw.cs.holds i (op (wordOf b 0) (wordOf b 1)) (s.hw.ctx c.toNat).KeepsTransfers := by
  subst allowed
  obtain rfl := p.read
  exact plain_enters k run key p.trap rfl (if_neg (ne_true_of_eq_false good))

theorem kchk_accepted {w r : Word} (unreserved : keyReserved w = false) (range : rgBad r = false) (low : 1 ≤ fld w 20 4)
    (high : fld w 20 4 ≤ 6) (known : algKnown (fld w 24 8) = true ∨ fld w 24 8 = 0x70) :
    (keyReserved w || rgBad r || fld w 20 4 = 0 || 6 < fld w 20 4 || !(algKnown (fld w 24 8) || fld w 24 8 = 0x70)) = false := by
  have use : fld w 20 4 ≠ 0 := by omega
  have alg : (algKnown (fld w 24 8) || fld w 24 8 = 0x70) = true := by simpa using known
  simp [unreserved, range, use, high, alg]

theorem katt_accepted {w r : Word} (unreserved : keyReserved w = false) (range : rgBad r = false) (plain : fld w 20 12 = 0)
    (long : 3629 ≤ rgLen r) : (keyReserved w || rgBad r || fld w 20 12 != 0 || rgLen r < 3629) = false := by
  simp [unreserved, range, plain, long]

theorem kint_accepted {w r : Word} (unreserved : keyReserved w = false) (payload : rgPayloadBad r = false) :
    (keyReserved w || rgPayloadBad r) = false := by
  rw [unreserved, payload]
  rfl

theorem ndraw_enters (k : TakesTicket s.hw c.toNat rb t) {rc : BitVec 5} (holder : rc.toNat < 4) (rd ra : BitVec 5) :
    Enters s c rd rb t s.hw.cs.holds (.ndraw c rd rc ra rb)
      (.ndraw (((s.hw.ctx c.toNat).rget ra).extractLsb' 0 17) rc.toNat) (s.hw.ctx c.toNat).KeepsTransfers := by
  have kind : engineKind (decide (4 ≤ rc.toNat)) = .notRepeatable := by simp [engineKind, holder]
  refine plain_enters k (act := ndrawAct c rd rc ra rb) (word := encR 0x1C rd ra rb rc 0x00)
    (e := { op := .ndraw (((s.hw.ctx c.toNat).rget ra).extractLsb' 0 17) rc.toNat }) ?_ rfl rfl rfl rfl
  rw [← kind]
  rfl

/-! ### XFER (R121) -/

/-- The engine instruction of a transfer that is accepted. -/
def xferEngine (x : Ctx) (ra : BitVec 5) (op : JobOp) : Engine :=
  { first := blockTrap (x.rget ra) 16, op := op, span := spanOf x op }

/-- A transfer of which the block is accepted. -/
theorem xferAct_accepted {h : Hw} {ra : BitVec 5} {b : Block} (p : (h.ctx c.toNat).HasBlock ra 16 b)
    {first : Option TrapClass} (allowed : first = none) {bad : Word → Bool} (good : bad (wordOf b 0) = false)
    (payload : rgPayloadBad (wordOf b 1) = false) (op : Word → Word → JobOp) (i : Instr) (rd : BitVec 5) :
    xferAct i c rd ra rb first op bad h =
      engineAct i c.toNat rd rb (xferEngine (h.ctx c.toNat) ra (op (wordOf b 0) (wordOf b 1)))
        (takeSpan (op (wordOf b 0) (wordOf b 1)) (spanOf (h.ctx c.toNat) (op (wordOf b 0) (wordOf b 1))).2 false) h := by
  unfold xferAct
  simp only [allowed, p.read, payload, good, Bool.or_self, Bool.false_eq_true, if_false, Option.isSome_none]
  rfl

/-- A transfer that takes no span. -/
theorem xferStill_enters (k : TakesTicket s.hw c.toNat rb t) {i : Instr} {word : BitVec 32} {rd ra : BitVec 5} {act : Hw → Act}
    {first : Option TrapClass} {op : Word → Word → JobOp} {bad : Word → Bool} {b : Block}
    (run : exec i s = s.insn c word .notRepeatable act) (xfer : act s.hw = xferAct i c rd ra rb first op bad s.hw)
    (allowed : first = none) (p : (s.hw.ctx c.toNat).HasBlock ra 16 b) (good : bad (wordOf b 0) = false)
    (payload : rgPayloadBad (wordOf b 1) = false) (still : ∀ a r n h key, takeSpan (op a r) n false h key = h) :
    Enters s c rd rb t s.hw.cs.holds i (op (wordOf b 0) (wordOf b 1)) (s.hw.ctx c.toNat).KeepsTransfers :=
  engine_enters k run (xfer.trans (xferAct_accepted p allowed good payload op i rd)) p.trap rfl rfl (still ..) rfl
    (Ctx.ticketed_keepsTransfers ..)

theorem xlibAddr_accepted {w : Word} (aligned : w.toNat % 8 = 0) : (fld w 0 3 != 0) = false := by
  simp [aligned]

/-- A context whose gather has taken a span of n bytes. -/
def Ctx.gathered (x : Ctx) (n : Nat) : Ctx := { x with inCursor := x.inCursor + n }

/-- A context whose scatter has taken a span of n bytes. -/
def Ctx.scattered (x : Ctx) (n : Nat) : Ctx := { x with outCursor := x.outCursor + n }

theorem xgath_enters (k : TakesTicket s.hw c.toNat rb t) (rd : BitVec 5) {ra : BitVec 5} {b : Block}
    (p : (s.hw.ctx c.toNat).HasBlock ra 16 b) (payload : rgPayloadBad (wordOf b 1) = false) :
    let x := s.hw.ctx c.toNat
    Enters s c rd rb t s.hw.cs.holds (.xgath c rd ra rb) (.xgath (wordOf b 1)) fun y =>
      y.handles = x.handles ∧ y.outCursor = x.outCursor ∧
        y.inCursor = x.inCursor + min (rgLen (wordOf b 1)) (x.length - x.inCursor) := by
  intro x
  refine engine_enters k (act := xgathAct c rd ra rb) (word := encR 0x1D rd ra rb 0 0x00) rfl
    (xferAct_accepted p rfl rfl payload (fun _ r => .xgath r) _ rd) p.trap rfl rfl
    (takeTicket_starts_of_key k rd false (f := (·.gathered _)) fun _ => rfl) rfl
    ⟨Ctx.ticketed_handles .., Ctx.ticketed_outCursor .., ?_⟩
  exact congrArg (· + _) (Ctx.ticketed_inCursor ..)

theorem xscat_enters (k : TakesTicket s.hw c.toNat rb t) (rd : BitVec 5) {ra : BitVec 5} {b : Block}
    (p : (s.hw.ctx c.toNat).HasBlock ra 16 b) (payload : rgPayloadBad (wordOf b 1) = false) :
    let x := s.hw.ctx c.toNat
    Enters s c rd rb t s.hw.cs.holds (.xscat c rd ra rb) (.xscat (wordOf b 1)) fun y =>
      y.handles = x.handles ∧ y.inCursor = x.inCursor ∧ y.outCursor = x.outCursor + rgLen (wordOf b 1) := by
  intro x
  refine engine_enters k (act := xscatAct c rd ra rb) (word := encR 0x1D rd ra rb 0 0x01) rfl
    (xferAct_accepted p rfl rfl payload (fun _ r => .xscat r) _ rd) p.trap rfl rfl
    (takeTicket_starts_of_key k rd false (f := (·.scattered _)) fun _ => rfl) rfl
    ⟨Ctx.ticketed_handles .., Ctx.ticketed_inCursor .., ?_⟩
  exact congrArg (· + _) (Ctx.ticketed_outCursor ..)

/-! ### CMPCT, HND and SIGNAL (R123 to R125) -/

/-- A context with handle h being allocated. -/
def Ctx.allocating (x : Ctx) (h : Nat) : Ctx := x.setHnd h { st := .allocating }

/-- A context with handle h being freed. -/
def Ctx.freeing (x : Ctx) (h : Nat) : Ctx := x.setHnd h { x.hnd h with st := .freeing }

theorem Ctx.ticketed_hnd (x : Ctx) (t : Nat) (rd : BitVec 5) (v : Bool) (n : Nat) : (x.ticketed t rd v).hnd n = x.hnd n := by
  simp [Ctx.hnd]

theorem allocAct_accepted {h : Hw} {ra : BitVec 5} {n : Nat} (count : fld ((h.ctx c.toNat).rget ra) 0 32 = n)
    (one : 1 ≤ n) (few : n ≤ 1024) (rd rc : BitVec 5) : allocAct c rd rc ra rb h =
      engineAct (.alloc c rd rc ra rb) c.toNat rd rb
        { last := if ((h.ctx c.toNat).hnd rc.toNat).st = .closed then none else some 5, op := .alloc rc.toNat n }
        (fun h _ => h.modCtx c.toNat (·.allocating rc.toNat)) h := by
  have good : (decide (n = 0) || decide (1024 < n)) = false := by simp; omega
  unfold allocAct
  simp only [count, good, Bool.false_eq_true, if_false]
  rfl

theorem alloc_enters (k : TakesTicket s.hw c.toNat rb t) {rc ra : BitVec 5} (number : rc.toNat < 16)
    (closed : ((s.hw.ctx c.toNat).hnd rc.toNat).st = .closed) {n : Nat} (one : 1 ≤ n) (few : n ≤ 1024)
    (count : fld ((s.hw.ctx c.toNat).rget ra) 0 32 = n) (rd : BitVec 5) :
    let x := s.hw.ctx c.toNat
    Enters s c rd rb t s.hw.cs.holds (.alloc c rd rc ra rb) (.alloc rc.toNat n) fun y =>
      y.handles = (x.allocating rc.toNat).handles ∧ y.inCursor = x.inCursor ∧ y.outCursor = x.outCursor := by
  intro x
  have kind : engineKind (decide (16 ≤ rc.toNat)) = .notRepeatable := by simp [engineKind, number]
  refine engine_enters k (word := encR 0x1F rd ra rb rc 0x00) ?_ (allocAct_accepted count one few rd rc) rfl (if_pos closed) rfl
    (takeTicket_starts k rd false fun _ => rfl) rfl ⟨?_, Ctx.ticketed_inCursor .., Ctx.ticketed_outCursor ..⟩
  · rw [← kind]
    rfl
  · simp [Ctx.allocating, Ctx.setHnd, x]

theorem freeAct_eq (h : Hw) (rd rc : BitVec 5) : freeAct c rd rc rb h = engineAct (.free c rd rc rb) c.toNat rd rb
    { last := if (((h.ctx c.toNat).hnd rc.toNat).st = .live || ((h.ctx c.toNat).hnd rc.toNat).st = .allocating) then none
              else some 5
      op := .free rc.toNat } (fun h _ => h.modCtx c.toNat (·.freeing rc.toNat)) h := rfl

theorem free_enters (k : TakesTicket s.hw c.toNat rb t) {rc : BitVec 5} (number : rc.toNat < 16)
    (live : ((s.hw.ctx c.toNat).hnd rc.toNat).st = .live ∨ ((s.hw.ctx c.toNat).hnd rc.toNat).st = .allocating)
    (rd : BitVec 5) :
    let x := s.hw.ctx c.toNat
    Enters s c rd rb t s.hw.cs.holds (.free c rd rc rb) (.free rc.toNat) fun y =>
      y.handles = (x.freeing rc.toNat).handles ∧ y.inCursor = x.inCursor ∧ y.outCursor = x.outCursor := by
  intro x
  have kind : engineKind (decide (16 ≤ rc.toNat)) = .notRepeatable := by simp [engineKind, number]
  refine engine_enters k (word := encR 0x1F rd 0 rb rc 0x01) ?_ (freeAct_eq s.hw rd rc) rfl (if_pos (by simpa using live)) rfl
    (takeTicket_starts k rd false fun _ => rfl) rfl ⟨?_, Ctx.ticketed_inCursor .., Ctx.ticketed_outCursor ..⟩
  · rw [← kind]
    rfl
  · simp [Ctx.freeing, Ctx.setHnd, Ctx.ticketed_hnd, x]

theorem cmpct_enters (k : TakesTicket s.hw c.toNat rb t) (rd rc ra : BitVec 5) (len : BitVec 6) :
    let x := s.hw.ctx c.toNat
    Enters s c rd rb t s.hw.cs.holds (.cmpct c rd rc ra rb len) (.cmpct (x.rget ra) (x.rget rc) (len.toNat + 1))
      x.KeepsTransfers := by
  intro x
  exact plain_enters k (act := cmpctAct c rd rc ra rb len) (word := encR 0x1E rd ra rb rc len.toNat)
    (e := { op := .cmpct (x.rget ra) (x.rget rc) (len.toNat + 1), verdict := true }) rfl rfl rfl rfl rfl

theorem join_enters (k : TakesTicket s.hw c.toNat rb t) (rd : BitVec 5) :
    Enters s c rd rb t s.hw.cs.holds (.join c rd rb) .join (s.hw.ctx c.toNat).KeepsTransfers :=
  plain_enters k (act := joinAct c rd rb) (word := encR 0x1F rd 0 rb 0 0x02) (e := { op := .join }) rfl rfl rfl rfl rfl

theorem signalAct_accepted {h : Hw} {ra : BitVec 5} (aligned : ((h.ctx c.toNat).rget ra).toNat % 8 = 0) (rd rc : BitVec 5) :
    signalAct c rd rc ra rb h = engineAct (.signal c rd rc ra rb) c.toNat rd rb
      { op := .signal ((h.ctx c.toNat).rget ra) ((h.ctx c.toNat).rget rc) } (fun s _ => s) h := by
  have low : fld ((h.ctx c.toNat).rget ra) 0 3 = 0 := aligned
  unfold signalAct
  simp only [low]
  rfl

theorem signal_enters (k : TakesTicket s.hw c.toNat rb t) {ra : BitVec 5}
    (aligned : ((s.hw.ctx c.toNat).rget ra).toNat % 8 = 0) (rd rc : BitVec 5) :
    let x := s.hw.ctx c.toNat
    Enters s c rd rb t s.hw.cs.holds (.signal c rd rc ra rb) (.signal (x.rget ra) (x.rget rc)) x.KeepsTransfers := by
  intro x
  exact plain_enters k (act := signalAct c rd rc ra rb) (word := encR 0x21 rd ra rb rc 0x00) rfl
    (signalAct_accepted aligned rd rc) rfl rfl rfl

end

end Sys2Proof.Machine

open Sys2Proof Sys2Proof.Machine

/-- Settles O15: each engine instruction by what its issue does beside taking the ticket and entering its job. -/
theorem engineInstructionsTakeATicket : Obligations.EngineInstructionsTakeATicket := by
  intro s c rd rc ra rb len t issues settled x set a block w0 w1 kind inScratch opens entersWith enters same once ht free lowest
    taken
  have k : TakesTicket s.hw c.toNat rb t := ⟨issues, settled, once, ht, Ctx.freeTicket_some ht free lowest,
    ticketMask_eq_zero.mpr fun u hu named => by simpa using taken u hu named⟩
  have points : ∀ n, inScratch n → x.HasBlock ra n (block n) := fun n place => ⟨place.1, place.2, rfl⟩
  refine ⟨fun place masked accepted => ?_, fun place masked accepted => ?_, fun place masked accepted => ?_,
    fun place unreserved range low high known => ?_, fun place system unreserved payload => ?_,
    fun place unreserved range plain long => ?_, fun holder => ?_, fun place payload => ⟨?_, ?_, ?_, ?_, fun system addr => ?_⟩,
    ?_, fun number closed n one few count => ?_, fun number live => ?_, ?_, fun addr => ?_⟩
  · exact ciph_enters k rd (points 64 place) (kindTrap_masked masked) accepted
  · exact dgst_enters k rd (points 64 place) (kindTrap_masked masked) accepted
  · exact pk_enters k rd (points 64 place) (kindTrap_masked masked) accepted
  · exact key_enters k (act := kchkAct c rd ra rb) (op := fun w _ => .kchk w) (word := encR 0x1B rd ra rb 0 0x00) rfl rfl rfl
      (points 16 place) (kchk_accepted unreserved range low high known)
  · exact key_enters k (act := kintAct c rd ra rb) (op := fun _ r => .kint r) (word := encR 0x1B rd ra rb 0 0x01) rfl rfl
      (tenantTrap_system system) (points 16 place) (kint_accepted unreserved payload)
  · exact key_enters k (act := kattAct c rd ra rb) (op := fun w r => .katt (w.extractLsb' 0 17) r)
      (word := encR 0x1B rd ra rb 0 0x02) rfl rfl rfl (points 16 place) (katt_accepted unreserved range plain long)
  · have enters := ndraw_enters k holder rd ra
    have slot : (x.rget ra).extractLsb' 0 17 = (x.rget ra).setWidth 17 := BitVec.eq_of_toNat_eq rfl
    rwa [slot] at enters
  · exact xgath_enters k rd (points 16 place) payload
  · exact xscat_enters k rd (points 16 place) payload
  · exact xferStill_enters k (act := xloadAct c rd ra rb) (op := fun a r => .xload a r) (word := encR 0x1D rd ra rb 0 0x02)
      rfl rfl rfl (points 16 place) rfl payload fun _ _ _ _ _ => rfl
  · exact xferStill_enters k (act := xstoreAct c rd ra rb) (op := fun a r => .xstore a r) (word := encR 0x1D rd ra rb 0 0x03)
      rfl rfl rfl (points 16 place) rfl payload fun _ _ _ _ _ => rfl
  · exact xferStill_enters k (act := xlibAct c rd ra rb) (op := fun a r => .xlib a r) (word := encR 0x1D rd ra rb 0 0x04)
      rfl rfl (tenantTrap_system system) (points 16 place) (xlibAddr_accepted addr) payload fun _ _ _ _ _ => rfl
  · exact cmpct_enters k rd rc ra len
  · exact alloc_enters k number closed one few count rd
  · exact free_enters k number live rd
  · exact join_enters k rd
  · exact signal_enters k addr rd rc
end

section
namespace Sys2Proof.Machine

/-! ### Results and flags of the integer instructions (R78, R87, R101 to R103) -/

/-- A repeatable instruction that writes one register and the flags, with what it computes in another form. -/
theorem insn_writes {s : State} {c : BitVec 9} (i : Issues s.hw c.toNat) (word : BitVec 32) (rd : BitVec 5)
    {v : Ctx → Word} {f : Ctx → Flags} {r : Word} {g : Flags} (hv : v (s.hw.ctx c.toNat) = r)
    (hf : f (s.hw.ctx c.toNat) = g) : s.insn c word .repeatable (aluAct c.toNat rd v f) = s.result c rd r g := by
  subst hv hf
  exact insn_result i word rd v f

theorem fits64_eq (n : Int) : fits64 n = decide (-(2 ^ 63) ≤ n ∧ n < 2 ^ 63) := (Bool.decide_and ..).symm

theorem Flags.add_eq (f : Flags) (a b : Word) : f.add a b = { f with
    z := decide (a + b = 0), n := (a + b).msb, c := decide (2 ^ 64 ≤ a.toNat + b.toNat)
    v := !decide (-(2 ^ 63) ≤ a.toInt + b.toInt ∧ a.toInt + b.toInt < 2 ^ 63) } := by
  rw [Flags.add, fits64_eq]
  rfl

theorem Flags.sub_eq (f : Flags) (a b : Word) : f.sub a b = { f with
    z := decide (a - b = 0), n := (a - b).msb, c := decide (a.toNat < b.toNat)
    v := !decide (-(2 ^ 63) ≤ a.toInt - b.toInt ∧ a.toInt - b.toInt < 2 ^ 63) } := by
  rw [Flags.sub, fits64_eq]
  rfl

/-- A word whose signed value has no negative is the most negative one. -/
theorem fits64_neg (a : Word) : fits64 (0 - a.toInt) = !decide (a = BitVec.intMin 64) := by
  have low := BitVec.le_toInt a
  have high := BitVec.toInt_lt (x := a)
  have least : a = BitVec.intMin 64 ↔ a.toInt = -(2 ^ 63) := by rw [← BitVec.toInt_inj]; rfl
  rw [fits64_eq, ← decide_not]
  exact decide_eq_decide.mpr (by rw [least]; omega)

theorem Flags.neg_eq (f : Flags) (a : Word) : f.neg a = { f with
    z := decide (a = 0), n := (-a).msb, v := decide (a = BitVec.intMin 64) } := by
  have zero : decide (-a = 0) = decide (a = 0) := decide_eq_decide.mpr (by simp)
  have negated : 0 - a = -a := BitVec.zero_sub a
  rw [Flags.neg, fits64_neg, negated, Bool.not_not, ← zero]
  rfl

theorem Flags.mul_eq (f : Flags) (a b : Word) : f.mul a b = { f with
    z := decide (a * b = 0), n := (a * b).msb
    v := !decide (-(2 ^ 63) ≤ a.toInt * b.toInt ∧ a.toInt * b.toInt < 2 ^ 63) } := by
  rw [Flags.mul, fits64_eq]
  rfl

end Sys2Proof.Machine

open Sys2Proof Sys2Proof.Machine

/-- Settles O1: each form is a register result with the flags of its sum or difference. -/
theorem sumsAndDifferences : Obligations.SumsAndDifferences := by
  intro s c rd ra rb imm i
  have sign : (imm.signExtend 64).toInt = imm.toInt := BitVec.toInt_signExtend_of_le (by decide)
  exact ⟨insn_writes i _ rd rfl (Flags.add_eq ..), insn_writes i _ rd rfl (Flags.sub_eq ..),
    insn_writes i _ rd (BitVec.zero_sub _) (Flags.neg_eq ..),
    insn_writes i _ rd rfl ((Flags.add_eq ..).trans (by rw [sign])),
    insn_writes i _ 0 rfl rfl, insn_writes i _ 0 rfl rfl, insn_writes i _ 0 rfl rfl⟩
end

section
namespace Sys2Proof.Machine

/-! ### Byte reversal and counting (R101) -/

theorem beNat_lt (b : Bytes) : beNat b < 256 ^ b.length := by
  have := leNat_lt b.reverse
  rwa [List.length_reverse] at this

/-- The value of a byte string, byte by byte. -/
theorem extract_leNat (b : Bytes) {k : Nat} (h : k < b.length) : BitVec.ofNat 8 (leNat b / 256 ^ k) = b[k] := by
  induction b generalizing k with
  | nil => simp at h
  | cons x r ih =>
    have small : x.toNat < 256 := x.isLt
    cases k with
    | zero =>
      apply BitVec.eq_of_toNat_eq
      simp only [leNat, BitVec.toNat_ofNat, List.getElem_cons_zero]
      omega
    | succ k =>
      have rest : (x.toNat + 256 * leNat r) / 256 = leNat r := by omega
      rw [leNat, Nat.pow_succ', ← Nat.div_div_eq_div_mul, rest, List.getElem_cons_succ]
      exact ih _

/-- Byte k of the reversed word is byte 7 - k. -/
theorem extract_bswap64 (a : Word) {k : Nat} (h : k < 8) :
    (bswap64 a).extractLsb' (8 * k) 8 = a.extractLsb' (8 * (7 - k)) 8 := by
  have length : (leBytes 8 a.toNat).reverse.length = 8 := by rw [List.length_reverse, leBytes_length]
  have fits : beNat (leBytes 8 a.toNat) < 2 ^ 64 := by
    have := beNat_lt (leBytes 8 a.toNat)
    rwa [leBytes_length] at this
  have byte := getElem?_leBytes 8 a.toNat (k := 7 - k) (by omega)
  have value : (bswap64 a).toNat = leNat (leBytes 8 a.toNat).reverse := Nat.mod_eq_of_lt fits
  rw [← ofNat_div_eq_extract, ← ofNat_div_eq_extract, value, extract_leNat _ (by omega), List.getElem_reverse]
  rw [List.getElem?_eq_getElem (by rw [leBytes_length]; omega)] at byte
  simpa [leBytes_length] using byte

theorem clzFrom_le (a : Word) (n : Nat) : clzFrom a n ≤ n := by
  induction n with
  | zero => exact Nat.le_refl 0
  | succ n ih =>
    rw [clzFrom]
    split <;> omega

/-- The bits that are counted are clear. -/
theorem getLsbD_of_clzFrom (a : Word) (n : Nat) {k : Nat} (counted : n - clzFrom a n ≤ k) (below : k < n) :
    a.getLsbD k = false := by
  induction n with
  | zero => omega
  | succ n ih =>
    rw [clzFrom] at counted
    split at counted
    · omega
    · next clear =>
      obtain rfl | lower := Nat.eq_or_lt_of_le (Nat.le_of_lt_succ below)
      · simpa [bit] using clear
      · exact ih (by omega) lower

/-- The bit that ends the count is set. -/
theorem getLsbD_clzFrom (a : Word) (n : Nat) (stops : clzFrom a n < n) : a.getLsbD (n - 1 - clzFrom a n) = true := by
  induction n with
  | zero => omega
  | succ n ih =>
    rw [clzFrom] at stops ⊢
    split at stops
    · next set =>
      rw [if_pos set]
      exact set
    · next clear =>
      rw [if_neg clear, show n + 1 - 1 - (1 + clzFrom a n) = n - 1 - clzFrom a n by omega]
      exact ih (by omega)

theorem clz64_toNat (a : Word) : (clz64 a).toNat = clzFrom a 64 :=
  Nat.mod_eq_of_lt ((clzFrom_le a 64).trans_lt (by decide))

/-- A count by addition is the length of what is counted. -/
theorem foldl_count (p : Nat → Bool) (l : List Nat) (n : Nat) :
    l.foldl (fun n i => n + (p i).toNat) n = n + (l.filter p).length := by
  induction l generalizing n with
  | nil => rfl
  | cons i l ih =>
    rw [List.foldl_cons, ih]
    cases h : p i <;> simp [h, Nat.add_assoc, Nat.add_comm 1]

theorem popc64_toNat (a : Word) : (popc64 a).toNat = ((List.range 64).filter fun k => a.getLsbD k).length := by
  have few : ((List.range 64).filter fun k => a.getLsbD k).length ≤ 64 := by
    simpa using List.length_filter_le (fun k => a.getLsbD k) (List.range 64)
  have count := foldl_count (fun k => a.getLsbD k) (List.range 64) 0
  rw [Nat.zero_add] at count
  rw [popc64, BitVec.toNat_ofNat]
  exact (congrArg (· % 2 ^ 64) count).trans (Nat.mod_eq_of_lt (few.trans_lt (by decide)))

/-- A logic instruction writes its result, Z and N, and clears C and V. -/
theorem insn_logic {s : State} {c : BitVec 9} (i : Issues s.hw c.toNat) (word : BitVec 32) (rd : BitVec 5)
    (v : Ctx → Word) {r : Word} (hr : v (s.hw.ctx c.toNat) = r) :
    s.insn c word .repeatable (aluAct c.toNat rd v fun x => x.flags.logic (v x)) =
      s.result c rd r { (s.hw.ctx c.toNat).flags with z := decide (r = 0), n := r.msb, c := false, v := false } := by
  subst hr
  exact insn_result i word rd v _

end Sys2Proof.Machine

open Sys2Proof Sys2Proof.Machine

/-- Settles O2: each form is a register result with the logic flags; the counts by the bits they count. -/
theorem logicResults : Obligations.LogicResults := by
  intro s c rd ra rb imm i x a b z logic
  refine ⟨insn_logic i _ rd _ rfl, insn_logic i _ rd _ rfl, insn_logic i _ rd _ rfl, insn_logic i _ rd _ rfl,
    insn_logic i _ rd _ rfl, insn_logic i _ rd _ rfl, insn_logic i _ rd _ rfl,
    ⟨bswap64 a, fun _ => extract_bswap64 a, insn_logic i _ rd (fun x => bswap64 (x.rget ra)) rfl⟩,
    ⟨clz64 a, ?_, fun k below counted => ?_, fun stops => ?_, insn_logic i _ rd (fun x => clz64 (x.rget ra)) rfl⟩,
    ⟨popc64 a, popc64_toNat a, insn_logic i _ rd (fun x => popc64 (x.rget ra)) rfl⟩⟩
  · rw [clz64_toNat]
    exact clzFrom_le a 64
  · rw [clz64_toNat] at counted
    exact getLsbD_of_clzFrom a 64 counted below
  · rw [clz64_toNat] at stops ⊢
    exact getLsbD_clzFrom a 64 stops
end

section
namespace Sys2Proof.Machine

/-! ### Products (R103) -/

/-- The low half of a product, signed or not. -/
theorem mul_eq_ofInt (a b : Word) : a * b = BitVec.ofInt 64 (a.toInt * b.toInt) := by
  rw [BitVec.ofInt_mul, BitVec.ofInt_toInt, BitVec.ofInt_toInt]

theorem highHalf_natCast (n : Nat) : highHalf n = BitVec.ofNat 64 (n / 2 ^ 64) := by
  rw [highHalf, ← BitVec.ofInt_natCast]
  rfl

/-! ### Divisions (R87, R88, R103) -/

theorem divS_zero (a : Word) : divS a 0 = (BitVec.allOnes 64, a) := rfl

theorem divU_zero (a : Word) : divU a 0 = (BitVec.allOnes 64, a) := rfl

theorem divS_nonzero (a : Word) {b : Word} (h : b ≠ 0) :
    divS a b = (BitVec.ofInt 64 (a.toInt.tdiv b.toInt), BitVec.ofInt 64 (a.toInt.tmod b.toInt)) := if_neg h

theorem divU_nonzero (a : Word) {b : Word} (h : b ≠ 0) :
    divU a b = (BitVec.ofNat 64 (a.toNat / b.toNat), BitVec.ofNat 64 (a.toNat % b.toNat)) := if_neg h

/-- By a divisor of magnitude two or more every signed quotient fits. -/
theorem fits64_tdiv_of_two_le (a : Word) {b : Int} (h : 2 ≤ b.natAbs) : fits64 (a.toInt.tdiv b) = true := by
  have low := BitVec.le_toInt a
  have high := BitVec.toInt_lt (x := a)
  have magnitude : (a.toInt.tdiv b).natAbs ≤ a.toInt.natAbs / 2 := by
    rw [Int.natAbs_tdiv]
    exact Nat.div_le_div_left h (by decide)
  rw [fits64_eq]
  exact decide_eq_true (by omega)

/-- The one signed quotient that does not fit is that of the most negative word by -1 (R87). -/
theorem fits64_tdiv (a : Word) {b : Word} (nonzero : b ≠ 0) :
    fits64 (a.toInt.tdiv b.toInt) = !decide (a = BitVec.intMin 64 ∧ b = -1) := by
  have unit : b = -1 ↔ b.toInt = -1 := by rw [← BitVec.toInt_inj]; rfl
  have some_ : b.toInt ≠ 0 := fun e => nonzero (BitVec.toInt_inj.mp e)
  by_cases minus : b.toInt = -1
  · rw [minus, Int.tdiv_neg, Int.tdiv_one, ← Int.zero_sub, fits64_neg]
    simp [unit.mpr minus]
  · have fits : fits64 (a.toInt.tdiv b.toInt) = true := by
      by_cases one : b.toInt = 1
      · have low := BitVec.le_toInt a
        have high := BitVec.toInt_lt (x := a)
        rw [one, Int.tdiv_one, fits64_eq]
        exact decide_eq_true ⟨low, high⟩
      · exact fits64_tdiv_of_two_le a (by omega)
    rw [fits, decide_eq_false fun h => minus (unit.mp h.2), Bool.not_false]

/-- A context with a quotient and a remainder: RC before RD. -/
def Ctx.divided (x : Ctx) (rd rc : BitVec 5) (q r : Word) (zero overflow : Bool) : Ctx :=
  { (x.rset rc r).rset rd q with flags := x.flags.div q zero overflow }

@[simp] theorem Ctx.divided_st (x : Ctx) (rd rc : BitVec 5) (q r : Word) (z v : Bool) :
    (x.divided rd rc q r z v).st = x.st := by simp [Ctx.divided]

@[simp] theorem Ctx.divided_pc (x : Ctx) (rd rc : BitVec 5) (q r : Word) (z v : Bool) :
    (x.divided rd rc q r z v).pc = x.pc := by simp [Ctx.divided]

/-- A trap that follows an instruction's own results: the context is TRAPPED in them, and the queue has a record of it. -/
theorem queueTrap_setCtx (s : Hw) (c : Nat) (y : Ctx) (cls : TrapClass) (word : BitVec 32) :
    (queueTrap (s.setCtx c y) c cls word).ctx c = { y with st := .trapped } ∧
      ∃ r, (queueTrap (s.setCtx c y) c cls word).trapq.queue = s.trapq.queue ++ [r] ∧ r.ctx = c ∧ r.cls = cls ∧
        r.pc = y.pc.setWidth 32 := by
  refine ⟨?_, trapRecord (s.setCtx c y) c cls word, ?_, rfl, rfl, ?_⟩
  · rw [queueTrap_ctx, Hw.setCtx_ctx]
  · rw [queueTrap_trapq, Hw.setCtx_trapq]
  · rw [trapRecord, Hw.setCtx_ctx]

/-- Instruction i is a division of context c with a quotient and a remainder. -/
def Divides (s : State) (c : BitVec 9) (rd rc : BitVec 5) (i : Instr) (q r : Word) (zero overflow : Bool) : Prop :=
  ∃ word act, exec i s = s.insn c word .repeatable act ∧ act s.hw = divAct c.toNat rd rc q r zero overflow s.hw

theorem div_divides (s : State) (c : BitVec 9) (rd rc ra rb : BitVec 5) {a b : Word} (ha : (s.hw.ctx c.toNat).rget ra = a)
    (hb : (s.hw.ctx c.toNat).rget rb = b) : Divides s c rd rc (.div c rd rc ra rb) (divS a b).1 (divS a b).2 (decide (b = 0))
      (b != 0 && !fits64 (a.toInt.tdiv b.toInt)) := by
  subst ha hb
  exact ⟨_, _, rfl, rfl⟩

theorem divu_divides (s : State) (c : BitVec 9) (rd rc ra rb : BitVec 5) {a b : Word} (ha : (s.hw.ctx c.toNat).rget ra = a)
    (hb : (s.hw.ctx c.toNat).rget rb = b) :
    Divides s c rd rc (.divu c rd rc ra rb) (divU a b).1 (divU a b).2 (decide (b = 0)) false := by
  subst ha hb
  exact ⟨_, _, rfl, rfl⟩

section
variable {s : State} {c : BitVec 9} {rd rc : BitVec 5} {i : Instr} {q r : Word} {zero overflow : Bool}

/-- A division that does not trap. -/
theorem Divides.leaves (d : Divides s c rd rc i q r zero overflow) (issues : Issues s.hw c.toNat)
    (goes : (zero && (s.hw.ctx c.toNat).dztrap) = false) :
    exec i s = s.leaves c (((s.hw.ctx c.toNat).divided rd rc q r zero overflow).past false) := by
  obtain ⟨word, act, run, e⟩ := d
  exact run.trans (insn_leaves issues word act (·.divided rd rc q r zero overflow) false (e.trans (if_neg (by simp [goes])))
    (by simpa using issues.notFree))

/-- A division by zero with CFG.DZTRAP set has retired with its results when it traps. -/
theorem Divides.traps (d : Divides s c rd rc i q r zero overflow) (issues : Issues s.hw c.toNat)
    (traps : (zero && (s.hw.ctx c.toNat).dztrap) = true) : Completes i s fun h =>
      h.ctx c.toNat = { retire ((s.hw.ctx c.toNat).divided rd rc q r zero overflow) with st := .trapped } ∧
      ∃ r, h.trapq.queue = s.hw.trapq.queue ++ [r] ∧ r.ctx = c.toNat ∧ r.cls = 3 ∧
        r.pc = (s.hw.ctx c.toNat).pc.setWidth 32 := by
  obtain ⟨word, act, run, e⟩ := d
  have act_eq : act s.hw = .trapAfter (s.hw.modCtx c.toNat (·.divided rd rc q r zero overflow)) 3 := e.trans (if_pos traps)
  have running : ((s.hw.ctx c.toNat).divided rd rc q r zero overflow).st ≠ .free := by simpa using issues.notFree
  have trap : issue s.hw c.toNat word .repeatable act =
      queueTrap (s.hw.setCtx c.toNat (retire ((s.hw.ctx c.toNat).divided rd rc q r zero overflow))) c.toNat 3 word := by
    rw [issue_repeatable issues, act_eq, applyAct, Hw.modCtx_modCtx _ _ _ _ running running]
    rfl
  refine completes_of_to (run.trans (State.live_awake s _ issues.awake)) ?_
  rw [trap, ← Ctx.divided_pc (s.hw.ctx c.toNat) rd rc q r zero overflow]
  exact queueTrap_setCtx ..

end

end Sys2Proof.Machine

open Sys2Proof Sys2Proof.Machine

/-- Settles O4: a product is a register result; a division is `divAct` of its quotient and remainder. -/
theorem productsAndDivisions : Obligations.ProductsAndDivisions := by
  intro s c rd rc ra rb i x a b wraps product divided byZero
  refine ⟨insn_writes i _ rd (mul_eq_ofInt a b) ?_, insn_writes i _ rd (highHalf_natCast (a.toNat * b.toNat)) ?_,
    insn_writes i _ rd rfl rfl, fun nonzero => ?_, fun zero i' form => ?_⟩
  · rw [← mul_eq_ofInt]
    exact Flags.mul_eq ..
  · rw [← highHalf_natCast]
    rfl
  · have overflow : (b != 0 && !fits64 (a.toInt.tdiv b.toInt)) = wraps := by
      rw [fits64_tdiv a nonzero, Bool.not_not, bne_iff_ne.mpr nonzero, Bool.true_and]
    have signed := div_divides s c rd rc ra rb (a := a) (b := b) rfl rfl
    have unsigned := divu_divides s c rd rc ra rb (a := a) (b := b) rfl rfl
    rw [overflow, divS_nonzero a nonzero, decide_eq_false nonzero] at signed
    rw [divU_nonzero a nonzero, decide_eq_false nonzero] at unsigned
    exact ⟨signed.leaves i (Bool.false_and _), unsigned.leaves i (Bool.false_and _)⟩
  · have d : Divides s c rd rc i' (BitVec.allOnes 64) a true false := by
      rcases form with rfl | rfl
      · exact div_divides s c rd rc ra rb (a := a) rfl zero
      · exact divu_divides s c rd rc ra rb (a := a) rfl zero
    exact ⟨d.leaves i, d.traps i⟩
end

section
namespace Sys2Proof.Machine

/-! ### Halfwords of a word (R102) -/

/-- An immediate placed at a halfword. -/
theorem zeroExtend_shiftLeft (imm : BitVec 16) (n : Nat) :
    imm.zeroExtend 64 <<< n = BitVec.ofNat 64 (imm.toNat * 2 ^ n) := by
  apply BitVec.eq_of_toNat_eq
  have small : imm.toNat < 2 ^ 64 := imm.isLt.trans (by decide)
  rw [BitVec.toNat_shiftLeft, BitVec.toNat_setWidth, Nat.mod_eq_of_lt small, Nat.shiftLeft_eq, BitVec.toNat_ofNat]

/-- A halfword placed at h is read back at h, and zero elsewhere. -/
theorem getLsbD_halfword (v : BitVec 16) {h k j : Nat} (hh : h < 4) (hk : k < 4) (hj : j < 16) :
    (v.zeroExtend 64 <<< (16 * h)).getLsbD (16 * k + j) = (decide (k = h) && v.getLsbD j) := by
  rw [BitVec.getLsbD_shiftLeft, BitVec.getLsbD_setWidth]
  obtain below | rfl | above := Nat.lt_trichotomy k h
  · simp [show 16 * k + j < 16 * h by omega, show k ≠ h by omega]
  · simp [show 16 * k + j < 64 by omega, show j < 64 by omega]
  · have high : 16 ≤ 16 * k + j - 16 * h := by omega
    simp [BitVec.getLsbD_of_ge v _ high, show k ≠ h by omega]

/-- Halfword k of a word whose halfword h is replaced. -/
theorem extract_movk (a : Word) (imm : BitVec 16) {h k : Nat} (hh : h < 4) (hk : k < 4) :
    ((a &&& ~~~(0xFFFF#64 <<< (16 * h))) ||| (imm.zeroExtend 64 <<< (16 * h))).extractLsb' (16 * k) 16 =
      if k = h then imm else a.extractLsb' (16 * k) 16 := by
  have ones : (0xFFFF#64) = (BitVec.allOnes 16).zeroExtend 64 := by decide
  apply BitVec.eq_of_getLsbD_eq
  intro j hj
  have inside : 16 * k + j < 64 := by omega
  rw [ones, BitVec.getLsbD_extractLsb', BitVec.getLsbD_or, BitVec.getLsbD_and, BitVec.getLsbD_not,
    getLsbD_halfword _ hh hk hj, getLsbD_halfword _ hh hk hj, BitVec.getLsbD_allOnes]
  by_cases same : k = h
  · simp [same, hj]
  · simp [same, hj, inside]

end Sys2Proof.Machine

open Sys2Proof Sys2Proof.Machine

/-- Settles O5: both are register results, MOVK's by its halfwords. -/
theorem immediateMoves : Obligations.ImmediateMoves := by
  intro s c rd hw imm i
  exact ⟨insn_writes i _ rd (zeroExtend_shiftLeft imm _) rfl, _, fun _ => extract_movk _ imm hw.isLt,
    insn_result i _ rd _ _⟩
end

section
namespace Sys2Proof.Machine

/-! ### How an instruction issues, whatever repeats it (R84, R86, R88) -/

/-- A kind of instruction is carried out in a context: it repeats, or no repeat runs. -/
def RepKind.Goes (k : RepKind) (x : Ctx) : Prop := k = .repeatable ∨ k = .notRepeatable ∧ x.rep = none

theorem issue_goes {h : Hw} {c : Nat} (i : Issues h c) {kind : RepKind} (goes : kind.Goes (h.ctx c)) (word : BitVec 32)
    (act : Hw → Act) : issue h c word kind act = applyAct h c word (act h) := by
  obtain rfl | ⟨rfl, once⟩ := goes
  · exact issue_repeatable i word act
  · exact issue_once i once word act

theorem State.insn_awake {s : State} {c : BitVec 9} (awake : s.hw.inert = false) (word : BitVec 32) (kind : RepKind)
    (act : Hw → Act) : s.insn c word kind act = s.to (issue s.hw c.toNat word kind act) := State.live_awake s _ awake

/-- An instruction that is carried out and changes its context alone. -/
theorem insn_goes {s : State} {c : BitVec 9} (i : Issues s.hw c.toNat) {kind : RepKind}
    (goes : kind.Goes (s.hw.ctx c.toNat)) (word : BitVec 32) {act : Hw → Act} {f : Ctx → Ctx} {lc : Bool}
    (ha : act s.hw = .done (s.hw.modCtx c.toNat f) lc) (hf : (f (s.hw.ctx c.toNat)).st ≠ .free) :
    s.insn c word kind act = s.leaves c ((f (s.hw.ctx c.toNat)).past lc) := by
  rw [State.insn_awake i.awake, issue_goes i goes, ha, applyAct_done _ _ _ hf]
  rfl

/-- An encoding of a reserved kind raises its trap when it is fetched, and the record waits in the queue (R89, R90). -/
theorem completes_reserved {s : State} {c : BitVec 9} {i : Instr} {word : BitVec 32} {kind : RepKind} {act : Hw → Act}
    {cls : TrapClass} (e : exec i s = s.insn c word kind act) (reserved : kind = .reserved cls) (queued : cls.toNat ≤ 3)
    (f : Fetches s.hw c.toNat) : Completes i s fun h =>
      h.ctx c.toNat = { s.hw.ctx c.toNat with st := .trapped } ∧ (∀ n, n ≠ c.toNat → h.ctx n = s.hw.ctx n) ∧
      ∃ r, h.trapq.queue = s.hw.trapq.queue ++ [r] ∧ r.ctx = c.toNat ∧ r.cls = cls ∧
        r.pc = (s.hw.ctx c.toNat).pc.setWidth 32 := by
  refine completes_of_to (e.trans (State.insn_awake f.awake word kind act)) ?_
  rw [reserved, issue_reserved f, takeTrap, if_pos queued]
  exact ⟨queueTrap_ctx .., fun n => queueTrap_ctx_ne s.hw cls word, trapRecord s.hw c.toNat cls word,
    by rw [queueTrap_trapq], rfl, rfl, rfl⟩

theorem Ctx.WithdrawnFrom.flags {x y : Ctx} {st : BitVec 8} (h : y.WithdrawnFrom x st) : y.flags = x.flags :=
  (congrArg Ctx.flags h :)

/-- An instruction that raises a program fault withdraws the request of its context. -/
theorem completes_withdrawn {s : State} {c : BitVec 9} {i : Instr} {word : BitVec 32} {kind : RepKind} {act : Hw → Act}
    (e : exec i s = s.insn c word kind act) (awake : s.hw.inert = false) (runs : (s.hw.ctx c.toNat).Runs)
    (f : IssueFaults s.hw c.toNat word kind act) :
    Completes i s fun h => (h.ctx c.toNat).WithdrawnFrom (s.hw.ctx c.toNat) stIllegalProgram :=
  completes_of_to (e.trans (State.insn_awake awake word kind act)) (f.withdrawn runs)

/-! ### Special registers (R77, R104) -/

/-- A field as wide as its value holds all of it. -/
theorem put_zero {w : Nat} (v : BitVec w) : put 0 w v.toNat = v.zeroExtend 64 := by
  apply BitVec.eq_of_toNat_eq
  rw [put, Nat.shiftLeft_zero, Nat.mod_eq_of_lt v.isLt, BitVec.toNat_ofNat, BitVec.toNat_setWidth]

theorem putb_zero (b : Bool) : putb 0 b = if b then 1 else 0 := by cases b <;> rfl

/-- The bits of FLAGS (R78). -/
theorem getLsbD_flagsWord (f : Flags) {k : Nat} (hk : k < 64) :
    f.word.getLsbD k = [f.z, f.n, f.c, f.v, f.dz, f.t].getD k false := by
  simp only [Flags.word, BitVec.getLsbD_or, getLsbD_putb, hk]
  match k with
  | 0 | 1 | 2 | 3 | 4 | 5 => simp [Nat.testBit_bool_toNat, -Nat.testBit_zero]
  | k + 6 => simp

theorem Ctx.domain_of_req {x : Ctx} {q : Request} (h : x.req = some q) : x.domain = q.domain.toNat := by
  simp [Ctx.domain, h]

theorem Ctx.epoch_of_req {x : Ctx} {q : Request} (h : x.req = some q) : x.epoch = q.epoch := by
  simp [Ctx.epoch, h]

theorem specKind_repeatable {n : Nat} (h : n < 5 ∨ n = 8) : specKind n = .repeatable := by
  rw [specKind, if_neg (by omega), if_neg (by simp; omega)]

theorem specKind_notRepeatable {n : Nat} (low : 5 ≤ n) (high : n ≤ 7) : specKind n = .notRepeatable := by
  rw [specKind, if_neg (by omega), if_pos (by simp [low, high])]

theorem specKind_reserved {n : Nat} (h : 9 ≤ n) : specKind n = .reserved 2 := if_pos h

theorem Ctx.rset_keepsFlags (x : Ctx) (r : BitVec 5) (v : Word) : { x.rset r v with flags := x.flags } = x.rset r v := by
  unfold Ctx.rset
  split <;> rfl

/-- MFS writes what `specRead` gives. -/
theorem exec_mfs {s : State} {c : BitVec 9} (i : Issues s.hw c.toNat) (rd : BitVec 5) {num : BitVec 5} {v : Word}
    (goes : (specKind num.toNat).Goes (s.hw.ctx c.toNat))
    (read : specRead c.toNat (s.hw.ctx c.toNat) num.toNat = some v) :
    exec (.mfs c rd num) s = s.result c rd v (s.hw.ctx c.toNat).flags := by
  refine (insn_goes i goes _ (f := fun x => x.rset rd v) (lc := false) ?_ (by simpa using i.notFree)).trans ?_
  · simp only [read]
  · rw [State.result, Ctx.rset_keepsFlags]

theorem specWrite_st (x : Ctx) (n : Nat) (v : Word) : (specWrite x n v).st = x.st := by
  unfold specWrite
  split <;> rfl

/-- MOVS of a register that it may write writes what `specWrite` says; only LC counts as written for a repeat (R85). -/
theorem exec_movs {s : State} {c : BitVec 9} (i : Issues s.hw c.toNat) (ra : BitVec 5) {num : BitVec 5}
    (writable : num.toNat < 5 ∨ num.toNat = 8) : exec (.movs c num ra) s = s.leaves c
      ((specWrite (s.hw.ctx c.toNat) num.toNat ((s.hw.ctx c.toNat).rget ra)).past (num.toNat = 0)) := by
  refine insn_goes i (.inl (specKind_repeatable writable)) _ (f := fun x => specWrite x num.toNat (x.rget ra)) ?_
    (by simpa [specWrite_st] using i.notFree)
  exact (if_neg (by simp; omega)).trans (if_neg (by omega))

end Sys2Proof.Machine

open Sys2Proof Sys2Proof.Machine

/-- Settles O6: MFS by `specRead`, MOVS by `specWrite`, and the numbers that neither takes by the trap they raise. -/
theorem specialRegisters : Obligations.SpecialRegisters := by
  intro s c rd ra num i x a f reads writes
  have reading : ∀ {n : BitVec 5} {v : Word}, n.toNat < 5 ∨ n.toNat = 8 → specRead c.toNat x n.toNat = some v →
      reads n v := fun readable read => exec_mfs i rd (.inl (specKind_repeatable readable)) read
  have narrow : a.extractLsb' 0 5 = a.setWidth 5 := BitVec.eq_of_toNat_eq rfl
  refine ⟨reading (by decide) rfl, reading (by decide) rfl, reading (by decide) rfl,
    reading (by decide) (congrArg some (put_zero x.brw)),
    ⟨f.word, fun k => getLsbD_flagsWord f, reading (by decide) rfl⟩, fun once => ?_,
    reading (by decide) (congrArg some (putb_zero x.dztrap)), exec_movs i ra (by decide), exec_movs i ra (by decide),
    exec_movs i ra (by decide), ?_, exec_movs i ra (by decide), exec_movs i ra (by decide),
    fun low high uncommitted => ?_, fun high i' form => ?_⟩
  · have own : ∀ {n : BitVec 5} {v : Word}, 5 ≤ n.toNat → n.toNat ≤ 7 → specRead c.toNat x n.toNat = some v →
        reads n v := fun low high read =>
      exec_mfs i rd (.inr ⟨specKind_notRepeatable low high, once⟩) read
    refine ⟨own (by decide) (by decide) (congrArg some (put_zero c)), fun q req =>
      ⟨own (by decide) (by decide) (congrArg some ?_), own (by decide) (by decide) (congrArg some ?_)⟩⟩
    · rw [Ctx.domain_of_req req, put_zero]
    · rw [Ctx.epoch_of_req req, put_zero]
  · show exec _ _ = s.leaves c (Ctx.past { x with brw := a.setWidth 5 } _)
    rw [← narrow]
    exact exec_movs i ra (by decide)
  · refine (completes_withdrawn rfl i.awake (i.runs uncommitted) ?_).mono fun h w =>
      ⟨w.withdrawn, w.quiescing, w.regs, w.flags⟩
    rw [specKind_notRepeatable low high]
    exact issueFaults_once i _ (cls := 5) (by decide) (if_pos (by simp [low, high]))
  · rcases form with rfl | rfl
    · exact completes_reserved rfl (specKind_reserved high) (by decide) i.toFetches
    · exact completes_reserved rfl (specKind_reserved high) (by decide) i.toFetches
end

section
namespace Sys2Proof.Machine

/-! ### Branch conditions and targets (R107, R108) -/

/-- The branch conditions by their codes. -/
def Flags.conditions (f : Flags) : List Prop :=
  [True, f.z = true, f.z = false, f.c = true, f.c = false, f.n = true, f.n = false, f.v = true,
    f.c = false ∧ f.z = false, f.c = true ∨ f.z = true, f.n = f.v, f.n ≠ f.v, f.z = false ∧ f.n = f.v,
    f.z = true ∨ f.n ≠ f.v, f.t = true, f.t = false]

theorem Flags.cond_iff (f : Flags) (k : BitVec 4) : f.cond k = true ↔ f.conditions.getD k.toNat False := by
  have codes : k.toNat < 16 := k.isLt
  unfold Flags.cond Flags.conditions
  generalize k.toNat = n at codes
  interval_cases n <;> simp

/-- A branch target lies a signed number of words from the branch. -/
theorem branchTarget_eq {w : Nat} (pc : Word) (off : BitVec w) :
    pc + 4 * off.signExtend 64 = BitVec.ofInt 64 (pc.toInt + 4 * off.toInt) := by
  rw [BitVec.ofInt_add, BitVec.ofInt_mul, BitVec.ofInt_toInt]
  rfl

/-- An instruction that does no more than to jump. -/
theorem insn_jumpOnly {s : State} {c : BitVec 9} (i : Issues s.hw c.toNat) (once : (s.hw.ctx c.toNat).rep = none)
    (word : BitVec 32) {act : Hw → Act} {pc : Word} (ha : act s.hw = .jump s.hw pc) : s.insn c word .notRepeatable act =
      s.leaves c { s.hw.ctx c.toNat with pc := pc, retired := (s.hw.ctx c.toNat).retired + 1 } := by
  rw [State.insn_awake i.awake, issue_once i once, ha]
  rfl

/-- Outside a repeat an instruction moves on to the next word. -/
theorem Ctx.past_once {x : Ctx} (once : x.rep = none) (lc : Bool) :
    x.past lc = { x with pc := x.pc + 4, retired := x.retired + 1 } := by
  unfold Ctx.past
  split
  · rfl
  · next r rep => rw [rep] at once; cases once

/-- An instruction that does no more than to move on. -/
theorem insn_passOnly {s : State} {c : BitVec 9} (i : Issues s.hw c.toNat) (once : (s.hw.ctx c.toNat).rep = none)
    (word : BitVec 32) {act : Hw → Act} (ha : act s.hw = .done s.hw false) :
    s.insn c word .notRepeatable act = s.leaves c ((s.hw.ctx c.toNat).past false) := by
  rw [State.insn_awake i.awake, issue_once i once, ha, applyAct, Hw.modCtx, retire_stepPast]
  rfl

/-- A fetch outside the program faults whatever the instruction (R96). -/
theorem issueFaults_outside {h : Hw} {c : Nat} (may : mayIssue h c = true) (steps : (h.ctx c).retired < stepLimit h c)
    (outside : codeBytes h c ≤ (h.ctx c).pc.toNat) (word : BitVec 32) (kind : RepKind) (act : Hw → Act) :
    IssueFaults h c word kind act := by
  refine ⟨5, by decide, ?_⟩
  unfold issue
  rw [if_neg (by simp [may]), if_neg (Nat.not_le.mpr steps), if_pos outside]

end Sys2Proof.Machine

open Sys2Proof Sys2Proof.Machine

/-- Settles O11: each form is a jump of a context, and the fetch fault is that of any instruction. -/
theorem branchesAndJumps : Obligations.BranchesAndJumps := by
  refine ⟨fun s c rd ra cond off off21 i once => ?_, fun s c rd ra rb cond off off21 i => ?_⟩
  · intro x f goes holds
    have cond_iff : f.cond cond = true ↔ holds := f.cond_iff cond
    have running : ∀ v, (x.rset rd v).st ≠ .free := fun v => by simpa using i.notFree
    refine ⟨fun taken => ?_, fun stays => ?_, ?_, ?_⟩
    · show exec _ _ = _
      rw [← branchTarget_eq]
      exact insn_jumpOnly i once _ (if_pos (cond_iff.mpr taken))
    · have passes : exec (.bcc c cond off) s = s.leaves c (x.past false) :=
        insn_passOnly i once _ (if_neg fun h => stays (cond_iff.mp h))
      rwa [Ctx.past_once once] at passes
    · have jump : exec (.jal c rd off21) s = s.leaves c _ :=
        insn_jump i once _ _ (fun x => x.rset rd (x.pc + 4)) _ rfl (running _)
      rwa [Ctx.rset_retired, branchTarget_eq] at jump
    · have jump : exec (.jr c rd ra) s = s.leaves c _ :=
        insn_jump i once _ _ (fun x => x.rset rd (x.pc + 4)) _ rfl (running _)
      rwa [Ctx.rset_retired] at jump
  · intro x awake ready request unposted wanted recorded uncommitted steps outside form
    have may : mayIssue s.hw c.toNat = true := by simp [mayIssue, x, ready, request, unposted, wanted, recorded]
    have insn : ∃ word kind act, exec i s = s.insn c word kind act := by
      obtain rfl | rfl | rfl | rfl := form <;> exact ⟨_, _, _, rfl⟩
    obtain ⟨word, kind, act, e⟩ := insn
    exact (completes_withdrawn e awake ⟨request, uncommitted, wanted, recorded⟩
      (issueFaults_outside may steps outside word kind act)).mono fun h w =>
        ⟨w.withdrawn, w.quiescing, w.regs, w.flags, w.pc⟩
end

section
namespace Sys2Proof.Machine

/-! ### REP and the instruction behind it (R84, R109) -/

/-- The count of a REP: from its immediate, a register or LC. -/
def repCount (x : Ctx) (src : BitVec 2) (ra : BitVec 5) (imm : BitVec 16) : BitVec 32 :=
  match src.toNat with
  | 0 => imm.zeroExtend 32
  | 1 => (x.rget ra).setWidth 32
  | _ => x.lc.setWidth 32

/-- A REP whose fields are as R109 has them copies its count. -/
theorem exec_rep {s : State} {c : BitVec 9} (i : Issues s.hw c.toNat) (once : (s.hw.ctx c.toNat).rep = none)
    {src : BitVec 2} {ra : BitVec 5} {imm : BitVec 16} (good : repReserved src ra imm = false) {n : BitVec 32}
    (count : repCount (s.hw.ctx c.toNat) src ra imm = n) :
    exec (.rep c src ra imm) s = s.leaves c { s.hw.ctx c.toNat with
      rep := some { remain := n }, pc := (s.hw.ctx c.toNat).pc + 4, retired := (s.hw.ctx c.toNat).retired + 1 } := by
  subst count
  show s.insn c _ (if repReserved src ra imm then .reserved 1 else .notRepeatable) _ = _
  rw [if_neg (by simp [good])]
  exact insn_jump i once _ _ (fun x => { x with rep := some { remain := repCount x src ra imm } }) _ rfl i.notFree

theorem repReserved_iff (src : BitVec 2) (ra : BitVec 5) (imm : BitVec 16) :
    repReserved src ra imm = true ↔ src = 3 ∨ src ≠ 1 ∧ ra ≠ 0 ∨ src ≠ 0 ∧ imm ≠ 0 := by
  simp [repReserved, or_assoc]

/-- Under a repeat with no iterations left a repeatable instruction is skipped. -/
theorem issue_skipped {h : Hw} {c : Nat} (i : Fetches h c) {r : Repeat} (rep : (h.ctx c).rep = some r)
    (none_left : r.remain = 0) (word : BitVec 32) (act : Hw → Act) :
    issue h c word .repeatable act = h.modCtx c fun x => { x with rep := none, pc := x.pc + 4 } := by
  unfold issue
  rw [if_neg (by simp [i.mayIssue]), if_neg (Nat.not_le.mpr i.steps), if_neg (Nat.not_le.mpr i.code),
    if_neg (by rw [i.word]; exact Bool.false_ne_true)]
  simp only [rep, none_left, if_true]

end Sys2Proof.Machine

open Sys2Proof Sys2Proof.Machine

/-- Settles O12: REP by its three sources and its reserved fields, the skip by what issues when no iteration is left. -/
theorem repeatPrefix : Obligations.RepeatPrefix := by
  intro s c src ra rd rb imm x repeats
  refine ⟨fun i once => ⟨exec_rep i once ?_ ?_, exec_rep i once ?_ ?_, exec_rep i once rfl ?_⟩, fun i fields => ?_,
    fun r f rep none_left => ?_⟩
  · simp [repReserved]
  · exact (BitVec.ofNat_toNat ..).symm
  · simp [repReserved]
  · exact (BitVec.ofNat_toNat ..).symm
  · exact (BitVec.ofNat_toNat ..).symm
  · exact (completes_reserved rfl (if_pos ((repReserved_iff ..).mpr fields)) (by decide) i.toFetches).mono
      fun h ⟨ctx, _, record⟩ => ⟨ctx, record⟩
  · have run : exec (.add c rd ra rb) s = s.to _ := State.insn_awake f.awake _ .repeatable _
    rwa [issue_skipped f rep none_left] at run
end

section
namespace Sys2Proof.Machine

/-! ### Reads that meet no error (R286) -/

theorem rgLen_rgSub (r : Word) (i : Nat) {n : Nat} (h : n < 2 ^ 32) : rgLen (rgSub r i n) = n := by
  apply Nat.eq_of_testBit_eq
  intro k
  by_cases hk : k < 32
  · have h1 : ¬32 + k - 26 < 1 := by omega
    have h2 : ¬32 + k - 22 < 4 := by omega
    have h3 : ¬32 + k < 22 := by omega
    have h4 : 32 + k < 64 := by omega
    simp [rgLen, rgSub, testBit_fld, getLsbD_put, getLsbD_putb, -BitVec.getLsbD_eq_getElem, hk, h1, h2, h3, h4]
  · have : n.testBit k = false := Nat.testBit_lt_two_pow (h.trans_le (Nat.pow_le_pow_right (by omega) (by omega)))
    rw [this]
    simp [rgLen, testBit_fld, hk]

theorem rgWords_nil (x : Ctx) (r : Word) : rgWords x r [] = [] := by
  unfold rgWords
  split <;> rfl

theorem flatMap_rgWords_nil (x : Ctx) (l : List Word) : (l.flatMap fun r => rgWords x r []) = [] :=
  List.flatMap_eq_nil_iff.mpr fun r _ => rgWords_nil x r

theorem rgPoisoned_clean {s : Hw} (clean : s.cs.poisoned = []) (c : Nat) (r : Word) : rgPoisoned s c r = false := by
  simp [rgPoisoned, clean]

theorem hndRead_congr {s m : Hw} (h : s.cs.bytes = m.cs.bytes) (v : Handle) (o n : Nat) :
    hndRead s v o n = hndRead m v o n := by
  induction n generalizing o with
  | zero => rfl
  | succ n ih => rw [hndRead, hndRead, h, ih]

/-- A range reads the same in two blocks with the same contexts and the same bytes in the central store. -/
theorem rgRead_congr {s m : Hw} (ctxs : s.ctxs = m.ctxs) (bytes : s.cs.bytes = m.cs.bytes) (c : Nat) (r : Word) :
    rgRead s c r = rgRead m c r := by
  unfold rgRead
  rw [Hw.ctx_congr ctxs, hndRead_congr bytes]

/-! ### One unit of service of a digest engine (R170, R171) -/

theorem Hw.modDig_dig (s : Hw) (e : Nat) (f : DigestUnit → DigestUnit) : (s.modDig e f).dig e = f (s.dig e) :=
  tget_tmod _ _ e f

@[simp] theorem Ctx.setDs_ds (x : Ctx) (n : Nat) (v : DigestStream) : (x.setDs n v).ds n = v := tget_tset _ _ n v

theorem dgstItems_one {s : Hw} {key e : Nat} {j : Job} {b : Block} (jobs : s.jobs = [(key, j)]) (op : j.op = .dgst b)
    (running : j.phase = .running) (engine : nextEngine (dsOf s key j) = e)
    (free : rgHeld (s.ctx (key / 16)) (pbSrc b) = false) : dgstItems s e = [⟨key, j, b⟩] := by
  simp [dgstItems, jobs, op, running, engine, free]

/-- The only job of an engine that serves is given its unit of service. -/
theorem digestAbsorb_one {s : Hw} {e : Nat} {i : DgstItem} (serves : s.out (digUnit e) = false) (items : dgstItems s e = [i])
    (clean : s.cs.poisoned = []) (fits : absorbLen ((s.ctx (i.key / 16)).ds i.job.stream) i.job i.block < 2 ^ 32) :
    ∃ arb, digestAbsorb e [] s = absorbTake (s.modDig e fun v => { v with arb := arb }) e i
      (absorbLen ((s.ctx (i.key / 16)).ds i.job.stream) i.job i.block) := by
  obtain ⟨arb, pick⟩ := arbPick_one (domWeight s.active) (s.ctx (i.key / 16)).domain 1 (s.dig e).arb (one_le_domWeight ..)
  refine ⟨arb, ?_⟩
  have unpoisoned := rgPoisoned_clean (s := s.modDig e fun v => { v with arb := arb }) clean (i.key / 16)
  unfold digestAbsorb
  simp only [serves, items, List.map_cons, List.map_nil, risingNats, List.foldr_cons, List.foldr_nil, insertNat, pick,
    List.filter_cons, List.filter_nil, decide_true, if_true, leastBy, Bool.false_eq_true, if_false]
  have ctx : ∀ a, (s.modDig e fun v => { v with arb := arb }).ctx a = s.ctx a := fun _ => rfl
  simp only [ctx, flatMap_rgWords_nil, unpoisoned, Bool.false_eq_true, if_false, rgLen_rgSub _ _ fits]
  rfl

/-- A context of which a digest stream has taken further input. -/
def Ctx.fed (x : Ctx) (n : Nat) (data : Bytes) : Ctx := x.setDs n { x.ds n with msg := (x.ds n).msg ++ data }

/-- The block once an engine has taken n bytes of a job's input, its arbiter moved on, and the job goes on. -/
def Hw.absorbed (s : Hw) (e c key n : Nat) (arb : Arb) (j : Job) (b : Block) : Hw :=
  (((s.modDig e fun v => { v with arb := arb }).modDig e fun v => { v with bytes := satInc v.bytes n }).setJob key
    { j with pos := j.pos + n }).modCtx c (·.fed j.stream (rgRead s c (rgSub (pbSrc b) j.pos n)))

theorem absorbTake_more {s : Hw} {e n c : Nat} {arb : Arb} {i : DgstItem} (div : i.key / 16 = c)
    (more : i.job.pos + n < rgLen (pbSrc i.block)) :
    absorbTake (s.modDig e fun v => { v with arb := arb }) e i n = s.absorbed e c i.key n arb i.job i.block := by
  subst div
  unfold absorbTake
  dsimp only
  rw [if_pos more, rgRead_congr (s := s.modDig e fun v => { v with arb := arb }) (m := s) rfl rfl]
  rfl

theorem absorbed_dig (s : Hw) (e c key n : Nat) (arb : Arb) (j : Job) (b : Block) :
    (s.absorbed e c key n arb j b).dig e = { s.dig e with arb := arb, bytes := satInc (s.dig e).bytes n } := by
  have counted := (s.modDig e fun v => { v with arb := arb }).modDig_dig e fun v => { v with bytes := satInc v.bytes n }
  exact counted.trans (by rw [Hw.modDig_dig])

theorem absorbed_ctx (s : Hw) (e c key n : Nat) (arb : Arb) (j : Job) (b : Block) :
    (s.absorbed e c key n arb j b).ctx c = (s.ctx c).fed j.stream (rgRead s c (rgSub (pbSrc b) j.pos n)) := by
  rw [Hw.absorbed, Hw.modCtx_ctx]
  rfl

theorem absorbed_job (s : Hw) (e c key n : Nat) (arb : Arb) (j : Job) (b : Block) :
    (s.absorbed e c key n arb j b).job key = some { j with pos := j.pos + n } :=
  Hw.setJob_job _ key { j with pos := j.pos + n }

theorem absorbed_keeps (s : Hw) (e c key n : Nat) (arb : Arb) (j : Job) (b : Block) :
    (s.absorbed e c key n arb j b).cs = s.cs ∧ (s.absorbed e c key n arb j b).pairs = s.pairs ∧
      (s.absorbed e c key n arb j b).board = s.board := by simp [Hw.absorbed]

theorem absorbed_settled {s : Hw} {c t : Nat} {j : Job} (works : Works s c t j) (e key n : Nat) (arb : Arb) (b : Block) :
    (s.absorbed e c key n arb j b).Settled :=
  (works.settled.setCtx c (y := (s.ctx c).fed j.stream (rgRead s c (rgSub (pbSrc b) j.pos n))) works.unposted
    works.wanted).congr rfl rfl

/-- An engine takes the next 1 KiB of the one job it has. -/
theorem digestAbsorb_absorbed {s : Hw} {c t e : Nat} {j : Job} {b : Block} (works : Works s c t j)
    (jobs : s.jobs = [(jobKey c t, j)]) (op : j.op = .dgst b) (running : j.phase = .running)
    (whole : ((s.ctx c).ds j.stream).claimed = []) (engine : ((s.ctx c).ds j.stream).engine = e)
    (more : j.pos + 1024 < rgLen (pbSrc b)) (free : rgHeld (s.ctx c) (pbSrc b) = false) (clean : s.cs.poisoned = [])
    (serves : s.out (digUnit e) = false) :
    ∃ arb, digestAbsorb e [] s = s.absorbed e c (jobKey c t) 1024 arb j b := by
  have div := jobKey_div c works.ticket
  have unit : absorbLen ((s.ctx c).ds j.stream) j b = 1024 := by
    simp only [absorbLen, whole, List.isEmpty_nil, if_true]
    omega
  have items : dgstItems s e = [⟨jobKey c t, j, b⟩] :=
    dgstItems_one jobs op running (by simp [nextEngine, dsOf, div, whole, engine]) (by rw [div, free])
  obtain ⟨arb, run⟩ := digestAbsorb_one serves items clean (by rw [div, unit]; decide)
  refine ⟨arb, ?_⟩
  rw [div, unit] at run
  exact run.trans (absorbTake_more div more)

end Sys2Proof.Machine
end

section
namespace Sys2Proof.Machine

/-! ### The result of a LAST digest job (R173, R182) -/

/-- A job that closes, all of its input absorbed, produces its result. -/
theorem digestClose_result {s : Hw} {c t : Nat} {j : Job} {b : Block} (job : s.job (jobKey c t) = some j)
    (op : j.op = .dgst b) (closing : j.phase = .closing) (last : pbLast b = true) (clean : s.cs.poisoned = []) :
    digestClose c t [] s = digestResult s (jobKey c t) j b := by
  unfold digestClose
  simp only [job, op, last, closing, flatMap_rgWords_nil, rgPoisoned_clean clean, decide_true, Bool.and_true, Bool.and_false,
    if_true, Bool.false_eq_true, if_false]
  rfl

/-- The block once a digest job has ended with a status, its stream closed. -/
def Hw.digested (m : Hw) (c key : Nat) (j : Job) (b : Block) (st : BitVec 8) : Hw := closeDs (dgstDone m key b st) c j.stream

/-- A job that writes its result. -/
theorem digestResult_written {s : Hw} {c t : Nat} {j : Job} {b : Block} (ht : t < 16) (boardless : dbBoard b = false)
    (writes : dbCheck b = false) : digestResult s (jobKey c t) j b =
      (rgWrite s c (dbOut b) (digResult ((s.ctx c).ds j.stream) (digOutLen b))).digested c (jobKey c t) j b 0x0 := by
  unfold digestResult
  simp only [jobKey_div c ht, boardless, writes, Bool.not_false, Bool.true_or, Bool.false_and, if_true, Bool.false_eq_true,
    if_false]
  rfl

/-- A job that compares its result. -/
theorem digestResult_compared {s : Hw} {c t : Nat} {j : Job} {b : Block} (ht : t < 16) (boardless : dbBoard b = false)
    (compares : dbCheck b = true) {ok : Bool}
    (verdict : decide (rgRead s c (dbExpect b) = digResult ((s.ctx c).ds j.stream) (digOutLen b)) = ok) :
    digestResult s (jobKey c t) j b =
      (countCompare s ((s.ctx c).ds j.stream).engine ok).digested c (jobKey c t) j b (if ok then 0x0 else 0x1) := by
  unfold digestResult
  simp only [jobKey_div c ht, boardless, compares, verdict, Bool.not_false, Bool.not_true, Bool.false_or, Bool.false_and,
    if_true, Bool.false_eq_true, if_false]
  rfl

section
variable {s m : Hw} {c t : Nat} {j : Job} {b : Block} {st : BitVec 8}

theorem digested_ctx : (m.digested c (jobKey c t) j b st).ctx c = ((dgstDone m (jobKey c t) b st).ctx c).setDs j.stream {} :=
  Hw.modCtx_ctx ..

/-- The ticket of a digest job that has ended is DONE, its result the bytes consumed; its stream is closed. -/
theorem digested_done (ht : t < 16) : (m.digested c (jobKey c t) j b st).Done c t st ∧
    (((m.digested c (jobKey c t) j b st).ctx c).tk t).result = BitVec.ofNat 64 (rgLen (pbSrc b)) ∧
    ((m.digested c (jobKey c t) j b st).ctx c).ds j.stream = {} := by
  obtain ⟨done, result⟩ := finish_done m c ht st (BitVec.ofNat 64 (rgLen (pbSrc b)))
  rw [Hw.Done, digested_ctx, Ctx.setDs_ds]
  exact ⟨done, result, rfl⟩

theorem digested_scratch : ((m.digested c (jobKey c t) j b st).ctx c).scratch = (m.ctx c).scratch := by
  rw [digested_ctx]
  exact (congrArg Ctx.scratch (finish_sansTickets m (jobKey c t) c st _) :)

theorem digested_bytes : (m.digested c (jobKey c t) j b st).cs.bytes = m.cs.bytes :=
  finish_cs_bytes m (jobKey c t) st (BitVec.ofNat 64 (rgLen (pbSrc b)))

theorem digested_dig (e : Nat) : (m.digested c (jobKey c t) j b st).dig e = m.dig e :=
  (congrArg (fun h : Hw => h.dig e) (finish_sansJobs m (jobKey c t) st _) :)

theorem digested_settled (settled : m.Settled) (ht : t < 16) (unposted : (m.ctx c).posted = none)
    (wanted : (m.ctx c).withdrawn = none) : (m.digested c (jobKey c t) j b st).Settled := by
  have keeps := finish_sansTickets m (jobKey c t) c st (BitVec.ofNat 64 (rgLen (pbSrc b)))
  exact (finish_settled settled ht unposted wanted st _).setCtx c
    (y := ((dgstDone m (jobKey c t) b st).ctx c).setDs j.stream {}) ((congrArg Ctx.posted keeps :).trans unposted) ((congrArg Ctx.withdrawn keeps :).trans wanted)

end

/-- A write to a range of a running request's context makes no record ready. -/
theorem Works.rgWrite_settled {s : Hw} {c t : Nat} {j : Job} (works : Works s c t j) (r : Word) (data : Bytes) :
    (rgWrite s c r data).Settled ∧ ((rgWrite s c r data).ctx c).posted = none ∧
      ((rgWrite s c r data).ctx c).withdrawn = none := by
  have keeps := rgWrite_sansWork s c c r data
  have posted : ((rgWrite s c r data).ctx c).posted = none := (congrArg Ctx.posted keeps :).trans works.unposted
  have withdrawn : ((rgWrite s c r data).ctx c).withdrawn = none := (congrArg Ctx.withdrawn keeps :).trans works.wanted
  have rm : (rgWrite s c r data).rm = s.rm := (congrArg Hw.rm (rgWrite_sansJobs s c r data) :)
  refine ⟨works.settled.of_ctx c (fun ready => ?_) (fun a ne => rgWrite_ctx_ne s r data ne) (fun q mem => by rwa [rm]),
    posted, withdrawn⟩
  rw [recordReady_running posted withdrawn] at ready
  cases ready

/-- What a comparison changes: the count of its engine, and the log. -/
theorem countCompare_keeps (s : Hw) (e : Nat) (ok : Bool) : (countCompare s e ok).ctxs = s.ctxs ∧
    (countCompare s e ok).rm = s.rm ∧ (countCompare s e ok).cs = s.cs := by
  cases ok <;> simp [countCompare, Hw.modDig]

theorem countCompare_pass (s : Hw) (e : Nat) : ((countCompare s e true).dig e).pass = satInc (s.dig e).pass := by
  rw [countCompare, if_pos rfl, Hw.modDig_dig]

theorem countCompare_fail (s : Hw) (e : Nat) : ((countCompare s e false).dig e).fail = satInc (s.dig e).fail := by
  rw [countCompare, if_neg Bool.false_ne_true, Hw.dig, note_digs]
  exact congrArg DigestUnit.fail (Hw.modDig_dig ..)

end Sys2Proof.Machine
end

section
namespace Sys2Proof.Machine

/-! ### Clears of the public digest board (R186) -/

/-- An entry as a clear leaves it. -/
def BoardEntry.cleared (v : BoardEntry) : BoardEntry := { seq := v.seq + 2, own := v.own }

/-- With tracing off a clear changes its entry and counts a post. -/
theorem boardClear_untraced {s : Hw} (off : bit s.board.ctl 0 = false) (n : Nat) : boardClear s n = { s with board :=
    { s.board with entries := tmod {} s.board.entries n BoardEntry.cleared, posts := s.board.posts + 1 } } := by
  unfold boardClear boardStep
  simp only [Hw.modEntry, off, Bool.false_eq_true, if_false]
  rfl

theorem boardClear_ctl {s : Hw} (off : bit s.board.ctl 0 = false) (n : Nat) : (boardClear s n).board.ctl = s.board.ctl := by
  rw [boardClear_untraced off]

theorem boardClear_posts {s : Hw} (off : bit s.board.ctl 0 = false) (n : Nat) :
    (boardClear s n).board.posts = s.board.posts + 1 := by rw [boardClear_untraced off]

theorem boardClear_trace {s : Hw} (off : bit s.board.ctl 0 = false) (n : Nat) :
    (boardClear s n).board.trace = s.board.trace := by rw [boardClear_untraced off]

theorem boardClear_entry {s : Hw} (off : bit s.board.ctl 0 = false) (n : Nat) :
    (boardClear s n).boardEntry n = (s.boardEntry n).cleared := by
  rw [boardClear_untraced off]
  exact tget_tmod ..

theorem boardClear_entry_ne {s : Hw} (off : bit s.board.ctl 0 = false) {n k : Nat} (ne : k ≠ n) :
    (boardClear s n).boardEntry k = s.boardEntry k := by
  rw [boardClear_untraced off]
  exact tget_tmod_ne _ ne ..

/-- Clears of the first n entries. -/
theorem boardClear_range {s : Hw} (off : bit s.board.ctl 0 = false) (n : Nat) :
    ((List.range n).foldl boardClear s).board.ctl = s.board.ctl ∧
    ((List.range n).foldl boardClear s).board.posts = s.board.posts + BitVec.ofNat 32 n ∧
    ∀ k, ((List.range n).foldl boardClear s).boardEntry k = if k < n then (s.boardEntry k).cleared else s.boardEntry k := by
  induction n with
  | zero => simp
  | succ n ih =>
    obtain ⟨ctl, posts, entry⟩ := ih
    rw [List.range_succ, List.foldl_append, List.foldl_cons, List.foldl_nil]
    generalize (List.range n).foldl boardClear s = m at ctl posts entry ⊢
    have off' : bit m.board.ctl 0 = false := by rw [ctl, off]
    refine ⟨(boardClear_ctl off' n).trans ctl, ?_, fun k => ?_⟩
    · rw [boardClear_posts off', posts, BitVec.add_assoc]
      exact congrArg (s.board.posts + ·) (BitVec.ofNat_add n 1).symm
    · by_cases same : k = n
      · subst same
        rw [boardClear_entry off', entry, if_neg (Nat.lt_irrefl k), if_pos (Nat.lt_succ_self k)]
      · rw [boardClear_entry_ne off' same, entry]
        simp only [show k < n + 1 ↔ k < n by omega]

/-- A control port's write that needs the cinch, by its holder, completes with its effect settled. -/
theorem completes_cinched {i : Instr} {s : State} {p : CtlPort} {f : Hw → Hw} {P : Hw → Prop}
    (e : exec i s = s.cinched p f) (m : Masters s.hw p) (h : P (settleAll (f (wake s.hw)))) : Completes i s P :=
  completes_of_to (e.trans (State.cinched_masters f m)) h

end Sys2Proof.Machine

open Sys2Proof Sys2Proof.Machine

/-- Settles O22: a unit of service is `absorbed`, a LAST job's end is `digested`, and a clear is `boardClear` entry by entry. -/
theorem digestsAndBoard : Obligations.DigestsAndBoard := by
  refine ⟨fun s c t j b e => ?_, fun s c t j b => ?_, fun s p k r q => ?_⟩
  · intro key x v n works jobs op running whole engine more free clean serves
    obtain ⟨arb, run⟩ := digestAbsorb_absorbed works jobs op running whole engine more free clean serves
    refine completes_work (f := digestAbsorb n []) rfl works.awake ?_ ?_
    · rw [run]
      exact absorbed_settled works n key 1024 arb b
    · rw [run]
      refine ⟨absorbed_job s.hw n c.toNat key 1024 arb j b, ?_, ?_, absorbed_keeps s.hw n c.toNat key 1024 arb j b⟩
      · rw [absorbed_dig]
      · rw [absorbed_ctx, Ctx.fed, Ctx.setDs_ds]
  · intro x v result works op closing last boardless clean
    have close := digestClose_result works.job op closing last clean
    refine ⟨fun writes => ?_, fun compares => ?_⟩
    · obtain ⟨settled, unposted, wanted⟩ := works.rgWrite_settled (dbOut b) result
      rw [digestResult_written works.ticket boardless writes] at close
      obtain ⟨done, counted, closed⟩ := digested_done (m := rgWrite s.hw c.toNat (dbOut b) result) (c := c.toNat)
        (j := j) (b := b) (st := 0x0) works.ticket
      refine completes_work (f := digestClose c.toNat t.toNat []) rfl works.awake ?_ ?_
      · rw [close]
        exact digested_settled settled works.ticket unposted wanted
      · rw [close]
        have scratch : rgScr (dbOut b) = true → ((rgWrite s.hw c.toNat (dbOut b) result).ctx c.toNat).scratch =
            mwrite x.scratch (rgOff (dbOut b)) result := fun scr => by rw [rgWrite, if_pos scr, Hw.modCtx_ctx]
        refine ⟨done, counted, closed, fun m scr outside => ?_, fun scr => ?_, fun scr => ?_⟩
        · rw [digested_scratch, scratch scr]
          exact mget_mwrite_outside _ _ _ _ outside
        · rw [digested_scratch, scratch scr]
          exact mread_mwrite ..
        · rw [digested_bytes, rgWrite, if_pos scr]
          rfl
    · intro ok
      rw [digestResult_compared works.ticket boardless compares rfl] at close
      obtain ⟨ctxs, rm, cs⟩ := countCompare_keeps s.hw v.engine (decide ok)
      have ctx := Hw.ctx_congr ctxs c.toNat
      refine completes_work (f := digestClose c.toNat t.toNat []) rfl works.awake ?_ ?_
      · rw [close]
        exact digested_settled (works.settled.congr ctxs (congrArg _ rm)) works.ticket (by rw [ctx]; exact works.unposted)
          (by rw [ctx]; exact works.wanted)
      · rw [close]
        refine ⟨?_, ?_, ?_, fun good => ?_, fun bad => ?_⟩
        · simpa using (digested_done works.ticket).1
        · rw [digested_scratch, ctx]
        · rw [digested_bytes, cs]
        · rw [digested_dig, decide_eq_true good]
          exact countCompare_pass ..
        · rw [digested_dig, decide_eq_false bad]
          exact countCompare_fail ..
  · intro entry cleared
    refine ⟨fun m off => ⟨?_, ?_⟩, fun awake trace => ?_⟩
    · refine completes_cinched (f := fun h => boardClear h k.toNat) rfl m ⟨?_, fun n ne => ?_, ?_, ?_⟩
      · show (settleAll _).boardEntry k.toNat = (s.hw.boardEntry k.toNat).cleared
        rw [settleAll_boardEntry, boardClear_entry (by rwa [wake_board]), wake_boardEntry]
      · show (settleAll _).boardEntry n = s.hw.boardEntry n
        rw [settleAll_boardEntry, boardClear_entry_ne (by rwa [wake_board]) ne, wake_boardEntry]
      · rw [settleAll_board, boardClear_posts (by rwa [wake_board]), wake_board]
      · rw [settleAll_board, boardClear_trace (by rwa [wake_board]), wake_board]
    · obtain ⟨-, posts, entries⟩ := boardClear_range (s := wake s.hw) (by rwa [wake_board]) 256
      refine completes_cinched (f := fun h => (List.range 256).foldl boardClear h) rfl m ⟨fun n listed => ?_, ?_⟩
      · show (settleAll _).boardEntry n = (s.hw.boardEntry n).cleared
        rw [settleAll_boardEntry, entries, if_pos listed, wake_boardEntry]
      · rw [settleAll_board, posts, wake_board]
        rfl
    · refine completes_settleAll (f := traceSent) rfl awake ⟨?_, settleAll_flt _⟩
      rw [settleAll_board, traceSent, trace]
      rfl
end

section
namespace Sys2Proof.Machine

open Sys2Proof.Tests

/-- A format that has issued two zero writes, both outstanding under tag 0. -/
def sharedTag : Hw := { raw true with kp := { (raw true).kp with
  unit := 2, out := [0, 64].map fun a => { tag := 0, cls := 3, addr := a, data := zeros 64, why := .zero, issuedAt := 0 } } }

/-- With the first zero write goes the second, and the anchor is issued under their tag (`kpIssue`); the acknowledgement of the
second then drops the anchor too (`kpDurable`), and none is left to make the keeper formatted. -/
theorem sharedTag_unformatted : after .formatComplete (st sharedTag) (fun h => !h.kp.formatted) = true := by
  decide +kernel

end Sys2Proof.Machine

open Sys2Proof Sys2Proof.Machine Sys2Proof.Tests

/-- Refutes O42: FORMAT_COMPLETE is to leave the keeper formatted, but an acknowledgement drops every outstanding write of its
tag, and a state may list two zero writes under one tag (none of a run from reset does, as `kpFreeTag` gives a tag that no
outstanding write holds). The anchor is lost with the second of them. -/
theorem not_theKeeperAnswers : ¬Obligations.TheKeeperAnswers := by
  intro all
  obtain ⟨-, -, -, -, -, -, format, -⟩ := all (st sharedTag) 0 (kwrite 0 .zero) 0 .ctla false 0
  have live : sharedTag.inert = false ∧ sharedTag.fenced 0x82 = false ∧ sharedTag.kp.inReset = false := by decide +kernel
  have zeroing : ∀ o ∈ sharedTag.kp.out, o.why = .zero := by decide +kernel
  refine not_completes_of_after sharedTag_unformatted (fun h unformatted => ?_)
    (format live rfl (by decide +kernel) rfl (by decide +kernel) rfl zeroing)
  rintro ⟨formatted, -⟩
  simp [formatted] at unformatted
end

section
namespace Sys2Proof.Machine

open Sys2Proof.Tests

/-- A block whose identity is still to be computed, in which the record of a posted request is ready with plaintext held, and a
store of that plaintext waits. -/
def undecidedStore : Hw := { nameless with
  ctxs := [(1, { ctx0 with posted := some 0, cstreams := [(0, { undecided := true, held := [put 32 32 1] })] })]
  jobs := [(jobKey 1 0, { op := .xstore 0 (put 32 32 1) })] }

/-- The record joins the ready list behind PK_JOB_TAKE, and the store ends with the plaintext that it held (R162). -/
theorem undecidedStore_ended : after (.pkJobTake 0) (st undecidedStore) (fun h => h.jobs = []) = true := by
  decide +kernel

end Sys2Proof.Machine

open Sys2Proof Sys2Proof.Machine Sys2Proof.Tests

/-- Refutes O23: taking the computation of the identity is to leave the jobs as they are, but like every event it lists the
records that have become ready, and the statement does not ask that they be listed already. A record that becomes ready with
plaintext held drops that plaintext and ends the store that waits for it. -/
theorem not_unitsTakeJobs : ¬Obligations.UnitsTakeJobs := by
  rintro ⟨identity, -⟩
  refine not_completes_of_after undecidedStore_ended (fun h ended => ?_)
    (identity (st undecidedStore) 0 (by decide +kernel) (by decide +kernel) (by decide +kernel) (by decide +kernel)
      (by decide +kernel) (by decide +kernel) (by decide +kernel))
  rintro ⟨-, -, -, jobs, -⟩
  rw [jobs] at ended
  cases ended
end

section
namespace Sys2Proof.Machine

/-! ### The state of a public-key unit -/

@[simp] theorem Hw.modPku_pkUnit (s : Hw) (u : Nat) (f : PkUnit → PkUnit) : (s.modPku u f).pkUnit u = f (s.pkUnit u) :=
  tget_tmod _ _ u f

theorem Hw.modPku_pkUnit_ne (s : Hw) {u n : Nat} (h : n ≠ u) (f : PkUnit → PkUnit) : (s.modPku u f).pkUnit n = s.pkUnit n :=
  tget_tmod_ne _ h _ f

theorem Hw.pkUnit_congr {s h : Hw} (pku : h.pku = s.pku) (u : Nat) : h.pkUnit u = s.pkUnit u := by
  unfold Hw.pkUnit
  rw [pku]

theorem finish_pku (s : Hw) (k : Nat) (st : BitVec 8) (r : Word) : (finish s k st r).pku = s.pku :=
  (congrArg Hw.pku (finish_sansJobs s k st r) :)

theorem finish_flt (s : Hw) (k : Nat) (st : BitVec 8) (r : Word) : (finish s k st r).flt = s.flt :=
  (congrArg Hw.flt (finish_sansJobs s k st r) :)

theorem Hw.fenced_congr {s h : Hw} (flt : h.flt = s.flt) (u : Nat) : h.fenced u = s.fenced u :=
  congrArg (fun l => (tget ({} : FltBlock) l u).fenced) flt

/-- What the end of a unit's work leaves: zeros in operand memory, and one more job counted (R210, R225). -/
structure PkUnit.Burnishes (v w : PkUnit) : Prop where
  phase : w.phase = .burnish
  mem : w.mem = []
  outputs : w.outputs = []
  rand : w.rand = []
  jobs : w.jobs = satInc v.jobs

theorem pkBurnish_burnishes (s : Hw) (u : Nat) (st : BitVec 8) : (s.pkUnit u).Burnishes ((pkBurnish s u st).pkUnit u) := by
  unfold pkBurnish pkWipe
  rw [Hw.modPku_pkUnit, Hw.modPku_pkUnit]
  exact ⟨rfl, rfl, rfl, rfl, rfl⟩

theorem pkBurnish_jobs (s : Hw) (u : Nat) (st : BitVec 8) : (pkBurnish s u st).jobs = s.jobs := rfl

/-! ### The end of a job's work (R201, R222, R224) -/

/-- Unit u works for a job whose result is wanted and that is no ML-DSA signature. -/
structure PkUnit.WorksFor (v : PkUnit) (key : Nat) : Prop where
  work : v.work = some (.job key)
  wanted : v.killed = false
  unsigned : pkDsaSign v.op.toNat = false

theorem addAttempts_ctx (s : Hw) (c n : Nat) :
    (addAttempts s c n).ctx c = { s.ctx c with attempts := satInc (s.ctx c).attempts n } := Hw.modCtx_ctx s c _

/-- Attempts counted leave a ticket's job as it is. -/
theorem Works.attempts_counted {s : Hw} {c t : Nat} {j : Job} (works : Works s c t j) (n : Nat) :
    Works (addAttempts s c n) c t j := by
  obtain ⟨awake, ticket, job, used, unposted, wanted, settled⟩ := works
  have ctx := addAttempts_ctx s c n
  refine ⟨awake, ticket, job, by rwa [ctx], by rwa [ctx], by rwa [ctx], ?_⟩
  refine settled.of_ctx c (fun ready => ?_) (fun a h => Hw.modCtx_ctx_ne s _ h) fun _ h => h
  rw [ctx] at ready
  simp [recordReady, unposted, wanted] at ready

theorem pkEnd_job {s : Hw} {u key : Nat} (w : (s.pkUnit u).WorksFor key) (st : BitVec 8) :
    pkEnd s u st = pkBurnish (finish (addAttempts s (key / 16) (s.pkUnit u).attempts) key st 0) u st := by
  unfold pkEnd pkCorrect
  simp only [w.work, w.wanted, w.unsigned, Bool.false_and, Bool.false_eq_true, if_false]

/-- The end of the work for the only job completes it, and the unit burnishes. -/
theorem Works.pkEnd_ends {s : Hw} {c t u : Nat} {j : Job} (works : Works s c t j) (w : (s.pkUnit u).WorksFor (jobKey c t))
    (st : BitVec 8) : (pkEnd s u st).Settled ∧ (pkEnd s u st).Done c t st ∧ (((pkEnd s u st).ctx c).tk t).result = 0 ∧
      (s.pkUnit u).Burnishes ((pkEnd s u st).pkUnit u) ∧ (pkEnd s u st).mm = s.mm ∧ (pkEnd s u st).flt = s.flt := by
  rw [pkEnd_job w, jobKey_div c works.ticket]
  obtain ⟨done, result, settled⟩ := (works.attempts_counted (s.pkUnit u).attempts).job_ends rfl rfl st 0
  have mm := finish_mm (addAttempts s c (s.pkUnit u).attempts) (jobKey c t) st 0
  have flt := finish_flt (addAttempts s c (s.pkUnit u).attempts) (jobKey c t) st 0
  have unit := Hw.pkUnit_congr (finish_pku (addAttempts s c (s.pkUnit u).attempts) (jobKey c t) st 0) u
  generalize finish (addAttempts s c (s.pkUnit u).attempts) (jobKey c t) st 0 = m at done result settled mm flt unit ⊢
  have burnishes := pkBurnish_burnishes m u st
  rw [unit] at burnishes
  exact ⟨settled.congr rfl rfl, done, result, burnishes, mm, flt⟩

end Sys2Proof.Machine
end

section
namespace Sys2Proof.Machine

/-! ### The fence of a public-key unit in a block without jobs (R277, R348, R349) -/

/-- Nothing is left of the jobs, and contexts, fault blocks and the ring manager stand. -/
structure Hw.Jobless (s h : Hw) : Prop where
  jobs : h.jobs = []
  ctxs : h.ctxs = s.ctxs
  flt : h.flt = s.flt
  rm : h.rm = s.rm

section
variable {s h : Hw} (keeps : s.Jobless h)
include keeps

/-- The end of a message reaches a port's intake, and no KINT. -/
theorem Hw.Jobless.after_updTell (src : UpdSource) (st : BitVec 8) (reason : BitVec 4) (n : Nat) :
    s.Jobless (updTell h src st reason n) := by
  obtain ⟨jobs, ctxs, flt, rm⟩ := keeps
  cases src with
  | kint key =>
    have gone : h.job key = none := by simp [Hw.job, jobs]
    simp only [updTell, gone, Option.isSome_none, Bool.false_eq_true, if_false]
    exact ⟨jobs, ctxs, flt, rm⟩
  | _ => exact ⟨jobs, ctxs, flt, rm⟩

theorem Hw.Jobless.after_dropUpd (id : Nat) : s.Jobless (dropUpd h id) := ⟨keeps.jobs, keeps.ctxs, keeps.flt, keeps.rm⟩

theorem Hw.Jobless.after_updRefuse (u : Update) (st : BitVec 8) (reason : BitVec 4) : s.Jobless (updRefuse h u st reason) := by
  refine Hw.Jobless.after_updTell ?_ _ _ _ _
  split
  · exact keeps.after_dropUpd u.id
  · exact ⟨keeps.jobs, keeps.ctxs, keeps.flt, keeps.rm⟩

theorem Hw.Jobless.after_receiptEnd (u : Update) (st : BitVec 8) : s.Jobless (receiptEnd h u st) := by
  unfold receiptEnd
  split <;> exact (keeps.after_dropUpd u.id).after_updTell _ _ _ _

theorem Hw.Jobless.after_updFenced (unit : Nat) : s.Jobless (updFenced h unit) := by
  unfold updFenced
  refine List.foldlRecOn _ _ keeps fun m keeps u _ => ?_
  split
  · exact keeps.after_receiptEnd _ _
  · exact keeps.after_updRefuse _ _ _

theorem Hw.Jobless.after_pkbFail (b : Nat) : s.Jobless (pkbFail h b) := by simpa [pkbFail, keeps.jobs] using keeps

/-- The work that the fence of a unit affects is all in messages. -/
theorem Hw.Jobless.after_benchFenced {b off : Nat} (hoff : off = 7 ∨ off = 8) : s.Jobless (benchFenced h b off) := by
  have withheld : s.Jobless (if h.out (benchUnit b off) then pkWithhold h (2 * b + off - 7) else h) := by
    split
    · exact ⟨keeps.jobs, keeps.ctxs, keeps.flt, keeps.rm⟩
    · exact keeps
  have refused := withheld.after_updFenced (2 * b + off - 7)
  unfold benchFenced
  rw [if_neg (by omega), if_neg (by omega), if_neg (by omega), if_pos (by omega)]
  dsimp only
  generalize updFenced _ _ = m at refused ⊢
  split
  · exact refused
  · exact refused.after_pkbFail b

end

theorem Hw.modBlk_blk (s : Hw) (u : Nat) (f : FltBlock → FltBlock) : (s.modBlk u f).blk u = f (s.blk u) := tget_tmod _ _ u f

theorem pkuUnit_spec {u : Nat} (hu : u < 16) :
    pkuUnit u < 0x80 ∧ pkuUnit u / 16 = u / 2 ∧ pkuUnit u % 16 = 7 + u % 2 := by
  unfold pkuUnit benchUnit
  omega

theorem fenceWork_pku (s : Hw) {u : Nat} (hu : u < 16) : fenceWork s (pkuUnit u) = benchFenced s (u / 2) (7 + u % 2) := by
  obtain ⟨low, bench, off⟩ := pkuUnit_spec hu
  unfold fenceWork
  rw [if_pos low, bench, off, if_neg (by omega)]

theorem setMode_ctxs_rm (s : Hw) (m : Mode) : (setMode s m).ctxs = s.ctxs ∧ (setMode s m).rm = s.rm := by
  unfold setMode
  split
  · exact ⟨rfl, rfl⟩
  · exact ⟨note_ctxs _ _ _ _, note_rm _ _ _ _⟩

/-- The fence of a public-key unit stands, and no context and no record changes with it. -/
theorem fenceUnit_pku {s : Hw} (jobs : s.jobs = []) {u : Nat} (hu : u < 16) :
    (fenceUnit s (pkuUnit u)).fenced (pkuUnit u) = true ∧ (fenceUnit s (pkuUnit u)).ctxs = s.ctxs ∧
      (fenceUnit s (pkuUnit u)).rm = s.rm := by
  let marked := s.modBlk (pkuUnit u) fun b => { b with fenced := true, fences := satInc b.fences }
  have set : marked.fenced (pkuUnit u) = true := congrArg FltBlock.fenced (s.modBlk_blk (pkuUnit u) _)
  have census := cenFence_sansCensus marked (pkuUnit u)
  unfold fenceUnit
  dsimp only
  generalize cenFence _ (pkuUnit u) = m at census ⊢
  have same : m.Jobless m := ⟨(congrArg Hw.jobs census :).trans jobs, rfl, rfl, rfl⟩
  have ended := same.after_benchFenced (b := u / 2) (off := 7 + u % 2) (by omega)
  rw [← fenceWork_pku m hu] at ended
  have ctxs := ended.ctxs.trans (congrArg Hw.ctxs census :)
  have rm := ended.rm.trans (congrArg Hw.rm census :)
  have fenced := (Hw.fenced_congr (ended.flt.trans (congrArg Hw.flt census :)) (pkuUnit u)).trans set
  split
  · obtain ⟨modeFenced, -, -⟩ := setMode_keeps (fenceWork m (pkuUnit u)) .degraded
    obtain ⟨modeCtxs, modeRm⟩ := setMode_ctxs_rm (fenceWork m (pkuUnit u)) .degraded
    exact ⟨(modeFenced _).trans fenced, modeCtxs.trans ctxs, modeRm.trans rm⟩
  · exact ⟨fenced, ctxs, rm⟩

/-- Each event that a unit's own checkers raise fences it, when it is in service and no job is left. -/
theorem raise_pku {s : Hw} {u e : Nat} (hu : u < 16) (he : e = 0x40 ∨ e = 0x42) (jobs : s.jobs = [])
    (unfenced : s.fenced (pkuUnit u) = false) (d : BitVec 16) :
    (raise s (pkuUnit u) e d).fenced (pkuUnit u) = true ∧ (raise s (pkuUnit u) e d).ctxs = s.ctxs ∧
      (raise s (pkuUnit u) e d).rm = s.rm := by
  obtain ⟨low, -, off⟩ := pkuUnit_spec hu
  have row : eventRow s (pkuUnit u) e = some rowFence := by
    unfold eventRow benchRow
    rw [if_pos low, off, if_neg (by omega), if_neg (by omega), if_pos (by omega)]
    rcases he with rfl | rfl <;> rfl
  have log := logRow_sansLog s (pkuUnit u) e d rowFence
  have logged := (logRow_fenced s (pkuUnit u) e d rowFence (pkuUnit u)).trans unfenced
  have fences : raise s (pkuUnit u) e d = fenceUnit (logRow s (pkuUnit u) e d rowFence) (pkuUnit u) := by
    unfold raise
    simp only [row, logged]
    rfl
  rw [fences]
  obtain ⟨fenced, ctxs, rm⟩ := fenceUnit_pku (s := logRow s (pkuUnit u) e d rowFence) ((congrArg Hw.jobs log :).trans jobs) hu
  exact ⟨fenced, ctxs.trans (congrArg Hw.ctxs log :), rm.trans (congrArg Hw.rm log :)⟩

end Sys2Proof.Machine
end

section
namespace Sys2Proof.Machine

/-! ### The last job of a block ends -/

theorem releaseJob_jobs (s : Hw) (k : Nat) : (releaseJob s k).jobs = s.jobs := by
  have stall : ∀ p, (stallEnd s p k).jobs = s.jobs := fun p => by unfold stallEnd; split <;> rfl
  unfold releaseJob
  dsimp only
  split
  · split
    · split <;> exact stall _
    · rfl
  · rfl

theorem finish_jobs_one {s : Hw} {k : Nat} {j : Job} (jobs : s.jobs = [(k, j)]) (st : BitVec 8) (r : Word) :
    (finish s k st r).jobs = [] := by
  simp [finish, setDone, Hw.delJob, Hw.modCtx, Hw.setCtx, releaseJob_jobs, jobs, tdel]

theorem pkEnd_jobs_one {s : Hw} {u key : Nat} {j : Job} (w : (s.pkUnit u).WorksFor key) (jobs : s.jobs = [(key, j)])
    (st : BitVec 8) : (pkEnd s u st).jobs = [] := by
  have counted : (addAttempts s (key / 16) (s.pkUnit u).attempts).jobs = [(key, j)] := jobs
  rw [pkEnd_job w, pkBurnish_jobs, finish_jobs_one counted]

/-! ### The release (R196, R219, R222, R224) -/

/-- A block that has met a unit's flipped bit. -/
def Hw.unflipped (s : Hw) (u : Nat) : Hw := (takeFlip s (pkuUnit u)).2

theorem unflipped_fenced (s : Hw) (u v : Nat) : (s.unflipped u).fenced v = s.fenced v := modBlk_fenced s _ v fun _ => rfl

theorem unflipped_out (s : Hw) (u v : Nat) : (s.unflipped u).out v = s.out v := by simp [Hw.out, unflipped_fenced]

/-- The two computations for a program's job agree and are released, or the job ends ENGINE_FENCED and the unit is fenced. -/
theorem pkRelease_computed {s : Hw} {u key : Nat} (w : (s.pkUnit u).WorksFor key) (phase : (s.pkUnit u).phase = .compute)
    (serves : s.out (pkuUnit u) = false) (agree : Bool) : pkRelease u agree s =
      if agree && !(s.blk (pkuUnit u)).flip && pkAnswer ((s.pkUnit u).pkIn true) = pkAnswer ((s.pkUnit u).pkIn false) then
        pkReleased (s.unflipped u) u
      else raise (pkEnd (s.unflipped u) u stEngineFenced) (pkuUnit u) 0x40 (s.pkUnit u).op := by
  have serves' := (unflipped_out s u (pkuUnit u)).trans serves
  unfold Hw.unflipped takeFlip at *
  simp [pkRelease, takeFlip, phase, w.work, serves']

/-- The event of an operation's status is logged (R211). -/
def pkNoted (s : Hw) (u op : Nat) (st : BitVec 8) : Hw :=
  match pkEvent op st with | some e => note s (pkuUnit u) e | none => s

theorem pkNoted_sansLog (s : Hw) (u op : Nat) (st : BitVec 8) : (pkNoted s u op st).sansLog = s.sansLog := by
  unfold pkNoted
  split
  · exact note_sansLog _ _ _ _
  · rfl

/-- A unit with the status and the results of its computations. -/
def PkUnit.answered (v : PkUnit) : PkUnit :=
  let a := pkAnswer (v.pkIn false)
  { v.results a.2.2 a.2.2 with attempts := a.2.1, status := a.1 }

/-- A block in which the compare of a unit has agreed (R219). -/
def Hw.answered (s : Hw) (u : Nat) : Hw :=
  pkNoted (s.modPku u PkUnit.answered) u (s.pkUnit u).op.toNat (pkAnswer ((s.pkUnit u).pkIn false)).1

theorem answered_sansLog (s : Hw) (u : Nat) : (s.answered u).sansLog = (s.modPku u PkUnit.answered).sansLog :=
  pkNoted_sansLog _ u _ _

theorem answered_pkUnit (s : Hw) (u : Nat) : (s.answered u).pkUnit u = (s.pkUnit u).answered :=
  (Hw.pkUnit_congr (congrArg Hw.pku (answered_sansLog s u) :) u).trans (s.modPku_pkUnit u PkUnit.answered)

theorem PkUnit.WorksFor.answered {v : PkUnit} {key : Nat} (w : v.WorksFor key) : v.answered.WorksFor key :=
  ⟨w.work, w.wanted, w.unsigned⟩

theorem Works.answered {s : Hw} {c t : Nat} {j : Job} (works : Works s c t j) (u : Nat) : Works (s.answered u) c t j := by
  have keeps := answered_sansLog s u
  exact works.congr (congrArg Hw.inert keeps :) (congrArg Hw.jobs keeps :) (congrArg Hw.ctxs keeps :)
    (congrArg (fun h : Hw => h.rm.ready) keeps :)

/-- An operation without results, a verification, ends with its status. -/
theorem pkReleased_verdict {s : Hw} {c t u : Nat} {j : Job} {b : Block} (works : Works s c t j)
    (w : (s.pkUnit u).WorksFor (jobKey c t)) (op : j.op = .pk b) (none_out : pkOuts (kbOp b) (kbWords b) = []) :
    pkReleased s u = pkEnd (s.answered u) u (pkAnswer ((s.pkUnit u).pkIn false)).1 := by
  have work := answered_pkUnit s u ▸ w.answered.work
  have targets : pkTargets (s.answered u) ((s.answered u).pkUnit u) (pkAnswer ((s.pkUnit u).pkIn false)).2.2 = [] := by
    simp [pkTargets, work, (works.answered u).job, op, none_out]
  have ends : ((pkAnswer ((s.pkUnit u).pkIn false)).1 != stOk ||
      (pkTargets (s.answered u) ((s.answered u).pkUnit u) (pkAnswer ((s.pkUnit u).pkIn false)).2.2).isEmpty ||
      ((s.answered u).pkUnit u).killed) = true := by
    simp [targets]
  exact if_pos ends

theorem Works.unflipped {s : Hw} {c t : Nat} {j : Job} (works : Works s c t j) (u : Nat) : Works (s.unflipped u) c t j :=
  works.congr rfl rfl rfl rfl

/-- A verification whose computations agree ends with its status, and its unit burnishes. -/
theorem Works.pkRelease_agrees {s : Hw} {c t u : Nat} {j : Job} {b : Block} (works : Works s c t j)
    (w : (s.pkUnit u).WorksFor (jobKey c t)) (phase : (s.pkUnit u).phase = .compute) (serves : s.out (pkuUnit u) = false)
    (op : j.op = .pk b) (none_out : pkOuts (kbOp b) (kbWords b) = []) (flip : (s.blk (pkuUnit u)).flip = false)
    (same : pkAnswer ((s.pkUnit u).pkIn true) = pkAnswer ((s.pkUnit u).pkIn false)) :
    (pkRelease u true s).Settled ∧ (s.pkUnit u).Burnishes ((pkRelease u true s).pkUnit u) ∧
      (pkRelease u true s).Done c t (pkAnswer ((s.pkUnit u).pkIn false)).1 ∧
      (((pkRelease u true s).ctx c).tk t).result = 0 := by
  have unit : ((s.unflipped u).answered u).pkUnit u = (s.pkUnit u).answered := answered_pkUnit (s.unflipped u) u
  have released : pkRelease u true s = pkEnd ((s.unflipped u).answered u) u (pkAnswer ((s.pkUnit u).pkIn false)).1 := by
    rw [pkRelease_computed w phase serves, if_pos (by simp [flip, same])]
    exact pkReleased_verdict (works.unflipped u) w op none_out
  obtain ⟨settled, done, result, ⟨ph, mem, outputs, rand, jobs⟩, -, -⟩ :=
    ((works.unflipped u).answered u).pkEnd_ends (u := u) (unit ▸ w.answered) (pkAnswer ((s.pkUnit u).pkIn false)).1
  rw [released]
  rw [unit] at jobs
  exact ⟨settled, ⟨ph, mem, outputs, rand, jobs⟩, done, result⟩

/-- A job whose computations disagree ends ENGINE_FENCED, and its unit is fenced. -/
theorem Works.pkRelease_differs {s : Hw} {c t u : Nat} {j : Job} (works : Works s c t j) (hu : u < 16)
    (jobs : s.jobs = [(jobKey c t, j)]) (w : (s.pkUnit u).WorksFor (jobKey c t)) (phase : (s.pkUnit u).phase = .compute)
    (serves : s.out (pkuUnit u) = false) {agree : Bool}
    (differs : agree = false ∨ pkAnswer ((s.pkUnit u).pkIn true) ≠ pkAnswer ((s.pkUnit u).pkIn false)) :
    (pkRelease u agree s).Settled ∧ (pkRelease u agree s).Done c t 0x14 ∧
      (pkRelease u agree s).fenced (pkuUnit u) = true := by
  obtain ⟨settled, done, -, -, -, flt⟩ := (works.unflipped u).pkEnd_ends (u := u) w stEngineFenced
  have unfenced : (pkEnd (s.unflipped u) u stEngineFenced).fenced (pkuUnit u) = false := by
    rw [Hw.fenced_congr flt, unflipped_fenced]
    exact (Bool.or_eq_false_iff.mp serves).1
  rw [pkRelease_computed w phase serves, if_neg (by rcases differs with h | h <;> simp [h])]
  have none_left := pkEnd_jobs_one (s := s.unflipped u) w jobs stEngineFenced
  generalize pkEnd (s.unflipped u) u stEngineFenced = m at settled done unfenced none_left ⊢
  obtain ⟨fenced, ctxs, rm⟩ := raise_pku hu (.inl rfl) none_left unfenced (s.pkUnit u).op
  refine ⟨settled.congr ctxs (congrArg RingMgr.ready rm), ?_, fenced⟩
  unfold Hw.Done
  rw [Hw.ctx_congr ctxs]
  exact done

/-- A job whose results are all written ends OK, and its unit burnishes (R222). -/
theorem Works.pkWritten_ends {s : Hw} {c t u : Nat} {j : Job} (works : Works s c t j) (w : (s.pkUnit u).WorksFor (jobKey c t))
    (phase : (s.pkUnit u).phase = .write) (acknowledged : (s.pkUnit u).writeOut = 0) (issued : (s.pkUnit u).outputs = [])
    (kept : (s.pkUnit u).refused = false) :
    (pkWritten u s).Settled ∧ (s.pkUnit u).Burnishes ((pkWritten u s).pkUnit u) ∧ (pkWritten u s).Done c t 0 ∧
      (pkWritten u s).mm = s.mm := by
  have e : pkWritten u s = pkEnd s u stOk := by simp [pkWritten, phase, acknowledged, issued, kept]
  obtain ⟨settled, done, -, burnishes, mm, -⟩ := works.pkEnd_ends w stOk
  rw [e]
  exact ⟨settled, burnishes, done, mm⟩

/-! ### The end of the burnish (R225, R226) -/

/-- While pk_clk runs the burnish ends in an inert block too (R226). -/
theorem completes_burnishEnd {s : State} {unit : BitVec 4} {clean : Bool} {P : Hw → Prop} (por : s.hw.mc.por = false)
    (supplied : s.hw.sec.power ≠ .retention) (powered : s.hw.sec.power ≠ .off)
    (p : P (settleAll (burnishEnd unit.toNat clean s.hw))) : Completes (.burnishEnd unit clean) s P := by
  have e : exec (.burnishEnd unit clean) s = s.to (settleAll (if s.hw.mc.por || s.hw.sec.power = .retention ||
      s.hw.sec.power = .off then s.hw else burnishEnd unit.toNat clean s.hw)) := rfl
  rw [if_neg (by simp [por, supplied, powered])] at e
  exact completes_of_to e p

theorem burnishEnd_clean {s : Hw} {u : Nat} (phase : (s.pkUnit u).phase = .burnish) :
    burnishEnd u true s = s.modPku u fun v => v.released s.clk.core := by simp [burnishEnd, phase]

theorem burnishEnd_unclean {s : Hw} {u : Nat} (phase : (s.pkUnit u).phase = .burnish) :
    burnishEnd u false s = raise (s.modPku u fun v => v.released s.clk.core) (pkuUnit u) 0x42 := by simp [burnishEnd, phase]

end Sys2Proof.Machine

open Sys2Proof Sys2Proof.Machine

/-- Settles O24: a unit's work for a job ends by `pkEnd`, and its burnish by `burnishEnd`, each with the fence of the unit
where its check fails. -/
theorem unitsReleaseAndBurnish : Obligations.UnitsReleaseAndBurnish := by
  intro s c t j unit key u v burnishes
  have hu : u < 16 := unit.isLt
  refine ⟨fun b works jobs op work wanted unsigned serves => ?_, fun por supplied powered phase => ?_⟩
  · have w : v.WorksFor key := ⟨work, wanted, unsigned⟩
    have leaves : ∀ h : Hw, v.Burnishes (h.pkUnit u) → burnishes h := fun h r =>
      ⟨r.phase, r.mem, r.outputs, r.rand, r.jobs⟩
    refine ⟨fun phase none_out flip same => ?_, fun agree phase differs => ?_, fun phase acknowledged issued kept => ?_⟩
    · obtain ⟨settled, r, done, result⟩ := works.pkRelease_agrees w phase serves op none_out flip same
      exact completes_work (f := pkRelease u true) rfl works.awake settled ⟨leaves _ r, done, result⟩
    · obtain ⟨settled, ends⟩ := works.pkRelease_differs hu jobs w phase serves differs
      exact completes_work (f := pkRelease u agree) rfl works.awake settled ends
    · obtain ⟨settled, r, ends⟩ := works.pkWritten_ends w phase acknowledged issued kept
      exact completes_work (f := pkWritten u) rfl works.awake settled ⟨leaves _ r, ends⟩
  · refine ⟨completes_burnishEnd por supplied powered ?_,
      fun _ unfenced jobs => completes_burnishEnd por supplied powered ?_⟩
    · rw [burnishEnd_clean phase]
      have freed := s.hw.modPku_pkUnit u fun v => v.released s.hw.clk.core
      have others := fun n (h : n ≠ u) => s.hw.modPku_pkUnit_ne h fun v => v.released s.hw.clk.core
      simp only [Hw.pkUnit, settleAll_pku, settleAll_flt] at freed others ⊢
      rw [freed]
      exact ⟨rfl, rfl, others, rfl⟩
    · rw [burnishEnd_unclean phase, settleAll_fenced]
      exact (raise_pku (s := s.hw.modPku u fun v => v.released s.hw.clk.core) hu (.inr rfl) jobs unfenced 0).1
end

section
namespace Sys2Proof.Machine

/-! ### Waking leaves the public-key machinery (R390) -/

@[simp] theorem wake_pkb (s : Hw) : (wake s).pkb = s.pkb := by
  unfold wake
  split <;> simp

@[simp] theorem wake_pku (s : Hw) : (wake s).pku = s.pku := by
  unfold wake
  split <;> simp

/-! ### Curve tables (R228, R229) -/

theorem Hw.modPkb_pkb' (s : Hw) (b : Nat) (f : PkBench → PkBench) : (s.modPkb b f).pkb' b = f (s.pkb' b) := tget_tmod _ _ b f

theorem Hw.pkb'_congr {s h : Hw} (pkb : h.pkb = s.pkb) (b : Nat) : h.pkb' b = s.pkb' b :=
  congrArg (fun l => tget ({} : PkBench) l b) pkb

/-- The changed entry stands in the table. -/
theorem modCurve_mem {s : Hw} {b id : Nat} {e : CurveEntry} (found : (s.pkb' b).curves.find? (fun e => e.id = id) = some e)
    (f : CurveEntry → CurveEntry) : f e ∈ ((modCurve s b id f).pkb' b).curves := by
  have same : e.id = id := by simpa using List.find?_some found
  unfold modCurve
  rw [Hw.modPkb_pkb']
  exact List.mem_map.mpr ⟨e, List.mem_of_find?_eq_some found, if_pos same⟩

/-- An entry one more segment of which has ended, `ok` when all so far have passed (R229). -/
def CurveEntry.ended (e : CurveEntry) (ok : Bool) (seq now : Nat) : CurveEntry := { e with
  segment := e.segment + 1, pass := ok, taken := false, seq := seq, since := now
  st := if e.segment + 1 = 7 then (if ok then .accepted else .rejected) else .checking }

/-- A segment that ends on a unit in service moves its entry on, and the unit burnishes (R229). -/
theorem segmentEnd_moves {s : Hw} {u b id : Nat} {e : CurveEntry} (work : (s.pkUnit u).work = some (.segment b id))
    (phase : (s.pkUnit u).phase = .compute) (serves : s.out (pkuUnit u) = false)
    (found : (s.pkb' b).curves.find? (fun e => e.id = id) = some e) :
    ((segmentEnd u s).pkUnit u).phase = .burnish ∧
      e.ended (e.pass && curveSegmentOk (((s.pkUnit u).operands false).headD []) (e.segment + 1)) (s.jobSeq + 1) s.clk.core ∈
        ((segmentEnd u s).pkb' b).curves := by
  let ok := e.pass && curveSegmentOk (((s.pkUnit u).operands false).headD []) (e.segment + 1)
  let moved := modCurve { s with jobSeq := s.jobSeq + 1 } b id fun c => { c with
    segment := c.segment + 1, pass := ok, taken := false, seq := s.jobSeq + 1, since := s.clk.core
    st := if e.segment + 1 = 7 then (if ok then .accepted else .rejected) else .checking }
  have ends : segmentEnd u s =
      pkBurnish (if e.segment + 1 = 7 then note moved (pkuUnit u) (if ok then 0x28 else 0x29) else moved) u stOk := by
    simp [segmentEnd, work, phase, serves, found, moved, ok]
  have entry : e.ended ok (s.jobSeq + 1) s.clk.core ∈ (moved.pkb' b).curves :=
    modCurve_mem (s := { s with jobSeq := s.jobSeq + 1 }) found _
  rw [ends]
  refine ⟨(pkBurnish_burnishes _ u stOk).phase, ?_⟩
  split
  · exact Hw.pkb'_congr (note_pkb moved _ _ _) b ▸ entry
  · exact entry

/-- A change of every value is read where the old value was, when the default stands. -/
theorem tget_map {α β : Type} (d : α) (f : α → β) (t : Table α) (k : Nat) :
    tget (f d) (t.map fun e => (e.1, f e.2)) k = f (tget d t k) := by
  induction t with
  | nil => rfl
  | cons e r ih =>
    simp only [List.map_cons, tget, ih]
    exact (apply_ite f _ _ _).symm

/-- A bench whose table has been cleared (R228). -/
def PkBench.cleared (v : PkBench) : PkBench := { v with curves := v.curves.filter fun e => e.st = .checking }

/-- CLEAR leaves a table the entries that are being checked (R228). -/
theorem curvesClear_curves (s : Hw) (b : Nat) :
    ((curvesClear s).pkb' b).curves = (s.pkb' b).curves.filter fun e => e.st = .checking :=
  congrArg PkBench.curves (tget_map ({} : PkBench) PkBench.cleared s.pkb b)

end Sys2Proof.Machine

open Sys2Proof Sys2Proof.Machine

/-- Settles O25: the end of a segment leaves its entry as `CurveEntry.ended` has it, and CLEAR filters each table. -/
theorem curvesAreChecked : Obligations.CurvesAreChecked := by
  intro s p unit bench id e u v
  refine ⟨fun awake serves work phase found => ?_, fun masters b _ => ?_⟩
  · obtain ⟨burnishes, entry⟩ := segmentEnd_moves work phase serves found
    have same : e.id = id := by simpa using List.find?_some found
    rw [← Hw.pkUnit_congr (settleAll_pku _)] at burnishes
    rw [← Hw.pkb'_congr (settleAll_pkb _)] at entry
    exact completes_settleAll (f := segmentEnd u) rfl awake ⟨burnishes, _, entry, same, rfl, rfl, fun going => if_neg going,
      fun last => if_pos last, rfl⟩
  · refine completes_cinched (f := curvesClear) rfl masters ⟨?_, (settleAll_pku _).trans (wake_pku s.hw)⟩
    rw [Hw.pkb'_congr (settleAll_pkb _), curvesClear_curves, Hw.pkb'_congr (wake_pkb s.hw)]
end

section
namespace Sys2Proof.Machine

open Sys2Proof.Tests

/-- A block that verifies an image, its header wrong, on a unit 24: the block has 16. -/
def strayRunner : Hw := { verifying with ucode := { verifying.ucode with unit := some 24 } }

/-- The two runs disagree, but 0xC7, which `pkuUnit` gives for 24, has no events (`eventRow`), and nothing is fenced. -/
theorem strayRunner_unfenced :
    after (.ucodeVerifyEnd false) (st strayRunner) (fun h => !h.fenced (pkuUnit 24)) = true := by
  decide +kernel

end Sys2Proof.Machine

open Sys2Proof Sys2Proof.Machine Sys2Proof.Tests

/-- Refutes O26: the unit whose two runs disagree is to be fenced, but the unit on record need not be one of the 16, and an
event of a unit that the block has not is none (`raise`). No run from reset records such a unit: every one that is recorded is
one that `ucUnit` chose. -/
theorem not_microcodeAndIdentity : ¬Obligations.MicrocodeAndIdentity := by
  intro all
  obtain ⟨-, -, fences, -, -⟩ := all (st strayRunner) .ctla
  refine not_completes_of_after strayRunner_unfenced (fun h unfenced => ?_)
    (fences 24 (by decide +kernel) rfl (by decide +kernel) rfl (by decide +kernel))
  rintro ⟨fenced, -, -⟩
  simp [fenced] at unfenced
end

section
namespace Sys2Proof.Machine

/-! ### Work ends and leaves chapter 17 as it is -/

theorem foldl_sec {β : Type} (f : Hw → β → Hw) (h : ∀ s b, (f s b).sec = s.sec) (l : List β) (s : Hw) :
    (l.foldl f s).sec = s.sec := foldl_keeps Hw.sec f h l s

@[simp] theorem finish_sec (s : Hw) (k : Nat) (st : BitVec 8) (r : Word) : (finish s k st r).sec = s.sec :=
  (congrArg Hw.sec (finish_sansJobs s k st r) :)

@[simp] theorem finishFree_sec (s : Hw) (k : Nat) (st : BitVec 8) : (finishFree s k st).sec = s.sec :=
  (congrArg Hw.sec (finishFree_sansJobs s k st) :)

@[simp] theorem endJobs_sec (s : Hw) (c : Nat) (p : Job → Bool) (st : BitVec 8) : (endJobs s c p st).sec = s.sec :=
  (congrArg Hw.sec (endJobs_sansJobs s c p st) :)

@[simp] theorem failDs_sec (s : Hw) (c n : Nat) (st : BitVec 8) : (failDs s c n st).sec = s.sec :=
  (congrArg Hw.sec (failDs_sansJobs s c n st) :)

@[simp] theorem failCs_sec (s : Hw) (c n : Nat) (st : BitVec 8) (lead : Option Nat) : (failCs s c n st lead).sec = s.sec :=
  (congrArg Hw.sec (failCs_sansJobs s c n st lead) :)

@[simp] theorem dropHold_sec (s : Hw) (c n : Nat) (st : BitVec 8) : (dropHold s c n st).sec = s.sec :=
  (congrArg Hw.sec (dropHold_sansJobs s c n st) :)

@[simp] theorem updRefuse_sec (s : Hw) (u : Update) (st : BitVec 8) (reason : BitVec 4) :
    (updRefuse s u st reason).sec = s.sec := by
  have told : ∀ t : Hw, (updTell t u.source st reason 0).sec = t.sec := fun t => by
    unfold updTell
    split
    · rfl
    · split <;> simp
    · rfl
    · rfl
  unfold updRefuse
  dsimp only
  rw [told]
  split <;> rfl

@[simp] theorem pkCorrect_sec (s : Hw) (u : Nat) (whole : Bool) : (pkCorrect s u whole).sec = s.sec := by
  unfold pkCorrect
  dsimp only
  split <;> rfl

@[simp] theorem segmentBack_sec (s : Hw) (v : PkUnit) : (segmentBack s v).sec = s.sec := by
  unfold segmentBack
  split <;> rfl

@[simp] theorem pkBurnish_sec (s : Hw) (u : Nat) (st : BitVec 8) : (pkBurnish s u st).sec = s.sec := rfl

@[simp] theorem kattDrop_sec (s : Hw) (key : Nat) : (kattDrop s key).sec = s.sec := rfl

/-! ### Zeroization (R254, R257) -/

@[simp] theorem chargeFail_sec (s : Hw) (key : Nat) (st : BitVec 8) : (chargeFail s key st).sec = s.sec := by
  unfold chargeFail ciphFail
  dsimp only
  split
  · split
    · split <;> simp [endingCs]
    · simp
  · rfl

@[simp] theorem destroyStreams_sec (s : Hw) : (destroyStreams s).sec = s.sec := by simp [destroyStreams, foldl_sec]

@[simp] theorem kattsEnd_sec (s : Hw) : (kattsEnd s).sec = s.sec := by simp [kattsEnd, foldl_sec]

@[simp] theorem failCharges_sec (s : Hw) (p : Nat → Bool) (st : BitVec 8) : (failCharges s p st).sec = s.sec := by
  simp [failCharges, foldl_sec]

@[simp] theorem killUnit_sec (s : Hw) (u : Nat) : (killUnit s u).sec = s.sec := by
  unfold killUnit
  dsimp only
  split
  · rfl
  · split
    · simp [pkWipe]
    · split
      · split <;> simp
      · split <;> simp
      · simp

/-- Zeroization leaves life cycle, debug, power and the fuse port. -/
@[simp] theorem zeroizeQuiet_sec (s : Hw) : (zeroizeQuiet s).sec = s.sec := by
  unfold zeroizeQuiet zeroize clearKeys
  simp [foldl_sec]

/-- Zeroization leaves no slot and no root. -/
theorem zeroizeQuiet_keys (s : Hw) : (zeroizeQuiet s).keys.slots = [] ∧ (zeroizeQuiet s).keys.root = .none := by
  unfold zeroizeQuiet
  rw [note_keys]
  exact ⟨rfl, rfl⟩

/-! ### Held (R337, R354) -/

@[simp] theorem stopWork_sec (s : Hw) (c : Nat) (st : BitVec 8) : (stopWork s c st).sec = s.sec := by
  unfold stopWork dropTrap dropUpdates killPku
  simp [foldl_sec]

@[simp] theorem endWithoutRecord_sec (s : Hw) (c : Nat) : (endWithoutRecord s c).sec = s.sec := by
  unfold endWithoutRecord
  dsimp only
  split
  · rfl
  · simp [foldl_sec]

@[simp] theorem pkStop_sec (s : Hw) (u : Nat) : (pkStop s u).sec = s.sec := by
  unfold pkStop
  split <;> simp

@[simp] theorem endAllWork_sec (s : Hw) : (endAllWork s).sec = s.sec := by simp [endAllWork, pkStopAll, foldl_sec]

@[simp] theorem setMode_sec (s : Hw) (m : Mode) : (setMode s m).sec = s.sec := by
  unfold setMode
  split <;> simp

@[simp] theorem setMode_mode (s : Hw) (m : Mode) : (setMode s m).mc.mode = m := by
  unfold setMode
  split
  · assumption
  · simp

theorem leaveFtest_sec (s : Hw) : (leaveFtest s).sec = s.sec := by
  unfold leaveFtest
  split <;> rfl

theorem breakCinch_sec (s : Hw) (cause : BitVec 3) : (breakCinch s cause).sec = s.sec := by
  have dropped : ∀ (t : Hw) p, (dropHolder t p).sec = t.sec := fun t p => by
    unfold dropHolder abandonAppr abandonIntake
    split <;> split <;> rfl
  unfold breakCinch
  split
  · rfl
  · dsimp only
    split <;> simp [startCopy, dropped]

theorem enterHeld_mode (s : Hw) : (enterHeld s).mc.mode = .held := by
  unfold enterHeld
  split
  · assumption
  · simp

@[simp] theorem enterHeld_sec (s : Hw) : (enterHeld s).sec = s.sec := by
  unfold enterHeld
  split
  · rfl
  · simp [breakCinch_sec, cenEnd, leaveFtest_sec]

theorem logRow_sec (s : Hw) (u e : Nat) (d : BitVec 16) (row : EvRow) : (logRow s u e d row).sec = s.sec :=
  (congrArg Hw.sec (logRow_sansLog s u e d row) :)

theorem raise_fatal {s : Hw} {u e : Nat} (row : eventRow s u e = some rowFatal) (d : BitVec 16) :
    raise s u e d = enterHeld (logRow s u e d rowFatal) := by
  simp [raise, row, rowFatal]

/-- A wrong or missing response of the fuse array is fatal: Held, and no operation is left (R352, R439). -/
theorem fuseFatal_held (s : Hw) (data : BitVec 16) :
    (fuseFatal s data).mc.mode = .held ∧ (fuseFatal s data).sec.fuse = [] := by
  unfold fuseFatal
  rw [raise_fatal rfl, enterHeld_sec, logRow_sec]
  exact ⟨enterHeld_mode _, rfl⟩

/-! ### Without slots no end of work makes one -/

theorem releaseJob_no_slots {s : Hw} (none_left : s.keys.slots = []) (k : Nat) : (releaseJob s k).keys.slots = [] := by
  have stall : ∀ p, (stallEnd s p k).keys = s.keys := fun p => by unfold stallEnd; split <;> rfl
  unfold releaseJob
  dsimp only
  split
  · split
    · split <;> simp [stall, none_left, tmod, tset, tget, tdel]
    · exact none_left
  · exact none_left

theorem finish_no_slots {s : Hw} (none_left : s.keys.slots = []) (k : Nat) (st : BitVec 8) (r : Word) :
    (finish s k st r).keys.slots = [] := releaseJob_no_slots none_left k

theorem stopTransfer_no_slots {s : Hw} (none_left : s.keys.slots = []) (k : Nat) (j : Job) (st : BitVec 8) :
    (stopTransfer s k j st).keys.slots = [] := by
  unfold stopTransfer
  split
  · exact finish_no_slots none_left k st _
  · exact none_left

theorem endJob_no_slots {s : Hw} (none_left : s.keys.slots = []) (k : Nat) (st : BitVec 8) :
    (endJob s k st).keys.slots = [] := by
  have finished := finish_no_slots none_left k st
  have free : (finishFree s k st).keys.slots = [] := finish_no_slots (s := (drawFree s).2) none_left k st _
  unfold endJob
  split
  · exact none_left
  · split <;> simp [finished, free, stopTransfer_no_slots none_left]

/-- A fold of steps that make no slot makes none. -/
theorem foldl_no_slots {β : Type} {f : Hw → β → Hw} (h : ∀ s b, s.keys.slots = [] → (f s b).keys.slots = [])
    (l : List β) {s : Hw} (none_left : s.keys.slots = []) : (l.foldl f s).keys.slots = [] :=
  List.foldlRecOn l f none_left fun t k b _ => h t b k

theorem endJobs_no_slots {s : Hw} (none_left : s.keys.slots = []) (c : Nat) (p : Job → Bool) (st : BitVec 8) :
    (endJobs s c p st).keys.slots = [] := foldl_no_slots (fun _ e k => endJob_no_slots k e.1 st) _ none_left

theorem failDs_no_slots {s : Hw} (none_left : s.keys.slots = []) (c n : Nat) (st : BitVec 8) :
    (failDs s c n st).keys.slots = [] :=
  endJobs_no_slots (s := s.modCtx c fun x => x.setDs n
    { num := (x.ds n).num, isOpen := (x.ds n).isOpen, failed := some ((x.ds n).ending.getD st) }) none_left c _ st

theorem rgWrite_keys (s : Hw) (c : Nat) (r : Word) (b : Bytes) : (rgWrite s c r b).keys = s.keys := by
  unfold rgWrite
  split <;> rfl

theorem dropHold_no_slots {s : Hw} (none_left : s.keys.slots = []) (c n : Nat) (st : BitVec 8) :
    (dropHold s c n st).keys.slots = [] := by
  have zeroed := foldl_no_slots (f := fun s r => rgWrite s c r (zeros (rgLen r)))
    (fun t r k => (congrArg KeyStore.slots (rgWrite_keys t c r _)).trans k) ((s.ctx c).cs n).held none_left
  unfold dropHold
  dsimp only
  generalize List.foldl _ s _ = t at zeroed ⊢
  refine endJobs_no_slots (foldl_no_slots (fun _ n k => failDs_no_slots k c n st) _ ?_) c _ st
  exact zeroed

theorem endUndecided_no_slots {s : Hw} (none_left : s.keys.slots = []) (c : Nat) (p : Bool) (st : BitVec 8) :
    (endUndecided s c p st).keys.slots = [] := by
  have dropped := foldl_no_slots (f := fun t (e : Nat × CipherStream) => dropHold t c e.1 st)
    (fun _ e k => dropHold_no_slots k c e.1 st) (((s.ctx c).cstreams.filter fun e => e.2.undecided && !e.2.rel)) none_left
  unfold endUndecided
  dsimp only
  generalize List.foldl _ s _ = t at dropped ⊢
  split
  · exact dropped
  · split <;> exact dropped

theorem settle_no_slots {s : Hw} (none_left : s.keys.slots = []) (c : Nat) : (settle s c).keys.slots = [] := by
  unfold settle
  split
  · dsimp only
    have ended := endUndecided_no_slots none_left c (s.ctx c).withdrawn.isNone
    split <;> split <;> exact ended _
  · exact none_left

theorem settleAll_no_slots {s : Hw} (none_left : s.keys.slots = []) : (settleAll s).keys.slots = [] :=
  foldl_no_slots (fun _ c k => settle_no_slots k c) _ none_left

end Sys2Proof.Machine
end

section
namespace Sys2Proof.Machine

/-! ### Waking leaves life cycle, debug and the fuse port (R390) -/

/-- A wake changes the power state alone. -/
theorem wake_sec (s : Hw) : ∃ p, (wake s).sec = { s.sec with power := p } := by
  unfold wake
  split
  · exact ⟨.run, note_sec _ _ _ _⟩
  · exact ⟨s.sec.power, rfl⟩

@[simp] theorem wake_lcBits (s : Hw) : (wake s).sec.lcBits = s.sec.lcBits := by
  obtain ⟨p, e⟩ := wake_sec s
  rw [e]

@[simp] theorem wake_lcArmed (s : Hw) : (wake s).sec.lcArmed = s.sec.lcArmed := by
  obtain ⟨p, e⟩ := wake_sec s
  rw [e]

@[simp] theorem wake_debug (s : Hw) : (wake s).sec.debug = s.sec.debug := by
  obtain ⟨p, e⟩ := wake_sec s
  rw [e]

@[simp] theorem wake_fuse (s : Hw) : (wake s).sec.fuse = s.sec.fuse := by
  obtain ⟨p, e⟩ := wake_sec s
  rw [e]

@[simp] theorem wake_keys (s : Hw) : (wake s).keys = s.keys := by
  unfold wake
  split <;> simp

theorem lcState_congr {s h : Hw} (bits : h.sec.lcBits = s.sec.lcBits) : lcState h = lcState s := by simp [lcState, bits]

@[simp] theorem wake_lcState (s : Hw) : lcState (wake s) = lcState s := lcState_congr (wake_lcBits s)

@[simp] theorem wake_lcMoving (s : Hw) : lcMoving (wake s) = lcMoving s := by simp [lcMoving]

@[simp] theorem wake_lcArmedNow (s : Hw) : lcArmedNow (wake s) = lcArmedNow s := by simp [lcArmedNow]

@[simp] theorem wake_lcResult (s : Hw) (p : CtlPort) (t : BitVec 3) (arm : Bool) :
    lcResult (wake s) p t arm = lcResult s p t arm := by simp [lcResult]

@[simp] theorem wake_dbgResult (s : Hw) (t : BitVec 2) : dbgResult (wake s) t = dbgResult s t := by simp [dbgResult]

/-! ### Life cycle (R383 to R385) -/

theorem lcAllowed_iff (a b : Nat) : lcAllowed a b = true ↔
    a = 0 ∧ b = 1 ∨ a = 1 ∧ b = 2 ∨ a = 2 ∧ b = 3 ∨ (a = 2 ∨ a = 3) ∧ b = 4 ∨ a < 5 ∧ b = 5 := by
  simp [lcAllowed, or_assoc]

theorem lcArmedNow_iff (s : Hw) (t : BitVec 3) (p : CtlPort) :
    lcArmedNow s = some (t, p) ↔ ∃ a, s.sec.lcArmed = some (t, p, a) ∧ s.clk.aon ≤ a + 33 := by
  unfold lcArmedNow
  split
  · next armed => simp [armed, and_assoc, and_comm]
  · next idle => simp [idle]

/-- The order in which a GO without ARM is judged (R384, log 49). -/
theorem lcResult_eq (s : Hw) (p : CtlPort) (t : BitVec 3) : lcResult s p t false =
    if ¬(s.mc.mode = .maint ∨ s.mc.mode = .ftest ∧ lcState s ≤ 1) then 3
    else if s.sec.debug = .full then 4
    else if ¬(lcAllowed (lcState s) t.toNat = true ∧ lcMoving s = false) then 2
    else if 4 ≤ t.toNat ∧ lcArmedNow s ≠ some (t, p) then 5
    else 1 := by
  unfold lcResult
  rw [if_neg Bool.false_ne_true]
  refine if_congr ?_ rfl (if_congr Iff.rfl rfl (if_congr ?_ rfl (if_congr ?_ rfl rfl)))
  · simp [← imp_iff_not_or]
  · simp [imp_iff_not_or]
  · simp

/-- A GO that is refused leaves its RESULT and disarms (R384). -/
theorem lcGo_refused {s : Hw} {p : CtlPort} {t : BitVec 3} {arm : Bool} {r : BitVec 4} (result : lcResult s p t arm = r)
    (refused : r ≠ 1) : (lcGo p t arm s).sec = { s.sec with lcArmed := none, lcResult := r } := by
  simp [lcGo, result, show r ≠ 1#4 from refused]

/-- A GO that is accepted queues the blow of both fuses of its target's bit (R385). -/
theorem lcGo_accepted {s : Hw} {p : CtlPort} {t : BitVec 3} {arm : Bool} (result : lcResult s p t arm = 1) :
    (lcGo p t arm s).sec = { s.sec with
      lcArmed := none
      fuse := s.sec.fuse ++ [(.lifeCycle t false, 19, some (2 * (t.toNat - 1))),
        (.lifeCycle t true, 19, some (2 * (t.toNat - 1) + 1))] } := by
  simp [lcGo, result, fusePush]

theorem completes_lcGo_refused {s : State} {p : CtlPort} {t : BitVec 3} {arm : Bool} {r : BitVec 4} (m : Masters s.hw p)
    (result : lcResult s.hw p t arm = r) (refused : r ≠ 1) : Completes (.lcGo p t arm) s fun h =>
      h.sec.lcResult = r ∧ h.sec.fuse = s.hw.sec.fuse ∧ h.sec.lcArmed = none ∧ h.sec.lcBits = s.hw.sec.lcBits := by
  refine completes_cinched (f := lcGo p t arm) rfl m ?_
  rw [settleAll_sec, lcGo_refused ((wake_lcResult s.hw p t arm).trans result) refused]
  exact ⟨rfl, wake_fuse _, rfl, wake_lcBits _⟩

theorem completes_lcGo_accepted {s : State} {p : CtlPort} {t : BitVec 3} {arm : Bool} (m : Masters s.hw p)
    (result : lcResult s.hw p t arm = 1) : Completes (.lcGo p t arm) s fun h =>
      h.sec.fuse = s.hw.sec.fuse ++ [(.lifeCycle t false, 19, some (2 * (t.toNat - 1))),
        (.lifeCycle t true, 19, some (2 * (t.toNat - 1) + 1))] ∧
      h.sec.lcArmed = none ∧ h.sec.lcBits = s.hw.sec.lcBits := by
  refine completes_cinched (f := lcGo p t arm) rfl m ?_
  rw [settleAll_sec, lcGo_accepted ((wake_lcResult s.hw p t arm).trans result), wake_fuse]
  exact ⟨rfl, rfl, wake_lcBits _⟩

/-! ### Warm reset and the root (R351, R385) -/

theorem warmReset_mode {s : Hw} (live : s.mc.mode ≠ .held) (d : BitVec 16) : (warmReset d s).mc.mode = .cold := by
  unfold warmReset
  split
  · next h => simpa [live] using h
  · exact setMode_mode _ _

/-- Two states of chapter 17 that tell the same of life cycle and debug. -/
structure Security.SameCycle (a b : Security) : Prop where
  bits : a.lcBits = b.lcBits
  result : a.lcResult = b.lcResult
  debug : a.debug = b.debug
  dbgResult : a.dbgResult = b.dbgResult

/-- A warm reset leaves life cycle and debug (R351, R386), and no slot. -/
theorem warmReset_keeps (s : Hw) (d : BitVec 16) : (warmReset d s).sec.SameCycle s.sec ∧
    (s.keys.slots = [] → (warmReset d s).keys.slots = []) := by
  unfold warmReset
  split
  · exact ⟨⟨rfl, rfl, rfl, rfl⟩, id⟩
  · dsimp only
    rw [setMode_sec, note_sec]
    refine ⟨⟨rfl, rfl, rfl, rfl⟩, fun _ => ?_⟩
    unfold setMode
    split <;> simp [warmKeys]

theorem rootReload_resets {s : Hw} (none_selected : rootCode s = .none) :
    rootReload s = warmReset 1 { s with keys := { s.keys with root := .none, rootKey := [] } } := by
  simp [rootReload, none_selected]

theorem rootReload_reads {s : Hw} (selected : rootCode s ≠ .none) : rootReload s = { s with
    sec := { s.sec with fuse := s.sec.fuse ++ (List.range 4).map fun i => (.rootReload i, (rootCode s).fuseWord + i, none) }
    keys := { s.keys with root := .none, rootKey := [] } } := by
  unfold rootReload
  cases h : rootCode s <;> simp_all [fusePush, List.range_succ]

/-- The reload of the root leaves life cycle and debug, and makes no slot. -/
theorem rootReload_keeps (s : Hw) : (rootReload s).sec.SameCycle s.sec ∧
    (s.keys.slots = [] → (rootReload s).keys.slots = []) := by
  by_cases h : rootCode s = .none
  · rw [rootReload_resets h]
    exact warmReset_keeps { s with keys := { s.keys with root := .none, rootKey := [] } } 1
  · rw [rootReload_reads h]
    exact ⟨⟨rfl, rfl, rfl, rfl⟩, id⟩

/-- Which life-cycle states select a root outside Full debug (R241). -/
theorem rootCode_eq_none_iff {s : Hw} (shut : s.sec.debug ≠ .full) :
    rootCode s = .none ↔ lcState s = 0 ∨ lcState s = 5 := by
  unfold rootCode
  rw [if_neg shut]
  unfold lcState
  split_ifs <;> simp

/-! ### Debug (R386, R387) -/

theorem dbgGo_refused {s : Hw} {t : BitVec 2} {r : BitVec 4} (result : dbgResult s t = r) (refused : r ≠ 1) :
    (dbgGo t s).sec = { s.sec with dbgResult := r } := by
  simp [dbgGo, result, show r ≠ 1#4 from refused]

theorem completes_dbgGo_refused {s : State} {p : CtlPort} {t : BitVec 2} {r : BitVec 4} (m : Masters s.hw p)
    (result : dbgResult s.hw t = r) (refused : r ≠ 1) : Completes (.dbgGo p t) s fun h =>
      h.sec.debug = s.hw.sec.debug ∧ h.sec.dbgResult = r := by
  refine completes_cinched (f := dbgGo t) rfl m ?_
  rw [settleAll_sec, dbgGo_refused ((wake_dbgResult s.hw t).trans result) refused]
  exact ⟨wake_debug _, rfl⟩

/-- A block whose DBG_CMD.GO has been accepted. -/
def Hw.dbgAccepted (s : Hw) : Hw := { s with sec := { s.sec with dbgResult := 1 } }

/-- A GO that is accepted and changes the state enters Full, leaves it with a reload of the root, or does neither. -/
theorem dbgGo_accepted {s : Hw} {t : BitVec 2} (result : dbgResult s t = 1) (changes : s.sec.debug ≠ debugOf t) :
    dbgGo t s = if t = 2 then debugFull s.dbgAccepted
      else if s.sec.debug = .full then rootReload (debugSet s.dbgAccepted t) else debugSet s.dbgAccepted t := by
  simp [dbgGo, result, changes, Hw.dbgAccepted]

theorem debugSet_sec (s : Hw) (t : BitVec 2) : (debugSet s t).sec = { s.sec with debug := debugOf t } := note_sec _ _ _ _

theorem debugSet_keys (s : Hw) (t : BitVec 2) : (debugSet s t).keys = s.keys := note_keys _ _ _ _

/-- Entry to Full leaves no key, no root and no curve (R387). -/
theorem debugFull_clears (s : Hw) : (debugFull s).sec = { s.sec with debug := .full } ∧ (debugFull s).keys.slots = [] ∧
    (debugFull s).keys.root = .none ∧ ∀ e ∈ (debugFull s).pkb, e.2.curves = [] := by
  have sec := (zeroizeQuiet_sec (debugSet s 2)).trans (debugSet_sec s 2)
  obtain ⟨slots, root⟩ := zeroizeQuiet_keys (debugSet s 2)
  unfold debugFull
  generalize zeroizeQuiet (debugSet s 2) = cleared at sec slots root ⊢
  refine ⟨sec, slots, root, fun e listed => ?_⟩
  obtain ⟨v, -, rfl⟩ := List.mem_map.mp listed
  rfl

theorem completes_dbgGo_full {s : State} {p : CtlPort} (m : Masters s.hw p) (result : dbgResult s.hw 2 = 1)
    (shut : s.hw.sec.debug ≠ .full) : Completes (.dbgGo p 2) s fun h => (h.sec.debug = .full ∧ h.sec.dbgResult = 1) ∧
      h.keys.slots = [] ∧ h.keys.root = .none ∧ ∀ e ∈ h.pkb, e.2.curves = [] := by
  obtain ⟨sec, slots, root, curves⟩ := debugFull_clears (wake s.hw).dbgAccepted
  refine completes_cinched (f := dbgGo 2) rfl m ?_
  rw [dbgGo_accepted ((wake_dbgResult _ _).trans result) (by rwa [wake_debug]), if_pos rfl, settleAll_sec,
    settleAll_keys_root, settleAll_pkb, sec]
  exact ⟨⟨rfl, rfl⟩, settleAll_no_slots slots, root, curves⟩

theorem completes_dbgGo_diagnostic {s : State} {p : CtlPort} (m : Masters s.hw p) (result : dbgResult s.hw 1 = 1)
    (closed : s.hw.sec.debug = .closed) : Completes (.dbgGo p 1) s fun h =>
      (h.sec.debug = .diagnostic ∧ h.sec.dbgResult = 1) ∧ h.keys.root = s.hw.keys.root ∧ h.sec.fuse = s.hw.sec.fuse := by
  have was : (wake s.hw).sec.debug = .closed := (wake_debug _).trans closed
  refine completes_cinched (f := dbgGo 1) rfl m ?_
  rw [dbgGo_accepted ((wake_dbgResult _ _).trans result) (by rw [was]; decide), if_neg (by decide),
    if_neg (by rw [was]; decide), settleAll_sec, settleAll_keys_root, debugSet_sec, debugSet_keys]
  exact ⟨⟨rfl, rfl⟩, congrArg KeyStore.root (wake_keys _), wake_fuse _⟩

/-- Full is left for Closed (R387): with no root to select a block warm reset starts at once, else the root is read first. -/
theorem debugSet_rootReload {s : Hw} (live : s.mc.mode ≠ .held) :
    ((rootReload (debugSet s 0)).sec.debug = .closed ∧ (rootReload (debugSet s 0)).sec.dbgResult = s.sec.dbgResult) ∧
      (lcState s = 0 ∨ lcState s = 5 → (rootReload (debugSet s 0)).mc.mode = .cold) ∧
      (1 ≤ lcState s → lcState s ≤ 4 → (rootReload (debugSet s 0)).sec.fuse.length = s.sec.fuse.length + 4 ∧
        (rootReload (debugSet s 0)).keys.root = .none) := by
  obtain ⟨⟨-, -, debug, result⟩, -⟩ := rootReload_keeps (debugSet s 0)
  have mode : (debugSet s 0).mc = s.mc := note_mc _ _ _ _
  have sec := debugSet_sec s 0
  generalize debugSet s 0 = closed at debug result mode sec ⊢
  have state : lcState closed = lcState s := lcState_congr (by rw [sec])
  have code := rootCode_eq_none_iff (s := closed) (by rw [sec]; exact (nofun : Debug.closed ≠ .full))
  rw [sec] at debug result
  rw [state] at code
  refine ⟨⟨debug, result⟩, fun absent => ?_, fun low high => ?_⟩
  · rw [rootReload_resets (code.mpr absent)]
    exact warmReset_mode (by rwa [mode]) 1
  · rw [rootReload_reads (mt code.mp (by omega))]
    exact ⟨by simp [sec], rfl⟩

theorem completes_dbgGo_closed {s : State} {p : CtlPort} (m : Masters s.hw p) (result : dbgResult s.hw 0 = 1)
    (full : s.hw.sec.debug = .full) (live : s.hw.mc.mode ≠ .held) : Completes (.dbgGo p 0) s fun h =>
      (h.sec.debug = .closed ∧ h.sec.dbgResult = 1) ∧ (lcState s.hw = 0 ∨ lcState s.hw = 5 → h.mc.mode = .cold) ∧
      (1 ≤ lcState s.hw → lcState s.hw ≤ 4 → h.sec.fuse.length = s.hw.sec.fuse.length + 4 ∧ h.keys.root = .none) := by
  have was : (wake s.hw).sec.debug = .full := (wake_debug _).trans full
  have left := debugSet_rootReload (s := (wake s.hw).dbgAccepted) (by rwa [← wake_mc s.hw] at live)
  rw [lcState_congr (s := s.hw) (h := (wake s.hw).dbgAccepted) (wake_lcBits _)] at left
  refine completes_cinched (f := dbgGo 0) rfl m ?_
  rw [dbgGo_accepted ((wake_dbgResult _ _).trans result) (by rw [was]; decide), if_neg (by decide), if_pos was,
    settleAll_sec, settleAll_mc, settleAll_keys_root, ← wake_fuse s.hw]
  exact left

/-! ### Answers of the fuse array (R218, R385, R387, R439) -/

/-- A block whose oldest fuse operation has been answered. -/
def Hw.fuseRest (s : Hw) (rest : List (FuseWhy × Nat × Option Nat)) : Hw := { s with sec := { s.sec with fuse := rest } }

section
variable {s : Hw} {n : Nat} {blow : Option Nat} {rest : List (FuseWhy × Nat × Option Nat)} (data : Word)

theorem fuseResponse_lifeCycle {t : BitVec 3} {second : Bool} (oldest : s.sec.fuse = (.lifeCycle t second, n, blow) :: rest) :
    fuseResponse data false s = lcBlown (s.fuseRest rest) t second data := by
  simp [fuseResponse, oldest, Hw.fuseRest]

theorem fuseResponse_rootReload {i : Nat} (oldest : s.sec.fuse = (.rootReload i, n, blow) :: rest) :
    fuseResponse data false s = rootWord (s.fuseRest rest) i data := by
  simp [fuseResponse, oldest, Hw.fuseRest]

theorem fuseResponse_floor (oldest : s.sec.fuse = (.floor, n, blow) :: rest) :
    fuseResponse data false s = floorBlown (s.fuseRest rest) (blow.getD 0) data := by
  simp [fuseResponse, oldest, Hw.fuseRest]

end

/-- An answer with an error, and none within the limit, are fatal. -/
theorem fuseFailed_held {s : Hw} (queued : s.sec.fuse ≠ []) (data : Word) :
    ((fuseResponse data true s).mc.mode = .held ∧ (fuseResponse data true s).sec.fuse = []) ∧
      (fuseTimeout s).mc.mode = .held ∧ (fuseTimeout s).sec.fuse = [] := by
  obtain ⟨⟨why, word, blow⟩, rest, fuse⟩ := List.exists_cons_of_ne_nil queued
  have answered : fuseResponse data true s = fuseFatal s (0x8000 ||| BitVec.ofNat 16 word) := by simp [fuseResponse, fuse]
  have missing : fuseTimeout s = fuseFatal s (0x8000 ||| BitVec.ofNat 16 word) := by simp [fuseTimeout, fuse]
  rw [answered, missing]
  exact ⟨fuseFatal_held s _, fuseFatal_held s _⟩

/-- The life-cycle bits once a target's bit is blown (R382). -/
def lcWith (bits : BitVec 5) (t : BitVec 3) : BitVec 5 := bits ||| BitVec.ofNat 5 (2 ^ (t.toNat - 1))

section
variable {s : Hw} {t : BitVec 3} {second : Bool} {data : Word}

theorem lcBlown_wrong
    (wrong : fusePairs data ≠ lcWith s.sec.lcBits t ∨ data.getLsbD (2 * (t.toNat - 1) + second.toNat) = false) :
    lcBlown s t second data = fuseFatal s 0 :=
  if_pos (by simpa [bit, lcWith] using wrong)

/-- Both fuses of a pair are read back as blown one after the other (R385): the second ends the transition, with the key store
zeroized and the root reloaded but on entry to Fielded. -/
theorem lcBlown_right (pairs : fusePairs data = lcWith s.sec.lcBits t)
    (blown : data.getLsbD (2 * (t.toNat - 1) + second.toNat) = true) : lcBlown s t second data =
      let read : Hw := { s with sec := { s.sec with lcBits := lcWith s.sec.lcBits t } }
      if second then
        let moved := note { read with sec := { read.sec with lcResult := 1 } } 0xC9 1 (BitVec.ofNat 16 (lcState read))
        if t = 3 then moved else rootReload (zeroizeQuiet moved)
      else read := by
  unfold lcBlown
  rw [if_neg (by simpa [bit, lcWith] using And.intro pairs blown)]
  cases second <;> rfl

theorem lcBlown_second (pairs : fusePairs data = lcWith s.sec.lcBits t)
    (blown : data.getLsbD (2 * (t.toNat - 1) + true.toNat) = true) :
    (lcBlown s t true data).sec.lcBits = lcWith s.sec.lcBits t ∧ (lcBlown s t true data).sec.lcResult = 1 ∧
      (t = 3 → (lcBlown s t true data).sec.fuse = s.sec.fuse ∧ (lcBlown s t true data).keys = s.keys) ∧
      (t ≠ 3 → (lcBlown s t true data).keys.slots = []) := by
  rw [lcBlown_right pairs blown]
  dsimp only
  rw [if_pos rfl]
  generalize moving : note _ 0xC9 1 _ = moved
  have sec : moved.sec = { s.sec with lcBits := lcWith s.sec.lcBits t, lcResult := 1 } := moving ▸ note_sec _ _ _ _
  have keys : moved.keys = s.keys := moving ▸ note_keys _ _ _ _
  split
  · next fielded => exact ⟨by rw [sec], by rw [sec], fun _ => ⟨by rw [sec], keys⟩, fun other => absurd fielded other⟩
  · next other =>
    obtain ⟨⟨bits, result, -, -⟩, slots⟩ := rootReload_keeps (zeroizeQuiet moved)
    rw [zeroizeQuiet_sec, sec] at bits result
    exact ⟨bits, result, fun fielded => absurd fielded other, fun _ => slots (zeroizeQuiet_keys moved).1⟩

end

theorem popBits_le (w : Word) (lo n : Nat) : popBits w lo n ≤ n := by
  simpa [popBits] using List.length_filter_le (fun i => bit w (lo + i)) (List.range n)

/-- A floor position that reads blown raises the floor, and the next one is blown while the image stands above it (R218). -/
theorem floorBlown_raises {s : Hw} {n : Nat} {data : Word} (blown : data.getLsbD n = true) :
    (floorBlown s n data).ucode.floor.toNat = max s.ucode.floor.toNat (popBits data 16 31) ∧
      (floorBlown s n data).sec.fuse = if (floorBlown s n data).ucode.floor.toNat < (floorBlown s n data).ucode.svn.toNat then
        s.sec.fuse ++ [(.floor, 19, some (16 + (floorBlown s n data).ucode.floor.toNat))] else s.sec.fuse := by
  have count := popBits_le data 16 31
  have fits : max s.ucode.floor.toNat (popBits data 16 31) < 2 ^ 5 := by omega
  have floor : (BitVec.ofNat 5 (max s.ucode.floor.toNat (popBits data 16 31))).toNat =
      max s.ucode.floor.toNat (popBits data 16 31) := by
    rw [BitVec.toNat_ofNat, Nat.mod_eq_of_lt fits]
  unfold floorBlown
  rw [if_neg (by simp [bit, blown])]
  dsimp only
  split
  · next below => exact ⟨floor, (if_pos below).symm⟩
  · next reached =>
    unfold ucNote
    rw [note_ucode, note_sec]
    exact ⟨floor, (if_neg reached).symm⟩

/-- A word of the root joins those that have come. -/
theorem rootWord_joins (s : Hw) {i : Nat} (more : i ≠ 3) (data : Word) :
    rootWord s i data = { s with keys := { s.keys with rootKey := s.keys.rootKey ++ leBytes 8 data.toNat } } := if_neg more

theorem rootTake_mc (s : Hw) (key : Bytes) : (rootTake s key).mc = s.mc := by
  unfold rootTake
  dsimp only
  split <;> rfl

/-- The last word of the root starts a block warm reset. -/
theorem rootWord_resets {s : Hw} (live : s.mc.mode ≠ .held) (data : Word) : (rootWord s 3 data).mc.mode = .cold := by
  have root : rootWord s 3 data = warmReset 1 (rootTake s (s.keys.rootKey ++ leBytes 8 data.toNat)) := rfl
  rw [root]
  exact warmReset_mode (by rwa [rootTake_mc]) 1

end Sys2Proof.Machine

open Sys2Proof Sys2Proof.Machine

/-- Settles O49: each refusal leaves its RESULT alone, an accepted GO queues the blows or changes the debug state, and each
answer of the fuse array takes the oldest operation on or ends in Held. -/
theorem theLifeCycleMoves : Obligations.TheLifeCycleMoves := by
  intro s p target code withArm second err data n i rest c lc t inMode legal armed ends want at_ debug
  refine ⟨fun m => ⟨State.cinched_masters (lcArm p target) m, ?_, ?_, ?_, ?_, ?_, ?_, ?_,
    fun maint => ⟨?_, ?_, ?_, ?_, ?_⟩⟩, fun awake => ?_⟩
  · rintro rfl
    exact completes_lcGo_refused m rfl (by decide)
  · rintro rfl outside
    exact completes_lcGo_refused m ((lcResult_eq _ _ _).trans (if_pos outside)) (by decide)
  · rintro rfl inside full
    refine completes_lcGo_refused m ?_ (by decide)
    rw [lcResult_eq, if_neg (not_not_intro inside), if_pos full]
  · rintro rfl inside shut illegal
    refine completes_lcGo_refused m ?_ (by decide)
    rw [lcResult_eq, if_neg (not_not_intro inside), if_neg shut, if_pos (by rwa [lcAllowed_iff])]
  · rintro rfl inside shut lawful high unarmed
    refine completes_lcGo_refused m ?_ (by decide)
    rw [lcResult_eq, if_neg (not_not_intro inside), if_neg shut, if_neg (by rwa [lcAllowed_iff, not_not]),
      if_pos ⟨high, by rwa [ne_eq, lcArmedNow_iff]⟩]
  · rintro rfl inside shut lawful ready
    have low : ¬(4 ≤ target.toNat ∧ lcArmedNow s.hw ≠ some (target, p)) := by
      rintro ⟨high, unarmed⟩
      rw [ne_eq, lcArmedNow_iff] at unarmed
      exact ready.elim (fun below => absurd high (Nat.not_le.mpr below)) unarmed
    refine completes_lcGo_accepted m ?_
    rw [lcResult_eq, if_neg (not_not_intro inside), if_neg shut, if_neg (by rwa [lcAllowed_iff, not_not]), if_neg low]
  · intro notMaint notFtest
    exact completes_dbgGo_refused m (by simp [dbgResult, notMaint, notFtest]) (by decide)
  · rintro rfl
    exact completes_dbgGo_refused m (by simp [dbgResult, maint]) (by decide)
  · rintro rfl closed
    refine completes_dbgGo_refused m ?_ (by decide)
    rcases closed with h | h | h <;> simp [dbgResult, maint, show lcState s.hw = _ from h]
  · rintro rfl low shut
    refine completes_dbgGo_full m ?_ shut
    rcases low with h | h | h <;> simp [dbgResult, maint, show lcState s.hw = _ from h]
  · rintro rfl closed
    exact completes_dbgGo_diagnostic m (by simp [dbgResult, maint]) closed
  · rintro rfl full
    exact completes_dbgGo_closed m (by simp [dbgResult, maint]) full (by rw [maint]; decide)
  · have completes : ∀ {err : Bool} {P : Hw → Prop}, P (settleAll (fuseResponse data err s.hw)) →
        Completes (.fuseResponse data err) s P := completes_settleAll rfl awake
    have times_out : ∀ {P : Hw → Prop}, P (settleAll (fuseTimeout s.hw)) → Completes .fuseTimeout s P :=
      completes_settleAll rfl awake
    have idle := fun (f : Hw → Hw) (e : f s.hw = s.hw) =>
      (s.work_awake f awake).trans (congrArg (fun h => s.to (settleAll h)) e)
    refine ⟨fun oldest => ⟨fun wrong => completes ?_, fun pairs blown => completes ?_⟩, fun oldest blown => completes ?_,
      fun oldest => ⟨fun more => completes ?_, fun last live => completes ?_⟩,
      fun queued => ⟨fun bad => completes ?_, times_out ?_⟩,
      fun none_queued => idle (fuseResponse data err) (by simp [fuseResponse, show s.hw.sec.fuse = [] from none_queued]),
      fun none_queued bring => times_out ?_, fun none_queued other => idle fuseTimeout ?_⟩
    · rw [fuseResponse_lifeCycle data oldest, lcBlown_wrong (s := s.hw.fuseRest rest) wrong, settleAll_mc, settleAll_sec]
      exact fuseFatal_held _ 0
    · rw [fuseResponse_lifeCycle data oldest, settleAll_sec, settleAll_mc, settleAll_keys_root]
      cases second with
      | false =>
        rw [lcBlown_right (s := s.hw.fuseRest rest) pairs blown]
        exact ⟨rfl, fun _ => ⟨rfl, rfl, rfl⟩, nofun⟩
      | true =>
        obtain ⟨bits, result, fielded, other⟩ := lcBlown_second (s := s.hw.fuseRest rest) pairs blown
        refine ⟨bits, nofun, fun _ => ⟨result, fun three => ?_, fun more => settleAll_no_slots (other ?_)⟩⟩
        · obtain ⟨fuse, keys⟩ := fielded (BitVec.eq_of_toNat_eq three)
          exact ⟨fuse, congrArg KeyStore.root keys⟩
        · rintro rfl
          exact more rfl
    · rw [fuseResponse_floor data oldest, settleAll_sec, settleAll_ucode]
      exact floorBlown_raises (s := s.hw.fuseRest []) blown
    · rw [fuseResponse_rootReload data oldest, rootWord_joins _ more, settleAll_sec, settleAll_keys_rootKey]
      exact ⟨rfl, rfl⟩
    · subst last
      rw [fuseResponse_rootReload data oldest, settleAll_mc]
      exact rootWord_resets (s := s.hw.fuseRest rest) live data
    · subst bad
      rw [settleAll_mc, settleAll_sec]
      exact (fuseFailed_held queued data).1
    · rw [settleAll_mc, settleAll_sec]
      exact (fuseFailed_held queued data).2
    · have none_queued : s.hw.sec.fuse = [] := none_queued
      rw [settleAll_mc]
      simp [fuseTimeout, none_queued, bring, fuseFatal_held]
    · have none_queued : s.hw.sec.fuse = [] := none_queued
      simp [fuseTimeout, none_queued, other]
end

section
namespace Sys2Proof.Machine

/-! ### Work ends, and the key store keeps what it holds but keys and what waits for them -/

/-- A key store with what the end of work writes blanked: reservations of slots, waiting charges, updates and intakes. -/
def KeyStore.lasting (k : KeyStore) : KeyStore :=
  { k with slots := [], charges := [], updates := [], intakeA := {}, intakeB := {}, refusedCnt := 0 }

/-- The end of work, with key store k before and k' after: an empty list stays empty, and the rest stands. -/
structure KeyStore.Drains (k k' : KeyStore) : Prop where
  lasting : k'.lasting = k.lasting
  slots : k.slots = [] → k'.slots = []
  charges : k.charges = [] → k'.charges = []
  updates : k.updates = [] → k'.updates = []

/-- The end of work leaves the mode controller besides. -/
structure Hw.Drains (s h : Hw) : Prop where
  mc : h.mc = s.mc
  keys : s.keys.Drains h.keys

theorem KeyStore.Drains.refl {k : KeyStore} : k.Drains k := ⟨rfl, id, id, id⟩

theorem KeyStore.Drains.trans {k l m : KeyStore} (a : k.Drains l) (b : l.Drains m) : k.Drains m :=
  ⟨b.lasting.trans a.lasting, b.slots ∘ a.slots, b.charges ∘ a.charges, b.updates ∘ a.updates⟩

theorem Hw.Drains.trans {s t u : Hw} (a : s.Drains t) (b : t.Drains u) : s.Drains u :=
  ⟨b.mc.trans a.mc, a.keys.trans b.keys⟩

/-- What touches neither the key store nor the mode controller. -/
theorem Hw.Drains.of_eq {s h : Hw} (mc : h.mc = s.mc) (keys : h.keys = s.keys) : s.Drains h :=
  ⟨mc, keys ▸ KeyStore.Drains.refl⟩

theorem Hw.Drains.refl {s : Hw} : s.Drains s := .of_eq rfl rfl

theorem Hw.Drains.foldl {β : Type} {f : Hw → β → Hw} (h : ∀ (s : Hw) b, s.Drains (f s b)) (l : List β) (s : Hw) :
    s.Drains (l.foldl f s) :=
  List.foldlRecOn l f .refl fun t d b _ => d.trans (h t b)

theorem logRow_keys (s : Hw) (u e : Nat) (d : BitVec 16) (row : EvRow) : (logRow s u e d row).keys = s.keys :=
  (congrArg Hw.keys (logRow_sansLog s u e d row) :)

theorem logRow_mc (s : Hw) (u e : Nat) (d : BitVec 16) (row : EvRow) : (logRow s u e d row).mc = s.mc :=
  (congrArg Hw.mc (logRow_sansLog s u e d row) :)

theorem note_drains (s : Hw) (u e : Nat) (d : BitVec 16) : s.Drains (note s u e d) := .of_eq (note_mc ..) (note_keys ..)

/-- A job takes its own waiting charge with it. -/
theorem releaseJob_charges (s : Hw) (k : Nat) :
    (releaseJob s k).keys.charges = s.keys.charges.filter fun w => w.key != k := by
  have stall : ∀ p, (stallEnd s p k).keys = s.keys := fun p => by unfold stallEnd; split <;> rfl
  unfold releaseJob
  dsimp only
  split
  · split
    · split <;> simp [stall]
    · rfl
  · rfl

theorem releaseJob_drains (s : Hw) (k : Nat) : s.Drains (releaseJob s k) := by
  have same := releaseJob_sansJobs s k
  refine ⟨(congrArg Hw.mc same :), (congrArg (fun h : Hw => h.keys.lasting) same :), fun none_left => ?_, fun none_left => ?_,
    fun none_left => ?_⟩
  · exact releaseJob_no_slots none_left k
  · rw [releaseJob_charges, none_left]
    rfl
  · exact (congrArg (fun h : Hw => h.keys.updates) same :).trans none_left

theorem finish_drains (s : Hw) (k : Nat) (st : BitVec 8) (r : Word) : s.Drains (finish s k st r) :=
  (releaseJob_drains s k).trans (.of_eq rfl rfl)

theorem finishFree_drains (s : Hw) (k : Nat) (st : BitVec 8) : s.Drains (finishFree s k st) :=
  .trans (t := (drawFree s).2) (.of_eq rfl rfl) (finish_drains _ k st _)

theorem stopTransfer_drains (s : Hw) (k : Nat) (j : Job) (st : BitVec 8) : s.Drains (stopTransfer s k j st) := by
  unfold stopTransfer
  split
  · exact finish_drains s k st _
  · exact .of_eq rfl rfl

theorem endJob_drains (s : Hw) (k : Nat) (st : BitVec 8) : s.Drains (endJob s k st) := by
  unfold endJob
  split
  · exact .refl
  · split <;> simp [finish_drains, finishFree_drains, stopTransfer_drains]

theorem endJobs_drains (s : Hw) (c : Nat) (p : Job → Bool) (st : BitVec 8) : s.Drains (endJobs s c p st) :=
  .foldl (fun s (e : Nat × Job) => endJob_drains s e.1 st) _ s

theorem modCtx_drains (s : Hw) (c : Nat) (f : Ctx → Ctx) : s.Drains (s.modCtx c f) := .of_eq rfl rfl

theorem failDs_drains (s : Hw) (c n : Nat) (st : BitVec 8) : s.Drains (failDs s c n st) := by
  unfold failDs
  refine .trans ?_ (endJobs_drains _ c _ st)
  exact modCtx_drains s c _

theorem rgWrite_drains (s : Hw) (c : Nat) (r : Word) (b : Bytes) : s.Drains (rgWrite s c r b) :=
  .of_eq (congrArg Hw.mc (rgWrite_sansJobs s c r b) :) (rgWrite_keys s c r b)

theorem dropHold_drains (s : Hw) (c n : Nat) (st : BitVec 8) : s.Drains (dropHold s c n st) := by
  have zeroed := Hw.Drains.foldl (fun t r => rgWrite_drains t c r (zeros (rgLen r))) ((s.ctx c).cs n).held s
  unfold dropHold
  dsimp only
  generalize List.foldl _ s _ = t at zeroed ⊢
  have released : t.Drains ({ t with cs := { t.cs with
      holds := tmod 0 t.cs.holds (s.ctx c).domain (· - ((s.ctx c).cs n).holdBufs) } }.modCtx c fun x =>
        x.setCs n { x.cs n with held := [], heldBytes := 0, holdBufs := 0, undecided := false }) := .of_eq rfl rfl
  exact ((zeroed.trans released).trans (.foldl (fun t n => failDs_drains t c n st) _ _)).trans (endJobs_drains _ c _ st)

theorem failCs_drains (s : Hw) (c n : Nat) (st : BitVec 8) (lead : Option Nat) : s.Drains (failCs s c n st lead) := by
  unfold failCs
  dsimp only
  refine .trans ?_ (endJobs_drains _ c _ st)
  generalize held : (if ((s.ctx c).cs n).holdBufs != 0 || (((s.ctx c).cs n).undecided && !((s.ctx c).cs n).rel)
      then dropHold s c n st else s) = t
  have dropped : s.Drains t := by
    rw [← held]
    split
    · exact dropHold_drains s c n st
    · exact .refl
  refine dropped.trans ?_
  split
  · split
    · split <;> exact .of_eq rfl rfl
    · exact .of_eq rfl rfl
  · exact .of_eq rfl rfl

theorem endUndecided_drains (s : Hw) (c : Nat) (post : Bool) (st : BitVec 8) : s.Drains (endUndecided s c post st) := by
  have dropped := Hw.Drains.foldl (fun t (e : Nat × CipherStream) => dropHold_drains t c e.1 st)
    ((s.ctx c).cstreams.filter fun e => e.2.undecided && !e.2.rel) s
  unfold endUndecided
  dsimp only
  generalize List.foldl _ s _ = t at dropped ⊢
  split
  · exact dropped
  · split
    · exact dropped
    · exact dropped.trans (.of_eq rfl rfl)

theorem settle_drains (s : Hw) (c : Nat) : s.Drains (settle s c) := by
  unfold settle
  split
  · dsimp only
    generalize ended : endUndecided s c _ _ = t
    have drained : s.Drains t := ended ▸ endUndecided_drains s c _ _
    split
    · exact drained
    · exact drained.trans (.of_eq rfl rfl)
  · exact .refl

theorem settleAll_drains (s : Hw) : s.Drains (settleAll s) := .foldl settle_drains _ s

/-! ### Work that needs keys ends (R254, R257) -/

theorem intakeDone_drains (s : Hw) (p : CtlPort) (st : BitVec 8) (reason : BitVec 4) : s.Drains (intakeDone s p st reason) := by
  cases p <;> exact ⟨rfl, rfl, id, id, id⟩

theorem updTell_drains (s : Hw) (src : UpdSource) (st : BitVec 8) (reason : BitVec 4) (n : Nat) :
    s.Drains (updTell s src st reason n) := by
  unfold updTell
  split
  · exact intakeDone_drains s _ st reason
  · split
    · exact finish_drains s _ st _
    · exact .refl
  · exact .refl
  · exact .refl

/-- A filter of the updates lists none anew. -/
theorem Hw.Drains.of_filter {s : Hw} (p : Update → Bool) :
    s.Drains { s with keys := { s.keys with updates := s.keys.updates.filter p } } :=
  ⟨rfl, rfl, id, id, fun none_left => by simp [none_left]⟩

theorem dropUpd_drains (s : Hw) (id : Nat) : s.Drains (dropUpd s id) := .of_filter _

theorem updRefuse_drains (s : Hw) (u : Update) (st : BitVec 8) (reason : BitVec 4) : s.Drains (updRefuse s u st reason) := by
  have dropped := dropUpd_drains s u.id
  unfold updRefuse
  dsimp only
  generalize dropUpd s u.id = t at dropped ⊢
  refine .trans ?_ (updTell_drains _ u.source st reason 0)
  split
  · exact dropped
  · exact dropped.trans ⟨rfl, rfl, id, id, id⟩

theorem pkCorrect_drains (s : Hw) (u : Nat) (whole : Bool) : s.Drains (pkCorrect s u whole) := by
  unfold pkCorrect
  dsimp only
  split <;> exact .of_eq rfl rfl

theorem segmentBack_drains (s : Hw) (v : PkUnit) : s.Drains (segmentBack s v) := by
  unfold segmentBack
  split <;> exact .of_eq rfl rfl

theorem modPku_drains (s : Hw) (u : Nat) (f : PkUnit → PkUnit) : s.Drains (s.modPku u f) := .of_eq rfl rfl

theorem pkWipe_drains (s : Hw) (u : Nat) : s.Drains (pkWipe s u) := modPku_drains s u _

theorem pkBurnish_drains (s : Hw) (u : Nat) (st : BitVec 8) : s.Drains (pkBurnish s u st) := by
  unfold pkBurnish
  exact .trans (pkWipe_drains s u) (modPku_drains _ u _)

theorem kattDrop_drains (s : Hw) (key : Nat) : s.Drains (kattDrop s key) := .of_eq rfl rfl

theorem ciphFail_drains (s : Hw) (key : Nat) (j : Job) (st : BitVec 8) : s.Drains (ciphFail s key j st) := by
  unfold ciphFail
  dsimp only
  split
  · exact (modCtx_drains s _ _).trans (endJobs_drains _ _ _ st)
  · exact failCs_drains s _ _ st _

theorem chargeFail_drains (s : Hw) (key : Nat) (st : BitVec 8) : s.Drains (chargeFail s key st) := by
  unfold chargeFail
  dsimp only
  refine .trans (t := { s with keys := { s.keys with charges := s.keys.charges.filter fun w => w.key != key } })
    ⟨rfl, rfl, id, fun none_left => by simp [none_left], id⟩ ?_
  split
  · split
    · exact ciphFail_drains _ key _ st
    · exact finishFree_drains _ key st
  · exact .refl

theorem failCharges_drains (s : Hw) (p : Nat → Bool) (st : BitVec 8) : s.Drains (failCharges s p st) :=
  .foldl (fun s (w : ChargeWait) => chargeFail_drains s w.key st) _ s

theorem destroyStreams_drains (s : Hw) : s.Drains (destroyStreams s) := by
  refine .foldl (fun s c => ?_) _ s
  refine .trans ?_ (.foldl (fun s (e : Nat × DigestStream) => failDs_drains s c e.1 stKeyEmpty) _ _)
  exact .foldl (fun s (e : Nat × CipherStream) => failCs_drains s c e.1 stKeyEmpty _) _ s

theorem kattsEnd_drains (s : Hw) : s.Drains (kattsEnd s) := by
  refine .foldl (fun s (e : Nat × Job) => ?_) _ s
  exact (finishFree_drains s e.1 stKeyEmpty).trans (kattDrop_drains _ e.1)

theorem killUnit_drains (s : Hw) (u : Nat) : s.Drains (killUnit s u) := by
  unfold killUnit
  dsimp only
  split
  · exact .refl
  · split
    · exact (pkWipe_drains s u).trans (note_drains ..)
    · refine .trans ?_ (note_drains ..)
      refine .trans ?_ (pkBurnish_drains _ u stKeyEmpty)
      refine .trans ?_ (modPku_drains _ u _)
      refine (pkCorrect_drains s u false).trans ?_
      generalize pkCorrect s u false = t
      split
      · split
        · exact finish_drains _ _ stKeyEmpty 0
        · exact .refl
      · refine .trans ?_ (kattDrop_drains _ _)
        split
        · exact finishFree_drains _ _ stKeyEmpty
        · exact .refl
      · exact segmentBack_drains _ _

/-- Zeroization ends the work that needs keys, and clears the key store (R254). -/
theorem zeroize_eq (s : Hw) : ∃ w, s.Drains w ∧ zeroize s = clearKeys w := by
  have charged := ((destroyStreams_drains s).trans (kattsEnd_drains _)).trans (failCharges_drains _ (fun _ => true) stKeyEmpty)
  unfold zeroize
  dsimp only
  generalize failCharges _ _ stKeyEmpty = t at charged ⊢
  have refused := charged.trans (.foldl (fun s u => updRefuse_drains s u stKeyEmpty 0) t.keys.updates t)
  generalize List.foldl (fun s u => updRefuse s u stKeyEmpty 0) t t.keys.updates = t at refused ⊢
  refine ⟨_, ?_, rfl⟩
  refine .trans ?_ (.foldl killUnit_drains _ _)
  exact refused.trans (.of_eq rfl rfl)

theorem zeroize_sec (s : Hw) : (zeroize s).sec = s.sec := by
  have quiet := zeroizeQuiet_sec s
  rwa [zeroizeQuiet, note_sec] at quiet

theorem zeroize_mc (s : Hw) : (zeroize s).mc = s.mc := by
  obtain ⟨w, drained, eq⟩ := zeroize_eq s
  rw [eq]
  exact drained.mc

/-! ### The entry to Held ends all work (R337) -/

theorem stopWork_drains (s : Hw) (c : Nat) (st : BitVec 8) : s.Drains (stopWork s c st) := by
  have trapless : s.Drains (dropTrap s c) := .of_eq rfl rfl
  have dropped : (dropTrap s c).Drains (dropUpdates (dropTrap s c) c) := .of_filter _
  have discarded : ∀ t : Hw, t.Drains (killPku t c) := fun t => .of_eq rfl rfl
  unfold stopWork
  dsimp only
  refine .trans ?_ (endJobs_drains _ c _ st)
  refine .trans ?_ (.foldl (fun s n => failDs_drains s c n st) _ _)
  exact (trapless.trans dropped).trans (discarded _)

theorem endWithoutRecord_drains (s : Hw) (c : Nat) : s.Drains (endWithoutRecord s c) := by
  unfold endWithoutRecord
  dsimp only
  split
  · exact .refl
  · have stopped : s.Drains (stopWork _ c stAborted) := (modCtx_drains s c fun x => { x with
      noRecord := true, st := .quiescing, hold := .none, rep := none, scrub := [], scrubbing := none }).trans
      (stopWork_drains _ c stAborted)
    generalize stopWork _ c stAborted = t at stopped ⊢
    have dropped := stopped.trans (.foldl (fun s (e : Nat × CipherStream) => dropHold_drains s c e.1 stAborted)
      ((t.ctx c).cstreams.filter fun e => e.2.undecided && !e.2.rel) t)
    generalize List.foldl _ t _ = t at dropped ⊢
    have ended := dropped.trans (endJobs_drains t c (fun _ => true) stAborted)
    generalize endJobs t c _ stAborted = t at ended ⊢
    exact ended.trans (.of_eq rfl rfl)

theorem pkStop_drains (s : Hw) (u : Nat) : s.Drains (pkStop s u) := by
  unfold pkStop
  split
  · exact .refl
  · refine .trans ?_ (pkBurnish_drains _ u stAborted)
    refine .trans ?_ (modPku_drains _ u _)
    exact (pkCorrect_drains s u false).trans (segmentBack_drains _ _)

theorem endAllWork_drains (s : Hw) : s.Drains (endAllWork s) := by
  have ended := Hw.Drains.foldl endWithoutRecord_drains (liveCtxs s) s
  unfold endAllWork
  dsimp only
  generalize List.foldl _ s _ = t at ended ⊢
  have stopped := ended.trans (.foldl pkStop_drains (List.range 16) t)
  rw [← pkStopAll] at stopped
  generalize pkStopAll t = t at stopped ⊢
  exact stopped.trans (.of_eq rfl rfl)

theorem leaveFtest_drains (s : Hw) : s.Drains (leaveFtest s) := by
  unfold leaveFtest
  split <;> exact .of_eq rfl rfl

theorem abandonIntake_drains (s : Hw) (p : CtlPort) : s.Drains (abandonIntake s p) := by
  unfold abandonIntake
  split
  · exact intakeDone_drains s p stAborted 0xD
  · exact .refl

theorem abandonAppr_drains (s : Hw) (p : CtlPort) : s.Drains (abandonAppr s p) := by
  unfold abandonAppr
  split <;> exact .of_eq rfl rfl

theorem dropHolder_drains (s : Hw) (p : CtlPort) : s.Drains (dropHolder s p) := by
  unfold dropHolder
  refine .trans ?_ (abandonAppr_drains _ p)
  refine .trans ?_ (abandonIntake_drains _ p)
  exact .of_eq rfl rfl

theorem breakCinch_drains (s : Hw) (cause : BitVec 3) : s.Drains (breakCinch s cause) := by
  unfold breakCinch
  split
  · exact .refl
  · next p holder =>
    dsimp only
    generalize broken : note (dropHolder _ p) 0x8A 1 = t
    have dropped : s.Drains t := by
      rw [← broken]
      refine .trans ?_ (note_drains ..)
      refine .trans ?_ (dropHolder_drains _ p)
      exact .of_eq rfl rfl
    split
    · exact dropped.trans (.of_eq rfl rfl)
    · exact dropped

theorem setMode_keys (s : Hw) (m : Mode) : (setMode s m).keys = s.keys := by
  unfold setMode
  split
  · rfl
  · exact note_keys ..

theorem enterHeld_drains_keys (s : Hw) : s.keys.Drains (enterHeld s).keys := by
  have ended := (leaveFtest_drains s).trans (endAllWork_drains _)
  unfold enterHeld
  split
  · exact .refl
  · dsimp only
    generalize endAllWork (leaveFtest s) = t at ended ⊢
    have broken := breakCinch_drains (cenEnd t) 4
    rw [note_keys, setMode_keys]
    exact ended.keys.trans broken.keys

/-! ### The kill line (R254 to R257) -/

/-- The key store that a kill leaves of k: cleared, the kill counted, the tamper generation as it was. -/
structure KeyStore.Killed (k k' : KeyStore) : Prop where
  slots : k'.slots = []
  root : k'.root = .none
  zeroized : k'.zeroized = true
  kill : k'.kill = true
  kills : k'.kills = satInc k.kills
  charges : k'.charges = []
  updates : k'.updates = []
  tgen : k'.tgen = k.tgen

/-- The end of work keeps the store cleared. -/
theorem KeyStore.Killed.drains {k l m : KeyStore} (a : k.Killed l) (d : l.Drains m) : k.Killed m :=
  ⟨d.slots a.slots, (congrArg KeyStore.root d.lasting :).trans a.root,
    (congrArg KeyStore.zeroized d.lasting :).trans a.zeroized, (congrArg KeyStore.kill d.lasting :).trans a.kill, (congrArg KeyStore.kills d.lasting :).trans a.kills,
    d.charges a.charges, d.updates a.updates, (congrArg KeyStore.tgen d.lasting :).trans a.tgen⟩

/-- A block whose kill line has asserted (R254). -/
def Hw.killed (s : Hw) : Hw :=
  { s with keys := { s.keys with kill := true, kills := satInc s.keys.kills, stepBusy := true, killAck := false } }

theorem zeroize_killed (s : Hw) : s.keys.Killed (zeroize s.killed).keys ∧ (zeroize s.killed).keys.stepBusy = true ∧
    (zeroize s.killed).keys.killAck = false := by
  obtain ⟨w, drained, eq⟩ := zeroize_eq s.killed
  have lasting := drained.keys.lasting
  rw [eq]
  exact ⟨⟨rfl, rfl, rfl, (congrArg KeyStore.kill lasting :), (congrArg KeyStore.kills lasting :), rfl, rfl,
    (congrArg KeyStore.tgen lasting :)⟩, (congrArg KeyStore.stepBusy lasting :), (congrArg KeyStore.killAck lasting :)⟩

/-- The block that a kill leaves while vdd_core stands: Held, with one step of TGEN to come, or acknowledged when no position
is left (R254, R256). -/
structure KeyStore.KilledTo (k : KeyStore) (h : Hw) : Prop where
  keys : k.Killed h.keys
  mode : h.mc.mode = .held
  stepBusy : h.keys.stepBusy = decide (k.tgen.toNat ≠ 63)
  killAck : h.keys.killAck = decide (k.tgen.toNat = 63)

theorem KeyStore.KilledTo.drains {k : KeyStore} {s h : Hw} (a : k.KilledTo s) (d : s.Drains h) : k.KilledTo h :=
  ⟨a.keys.drains d.keys, by rw [d.mc, a.mode], (congrArg KeyStore.stepBusy d.keys.lasting :).trans a.stepBusy,
    (congrArg KeyStore.killAck d.keys.lasting :).trans a.killAck⟩

theorem killEvent_killedTo (s : Hw) :
    s.keys.KilledTo (killEvent (zeroize s.killed)) ∧ (killEvent (zeroize s.killed)).sec = s.sec := by
  obtain ⟨cleared, busy, ack⟩ := zeroize_killed s
  have sec : (zeroize s.killed).sec = s.sec := zeroize_sec s.killed
  generalize zeroize s.killed = z at cleared busy ack sec ⊢
  have keys : (logRow z 0x81 1 0 rowFatal).keys = z.keys := logRow_keys ..
  have drained := enterHeld_drains_keys (logRow z 0x81 1 0 rowFatal)
  have mode := enterHeld_mode (logRow z 0x81 1 0 rowFatal)
  have same := (enterHeld_sec (logRow z 0x81 1 0 rowFatal)).trans (logRow_sec ..)
  rw [keys] at drained
  unfold killEvent
  rw [raise_fatal rfl]
  generalize enterHeld _ = h at drained mode same ⊢
  have killed := cleared.drains drained
  have busy : h.keys.stepBusy = true := (congrArg KeyStore.stepBusy drained.lasting :).trans busy
  have ack : h.keys.killAck = false := (congrArg KeyStore.killAck drained.lasting :).trans ack
  dsimp only
  split
  · next last =>
    rw [killed.tgen] at last
    exact ⟨⟨⟨killed.slots, killed.root, killed.zeroized, killed.kill, killed.kills, killed.charges, killed.updates,
      killed.tgen⟩, mode, by simp [last], by simp [last]⟩, same.trans sec⟩
  · next more =>
    rw [killed.tgen] at more
    exact ⟨⟨killed, mode, by simp [more, busy], by simp [more, ack]⟩, same.trans sec⟩

/-- A kill while the line is low (R254, R257). -/
theorem killLine_asserts {s : Hw} (por : s.mc.por = false) (on : s.sec.power ≠ .off) (unkilled : s.keys.kill = false) :
    killLine s = if s.sec.power = .retention then
        { zeroize s.killed with keys := { (zeroize s.killed).keys with killLate := true } }
      else killEvent (zeroize s.killed) := by
  unfold killLine Hw.killed
  rw [if_neg (by simp [por, on, unkilled])]
  dsimp only
  rw [zeroize_sec]

/-- A kill with vdd_core up (R254, R256). -/
theorem killLine_run {s : Hw} (por : s.mc.por = false) (run : s.sec.power = .run) (unkilled : s.keys.kill = false) :
    s.keys.KilledTo (killLine s) ∧ (killLine s).sec = s.sec := by
  rw [killLine_asserts por (by simp [run]) unkilled, if_neg (by simp [run])]
  exact killEvent_killedTo s

/-- A kill in Retention clears the store, and its event waits for vdd_core (R257). -/
theorem killLine_retention {s : Hw} (por : s.mc.por = false) (off : s.sec.power = .retention) (unkilled : s.keys.kill = false) :
    s.keys.Killed (killLine s).keys ∧ (killLine s).keys.killLate = true ∧ (killLine s).mc = s.mc := by
  have mc : (zeroize s.killed).mc = s.mc := zeroize_mc s.killed
  obtain ⟨⟨slots, root, zeroized, kill, kills, charges, updates, tgen⟩, -, -⟩ := zeroize_killed s
  rw [killLine_asserts por (by simp [off]) unkilled, if_pos off]
  generalize zeroize s.killed = z at *
  exact ⟨⟨slots, root, zeroized, kill, kills, charges, updates, tgen⟩, rfl, mc⟩

/-! ### Detectors (R398) -/

/-- A trip is logged and counted. -/
structure Hw.Trips (s h : Hw) (n : Nat) : Prop where
  trip : h.sec.trips.getLsbD n = true
  count : tget 0 h.sec.tripCnt n = satInc (tget 0 s.sec.tripCnt n)

section
variable (s : Hw) (n : Nat) (data : BitVec 16) (cls : BitVec 2)

theorem detectorNote_sec : (detectorNote s n data cls).sec = { s.sec with
    trips := s.sec.trips ||| BitVec.ofNat 6 (2 ^ n), tripCnt := tmod 0 s.sec.tripCnt n satInc } := logRow_sec ..

@[simp] theorem detectorNote_mc : (detectorNote s n data cls).mc = s.mc := logRow_mc ..

@[simp] theorem detectorNote_keys : (detectorNote s n data cls).keys = s.keys := logRow_keys ..

@[simp] theorem detectorNote_power : (detectorNote s n data cls).sec.power = s.sec.power := by rw [detectorNote_sec]

end

theorem detectorNote_trips (s : Hw) {n : Nat} (hn : n < 6) (data : BitVec 16) (cls : BitVec 2) :
    s.Trips (detectorNote s n data cls) n := by
  have bit : (BitVec.ofNat 6 (2 ^ n)).getLsbD n = true := by
    rw [BitVec.getLsbD_ofNat, Nat.testBit_two_pow_self, Bool.and_true, decide_eq_true hn]
  constructor <;> rw [detectorNote_sec]
  · rw [BitVec.getLsbD_or, bit, Bool.or_true]
  · exact tget_tmod 0 s.sec.tripCnt n satInc

theorem Hw.Trips.of_sec {s h g : Hw} {n : Nat} (t : s.Trips h n) (sec : g.sec = h.sec) : s.Trips g n :=
  ⟨sec ▸ t.trip, sec ▸ t.count⟩

/-- The trip of a detector that kills, while the kill line is low. -/
theorem detectorNote_kills {s : Hw} {n : Nat} (hn : n < 6) (data : BitVec 16) (por : s.mc.por = false)
    (run : s.sec.power = .run) (unkilled : s.keys.kill = false) :
    s.keys.KilledTo (killLine (detectorNote s n data 2)) ∧ s.Trips (killLine (detectorNote s n data 2)) n := by
  obtain ⟨killed, sec⟩ := killLine_run (s := detectorNote s n data 2) (by simpa) (by simpa) (by simpa)
  rw [detectorNote_keys] at killed
  exact ⟨killed, (detectorNote_trips s hn data 2).of_sec sec⟩

/-- Detectors 1 to 5 act, 5 unless the sensors are fenced (R398). -/
structure DetectorActs (s : Hw) (n : Nat) : Prop where
  low : 1 ≤ n
  high : n ≤ 5
  sensors : n = 5 → s.fenced 0xC8 = false

/-- What such a detector's trip does while the block runs (R398). -/
theorem detectorTrip_acts {s : Hw} {n : Nat} (run : s.sec.power = .run) (acts : DetectorActs s n) (data : BitVec 16) :
    detectorTrip n data s =
      if ¬(lcState s = 2 ∨ lcState s = 3) then detectorNote s n data 0
      else if detectorKills s n = true then
        if s.keys.kill = true then detectorNote s n data 2 else killLine (detectorNote s n data 2)
      else if n = 4 then enterHeld (detectorNote s n data 3)
      else detectorNote s n data 0 := by
  obtain ⟨low, high, sensors⟩ := acts
  have live : ¬6 ≤ n ∧ (n = 5 → s.fenced 0xC8 = false) := ⟨by omega, sensors⟩
  unfold detectorTrip
  dsimp only
  rw [if_neg (by simpa [run] using live), if_neg (by omega)]
  exact if_congr (by simp) rfl rfl

theorem detectorTrip_absent {s : Hw} {n : Nat} (absent : 6 ≤ n ∨ n = 5 ∧ s.fenced 0xC8 = true) (data : BitVec 16) :
    detectorTrip n data s = s := by
  unfold detectorTrip
  exact if_pos (by rcases absent with h | ⟨rfl, h⟩ <;> simp [h])

/-! ### The tamper generation (R256) -/

/-- A block whose step of TGEN has been taken, and the kill line acknowledged (R256). -/
def Hw.stepped (s : Hw) : Hw :=
  note { s with keys := { s.keys with tgen := s.keys.tgen + 1, stepBusy := false, killAck := true } } 0x81 2

theorem Hw.stepped_keys (s : Hw) :
    s.stepped.keys = { s.keys with tgen := s.keys.tgen + 1, stepBusy := false, killAck := true } := note_keys ..

theorem Hw.stepped_mc (s : Hw) : s.stepped.mc = s.mc := note_mc ..

theorem Hw.stepped_sec (s : Hw) : s.stepped.sec = s.sec := note_sec ..

theorem scrapped_records (s : Hw) : lcState (scrapped s) = 5 ∧ (scrapped s).mc = s.mc ∧
    (scrapped s).keys = { s.keys with root := .none, rootKey := [] } := by
  have top : (s.sec.lcBits ||| 16).getLsbD 4 = true := by simp
  refine ⟨?_, note_mc .., note_keys ..⟩
  unfold scrapped lcState
  rw [note_sec]
  exact if_pos top

section
variable {s : Hw} (por : s.mc.por = false) (run : s.sec.power = .run) (due : s.keys.stepBusy = true)
  (left : s.keys.tgen.toNat < 63)
include por run due left

/-- A position that does not read blown is fatal, and nothing is acknowledged (R352). -/
theorem tgenStep_unblown {back : Word} (unblown : back.getLsbD s.keys.tgen.toNat = false) :
    (tgenStep back s).mc.mode = .held ∧ (tgenStep back s).keys.tgen = s.keys.tgen ∧
      (tgenStep back s).keys.stepBusy = true := by
  have fatal : tgenStep back s = enterHeld (logRow s 0xC9 0x40 0 rowFatal) := by
    unfold tgenStep
    rw [if_neg (by simp [por, run, due]; omega), if_pos (by simp [bit, unblown])]
    exact raise_fatal rfl 0
  have keys : (logRow s 0xC9 0x40 0 rowFatal).keys = s.keys := logRow_keys ..
  have lasting := (enterHeld_drains_keys (logRow s 0xC9 0x40 0 rowFatal)).lasting
  rw [keys] at lasting
  rw [fatal]
  exact ⟨enterHeld_mode _, (congrArg KeyStore.tgen lasting :), (congrArg KeyStore.stepBusy lasting :).trans due⟩

/-- A position that reads blown acknowledges the kill line, and the last one records Scrapped. -/
theorem tgenStep_blown {back : Word} (blown : back.getLsbD s.keys.tgen.toNat = true) :
    tgenStep back s = if s.keys.tgen.toNat = 62 then scrapped s.stepped else s.stepped := by
  have last : (s.keys.tgen + 1).toNat = 63 ↔ s.keys.tgen.toNat = 62 := by bv_omega
  unfold tgenStep
  rw [if_neg (by simp [por, run, due]; omega), if_neg (by simp [bit, blown])]
  exact if_congr (by rw [note_keys]; exact last) rfl rfl

end

/-! ### The commands -/

/-- An event that takes effect completes with its effect settled. -/
theorem completes_events {i : Instr} {s : State} {f : Hw → Hw} {h : Hw} {P : Hw → Prop} (e : exec i s = s.events f)
    (effect : f s.hw = h) (p : P (settleAll h)) : Completes i s P := completes_of_to e (effect ▸ p)

theorem exec_killLine (s : State) : exec .killLine s = s.events killPin := rfl

theorem exec_detectorTrip {s : State} (por : s.hw.mc.por = false) (run : s.hw.sec.power = .run) (d : BitVec 3)
    (data : BitVec 16) : exec (.detectorTrip d data) s = s.events (detectorTrip d.toNat data) := by
  change execDetectorTrip d data s = _
  simp [execDetectorTrip, State.always, State.does, State.events, State.to, por, run]

theorem detectorTrip_zero {s : Hw} (data : BitVec 16) : detectorTrip 0 data s = killPin s := by simp [detectorTrip]

/-- KILL_LINE while the line is low is the trip of detector 0 (R254, R398). -/
theorem killPin_asserts {s : Hw} (por : s.mc.por = false) (on : s.sec.power ≠ .off) (unkilled : s.keys.kill = false) :
    killPin s = killLine (detectorNote s 0 0 2) := if_neg (by simp [por, on, unkilled])

theorem killPin_asserted {s : Hw} (killed : s.keys.kill = true) : killPin s = s := if_pos (by simp [killed])

end Sys2Proof.Machine

open Sys2Proof Sys2Proof.Machine

/-- Settles O51: a kill is `KilledTo` or, in Retention, `killLine_retention`; each other trip is `detectorTrip_acts` or
`detectorTrip_absent`, and a step of TGEN is read back blown or not. -/
theorem theKillLineClears : Obligations.TheKillLineClears := by
  intro s d data back k n lc inUse count cleared kills counts
  refine ⟨fun por run => ?_, fun por retained unkilled => ?_, fun killed => congrArg s.to (if_pos killed),
    fun unkilled => congrArg s.to (if_neg (by simpa using unkilled))⟩
  · have trip := exec_detectorTrip por run d data
    have on : s.hw.sec.power ≠ .off := by rw [run]; decide
    have held : ∀ {i : Instr} {f : Hw → Hw} {m : Nat} {e : BitVec 16}, k.kill = false → m < 6 → exec i s = s.events f →
        f s.hw = killLine (detectorNote s.hw m e 2) → kills i m := by
      intro i f m e unkilled low event asserts
      obtain ⟨killed, trips⟩ := detectorNote_kills low e por run unkilled
      obtain ⟨⟨slots, root, zeroized, kill, kills, charges, updates, tgen⟩, mode, busy, ack⟩ :=
        killed.drains (settleAll_drains _)
      obtain ⟨tripped, counted⟩ := trips.of_sec (settleAll_sec _)
      exact completes_events event asserts
        ⟨⟨slots, root, zeroized, kill, kills, charges, updates⟩, ⟨tripped, counted⟩, mode, busy, ack, tgen⟩
    have counted : n < 6 → detectorTrip n data s.hw = detectorNote s.hw n data 0 → counts := by
      intro low noted
      obtain ⟨tripped, counted⟩ := (detectorNote_trips s.hw low data 0).of_sec (settleAll_sec _)
      exact completes_events trip noted ⟨⟨tripped, counted⟩, by simp, by simp [k], by simp [k]⟩
    refine ⟨fun unkilled => ⟨?_, fun zero => ?_, fun used low high sensors acts => ?_⟩, fun killed => ?_,
      fun used four silent => ?_, fun used which silent => ?_, fun unused low which => ?_, fun absent => ?_,
      fun due left unblown => ?_, fun due left blown => ?_, fun idle => ?_⟩
    · exact held unkilled (by decide) (exec_killLine s) (killPin_asserts por on unkilled)
    · subst zero
      exact held unkilled (by decide) trip ((detectorTrip_zero data).trans (killPin_asserts por on unkilled))
    · have effect := detectorTrip_acts run ⟨low, high, sensors⟩ data
      rw [if_neg (not_not_intro used), if_pos acts, if_neg (by simpa using unkilled)] at effect
      exact (held unkilled (by omega) trip effect).mono fun h ⟨clear, counts, mode, _⟩ => ⟨clear, counts, mode⟩
    · rw [exec_killLine, State.events, killPin_asserted killed]
      rfl
    · have effect := detectorTrip_acts run (n := n) ⟨by omega, by omega, by omega⟩ data
      rw [if_neg (not_not_intro used), if_neg (by simpa using silent), if_pos four] at effect
      obtain ⟨tripped, counted⟩ := (detectorNote_trips s.hw (n := n) (by omega) data 3).of_sec
        ((settleAll_sec _).trans (enterHeld_sec _))
      have lasting := (enterHeld_drains_keys (detectorNote s.hw n data 3)).lasting
      rw [detectorNote_keys] at lasting
      refine completes_events trip effect ⟨⟨tripped, counted⟩, ?_, ?_⟩
      · rw [settleAll_mc, enterHeld_mode]
      · rw [settleAll_keys_kill]
        exact (congrArg KeyStore.kill lasting :)
    · have acting : DetectorActs s.hw n := ⟨by omega, by omega, fun five => by simpa [five] using which⟩
      refine counted (by omega) ((detectorTrip_acts run acting data).trans ?_)
      rw [if_neg (not_not_intro used), if_neg (by simpa using silent), if_neg (by omega)]
    · have acting : DetectorActs s.hw n := ⟨low, by omega, fun five => by simpa [five] using which⟩
      exact counted (by omega) ((detectorTrip_acts run acting data).trans (if_pos unused))
    · rw [trip, State.events, detectorTrip_absent absent]
      rfl
    · exact completes_of_to rfl (tgenStep_unblown por run due left unblown)
    · refine completes_of_to rfl ?_
      rw [tgenStep_blown por run due left blown]
      split
      · next last =>
        obtain ⟨state, mc, keys⟩ := scrapped_records s.hw.stepped
        rw [mc, keys, Hw.stepped_keys, Hw.stepped_mc]
        exact ⟨rfl, rfl, rfl, rfl, fun _ => ⟨state, rfl⟩, fun more => absurd last more⟩
      · next more =>
        rw [Hw.stepped_keys, Hw.stepped_mc, Hw.stepped_sec]
        exact ⟨rfl, rfl, rfl, rfl, fun last => absurd last more, fun _ => ⟨rfl, rfl⟩⟩
    · exact congrArg s.to (if_pos (by simp [show s.hw.keys.stepBusy = false from idle]))
  · have on : s.hw.sec.power ≠ .off := by rw [retained]; decide
    obtain ⟨killed, late, mc⟩ := killLine_retention (s := detectorNote s.hw 0 0 2) (by simpa) (by simpa) (by simpa)
    rw [detectorNote_keys] at killed
    rw [detectorNote_mc] at mc
    obtain ⟨slots, root, zeroized, kill, kills, charges, updates, -⟩ := killed.drains (settleAll_drains _).keys
    refine completes_events (exec_killLine s) (killPin_asserts por on unkilled)
      ⟨⟨slots, root, zeroized, kill, kills, charges, updates⟩, ?_, ?_⟩
    · rw [settleAll_keys_killLate, late]
    · rw [settleAll_mc, mc]
end

section
namespace Sys2Proof.Machine

open Sys2Proof.Tests

/-- A SET_ATTR that makes wide slot 0x10000 a tack slot: NEW_ATTR has PERSIST and TACK. -/
def tackMessage : Bytes := (msg kSetAttr 0 0x10000).take 72 ++ leBytes 8 (putb 30 true ||| putb 31 true).toNat ++ zeros 16

/-- A block whose port CTLA has it staged, while every wide tack index stands for another slot. -/
def tacksTaken : Hw := { updating .staging tackMessage with
  kp := { full.kp with
    bytes := listed (tackDirAddr 512) ((List.range 32).flatMap fun i => tackDirEntry true 0 (0x10001 + i)) } }

/-- A record with no place has no writes (`recordSteps`), and an update without writes stays as it was (`updNext`). -/
theorem tacksTaken_stays :
    after (.updateStaged 31) (st tacksTaken) (fun h => h.keys.updates.all fun u => u.stage = .staging) = true := by
  decide +kernel

end Sys2Proof.Machine

open Sys2Proof Sys2Proof.Machine Sys2Proof.Tests

/-- Refutes O44: an update that is staged is to begin its keeper writes, but one that makes its slot a tack slot has none to
make where no tack index is free, and it stays in staging. Check 7 asks for a free index earlier; a slot copied from another
block, which that check does not see (`sharedChecks`), can take the last one after it. -/
theorem not_keyUpdatesRunTheirStages : ¬Obligations.KeyUpdatesRunTheirStages := by
  intro all
  obtain ⟨-, stages, -⟩ := all (st tacksTaken) .ctla 31 (upd .staging tackMessage) 0 0 0 { op := .join } 0
  have awake : tacksTaken.inert = false := by decide +kernel
  have settled : tacksTaken.Settled := settled_of (by decide +kernel)
  obtain ⟨-, staged, -⟩ := stages ⟨awake, settled, rfl, rfl, rfl⟩ rfl
  obtain ⟨-, passes⟩ := staged rfl rfl fun _ => by decide +kernel
  have serves : drbgServes tacksTaken = true := by decide +kernel
  refine not_completes_of_after tacksTaken_stays (fun h stays => ?_)
    (passes _ _ _ rfl (by decide +kernel) (by decide +kernel) (.inr (.inr serves)))
  rintro ⟨-, -, -, y, updates, writing, -⟩
  simp [updates, writing] at stays
end

section
namespace Sys2Proof.Machine

/-! ### What stands while work ends (R333, R337) -/

/-- The block with all blanked that the end of requests writes: contexts, jobs, what they hold and wait for, and the units that
serve them. -/
def Hw.standing (s : Hw) : Hw :=
  { s with
    ctxs := [], jobs := [], trapq := {}, cs := {}, pairs := [], pkb := [], pku := [], keys := s.keys.lasting, freeCount := 0
    rm := { s.rm with ready := [] }, hns := { s.hns with forwards := [], arrivals := [] } }

theorem standing_of_sansJobs {s t : Hw} (h : s.sansJobs = t.sansJobs) : s.standing = t.standing := (congrArg Hw.standing h :)

theorem Hw.mc_of_standing {s t : Hw} (h : s.standing = t.standing) : s.mc = t.mc := (congrArg Hw.mc h :)

theorem Hw.flt_of_standing {s t : Hw} (h : s.standing = t.standing) : s.flt = t.flt := (congrArg Hw.flt h :)

theorem Hw.ward_of_standing {s t : Hw} (h : s.standing = t.standing) : s.ward = t.ward := (congrArg Hw.ward h :)

theorem Hw.block_of_standing {s t : Hw} (h : s.standing = t.standing) : s.hns.block = t.hns.block :=
  (congrArg (fun u : Hw => u.hns.block) h :)

theorem updTell_standing (s : Hw) (src : UpdSource) (st : BitVec 8) (reason : BitVec 4) (n : Nat) :
    (updTell s src st reason n).standing = s.standing := by
  unfold updTell
  split
  · next p => cases p <;> rfl
  · split
    · exact standing_of_sansJobs (finish_sansJobs ..)
    · rfl
  · rfl
  · rfl

theorem updRefuse_standing (s : Hw) (u : Update) (st : BitVec 8) (reason : BitVec 4) :
    (updRefuse s u st reason).standing = s.standing := by
  unfold updRefuse
  refine (updTell_standing ..).trans ?_
  split <;> rfl

theorem stopWork_standing (s : Hw) (c : Nat) (st : BitVec 8) : (stopWork s c st).standing = s.standing := by
  unfold stopWork
  dsimp only
  refine (standing_of_sansJobs (endJobs_sansJobs ..)).trans ?_
  exact foldl_keeps Hw.standing _ (fun t n => standing_of_sansJobs (failDs_sansJobs t c n st)) _ _

theorem endWithoutRecord_standing (s : Hw) (c : Nat) : (endWithoutRecord s c).standing = s.standing := by
  unfold endWithoutRecord
  dsimp only
  split
  · rfl
  · generalize stopped : stopWork _ c stAborted = t
    have kept : t.standing = s.standing := stopped ▸ stopWork_standing _ c stAborted
    have dropped := (foldl_keeps Hw.standing (fun t (e : Nat × CipherStream) => dropHold t c e.1 stAborted)
      (fun t e => standing_of_sansJobs (dropHold_sansJobs t c e.1 stAborted))
      ((t.ctx c).cstreams.filter fun e => e.2.undecided && !e.2.rel) t).trans kept
    generalize List.foldl _ t _ = u at dropped ⊢
    have ended := (standing_of_sansJobs (endJobs_sansJobs u c (fun _ => true) stAborted)).trans dropped
    generalize endJobs u c _ stAborted = v at ended ⊢
    exact ended

theorem modPku_standing (s : Hw) (u : Nat) (f : PkUnit → PkUnit) : (s.modPku u f).standing = s.standing := rfl

theorem pkBurnish_standing (s : Hw) (u : Nat) (st : BitVec 8) : (pkBurnish s u st).standing = s.standing := by
  unfold pkBurnish pkWipe
  exact (modPku_standing _ u _).trans (modPku_standing s u _)

theorem pkStop_standing (s : Hw) (u : Nat) : (pkStop s u).standing = s.standing := by
  have corrected : (pkCorrect s u false).standing = s.standing := by
    unfold pkCorrect
    dsimp only
    split <;> rfl
  have back : (segmentBack (pkCorrect s u false) (s.pkUnit u)).standing = s.standing := by
    unfold segmentBack
    split <;> exact corrected
  unfold pkStop
  split
  · rfl
  · exact ((pkBurnish_standing _ u stAborted).trans (modPku_standing _ u _)).trans back

theorem endAllWork_standing (s : Hw) : (endAllWork s).standing = s.standing := by
  have stopped := foldl_keeps Hw.standing pkStop pkStop_standing (List.range 16) ((liveCtxs s).foldl endWithoutRecord s)
  have ended := stopped.trans (foldl_keeps Hw.standing endWithoutRecord endWithoutRecord_standing (liveCtxs s) s)
  unfold endAllWork pkStopAll
  dsimp only
  generalize List.foldl pkStop _ _ = t at ended ⊢
  rw [← ended]
  rfl

/-! ### What a change of mode leaves -/

theorem setMode_mc (s : Hw) (m : Mode) : (setMode s m).mc = { s.mc with mode := m } := by
  unfold setMode
  split
  · next same => rw [← same]
  · exact note_mc ..

theorem setMode_hns (s : Hw) (m : Mode) : (setMode s m).hns = s.hns := by
  unfold setMode
  split
  · rfl
  · exact note_hns ..

theorem setMode_pairs (s : Hw) (m : Mode) : (setMode s m).pairs = s.pairs := by
  unfold setMode
  split
  · rfl
  · exact note_pairs ..

theorem setMode_rm (s : Hw) (m : Mode) : (setMode s m).rm = s.rm := (setMode_ctxs_rm s m).2

theorem setMode_clk (s : Hw) (m : Mode) : (setMode s m).clk = s.clk := (setMode_keeps s m).2.2

/-! ### A keeper write changes the keeper port alone -/

/-- The block with the keeper port blanked. -/
def Hw.sansKp (s : Hw) : Hw := { s with kp := {} }

theorem kpPump_sansKp (n : Nat) (s : Hw) : (kpPump n s).sansKp = s.sansKp := by
  induction n generalizing s with
  | zero => rfl
  | succ n ih =>
    unfold kpPump
    split
    · exact ih _
    · split <;> exact ih _
    · exact ih _
    · rfl

theorem kpWrite_sansKp (s : Hw) (cls addr : Nat) (data : Bytes) (why : KpWhy) :
    (kpWrite s cls addr data why).sansKp = s.sansKp := by
  unfold kpWrite
  split
  · exact kpPump_sansKp _ _
  · rfl

theorem timeWrite_sansKp (s : Hw) : (timeWrite s).sansKp = s.sansKp := by
  unfold timeWrite
  dsimp only
  split
  · rfl
  · exact kpWrite_sansKp _ 2 _ _ .time

end Sys2Proof.Machine
end

section
namespace Sys2Proof.Machine

/-! ### Power-on reset (R323, R449) -/

/-- Whichever writes under way have landed, a byte outside them stands, and the port has none left. -/
theorem kpScatter_bytes (s : Hw) (a : Nat) (outside : ∀ w ∈ s.kp.out, a < w.addr ∨ w.addr + w.data.length ≤ a) :
    mget (kpScatter s).kp.bytes a = mget s.kp.bytes a := by
  unfold kpScatter
  refine foldl_keeps_mem (fun t : Hw => mget t.kp.bytes a) _ s.kp.out (fun w listed t => ?_)
    { s with kp := { s.kp with waiting := [], out := [] } }
  dsimp only
  split
  · exact mget_mwrite_outside _ _ _ _ (outside w listed)
  · rfl

theorem kpScatter_mc (s : Hw) : (kpScatter s).mc = s.mc := by
  unfold kpScatter
  refine foldl_keeps Hw.mc _ (fun t w => ?_) s.kp.out { s with kp := { s.kp with waiting := [], out := [] } }
  dsimp only
  split <;> rfl

theorem kpScatter_flt (s : Hw) : (kpScatter s).flt = s.flt := by
  unfold kpScatter
  refine foldl_keeps Hw.flt _ (fun t w => ?_) s.kp.out { s with kp := { s.kp with waiting := [], out := [] } }
  dsimp only
  split <;> rfl

/-! ### Seal from a warning (R323, R332, R333) -/

theorem leaveFtest_hns (s : Hw) : (leaveFtest s).hns = s.hns := by
  unfold leaveFtest
  split <;> rfl

theorem wake_hns (s : Hw) : (wake s).hns = s.hns := by
  unfold wake
  split
  · exact note_hns ..
  · rfl

theorem endAllWork_mc (s : Hw) : (endAllWork s).mc = s.mc := (endAllWork_drains s).mc

theorem endAllWork_block (s : Hw) : (endAllWork s).hns.block = s.hns.block := Hw.block_of_standing (endAllWork_standing s)

theorem sealIntake_standing (s : Hw) : (sealIntake s).standing = s.standing :=
  foldl_keeps Hw.standing _ (fun t u => updRefuse_standing t u stAborted 0xD) _ s

theorem sealIntake_mc (s : Hw) : (sealIntake s).mc = s.mc := Hw.mc_of_standing (sealIntake_standing s)

theorem sealIntake_block (s : Hw) : (sealIntake s).hns.block = s.hns.block := Hw.block_of_standing (sealIntake_standing s)

theorem leaveFtest_mc (s : Hw) : (leaveFtest s).mc = s.mc := (leaveFtest_drains s).mc

/-- Seal is entered for a reason; the block stays released or not, and keeps its number. -/
theorem sealEnter_seals (src : BitVec 2) (s : Hw) : (sealEnter src s).mc.mode = .seal ∧ (sealEnter src s).mc.sealSrc = src ∧
    (sealEnter src s).mc.por = s.mc.por ∧ (sealEnter src s).hns.block = s.hns.block := by
  have hns := (leaveFtest_hns (wake s)).trans (wake_hns s)
  have por : (leaveFtest (wake s)).mc.por = s.mc.por := by rw [leaveFtest_mc, wake_mc]
  unfold sealEnter
  dsimp only
  generalize leaveFtest (wake s) = t at hns por ⊢
  generalize moved : setMode { t with
    mc := { t.mc with
      sealSrc := src, sealed := false, sealLate := false, sealAt := t.clk.core, sealWrites := 0, draining := false }
    sec := { t.sec with power := .run, retReady := false, sealAck := false } } .seal = m
  have mc : m.mc.mode = .seal ∧ m.mc.sealSrc = src ∧ m.mc.por = t.mc.por := by
    rw [← moved, setMode_mc]
    exact ⟨rfl, rfl, rfl⟩
  have block : m.hns = t.hns := by rw [← moved, setMode_hns]
  have endedMc : (sealIntake (cenEnd (endAllWork (note m 0x8B 3)))).mc = m.mc := by
    simp [sealIntake_mc, cenEnd, endAllWork_mc]
  have endedBlock : (sealIntake (cenEnd (endAllWork (note m 0x8B 3)))).hns.block = m.hns.block := by
    simp [sealIntake_block, cenEnd, endAllWork_block]
  generalize sealIntake (cenEnd (endAllWork (note m 0x8B 3))) = e at endedMc endedBlock ⊢
  have written := timeWrite_sansKp { e with
    ucode := { e.ucode with verifying := false }
    kp := { e.kp with waiting := e.kp.waiting.filter fun w => !sealDrops w } }
  generalize timeWrite _ = h at written ⊢
  have same : h.mc = m.mc := (congrArg Hw.mc written :).trans endedMc
  have kept : h.hns.block = m.hns.block := (congrArg (fun u : Hw => u.hns.block) written :).trans endedBlock
  obtain ⟨mode, reason, released⟩ := mc
  rw [same, kept, block, hns]
  exact ⟨mode, reason, released.trans por, rfl⟩

/-! ### The release (R255, R327, R404, R454) -/

/-- The block at its release, before the kill line and the warning are acted on: the tie-offs stand, and the fuses come next. -/
def Hw.released (s : Hw) (block : BitVec 3) (idcode : BitVec 32) : Hw := { s with
  sec := { s.sec with coreGood := true }
  mc := { s.mc with por := false, bring := { s.mc.bring with phase := .fuses, startedAt := s.clk.core } }
  hns := { s.hns with block := block, idcode := idcode } }

/-- The release while the kill line is low steps from a free generation. -/
theorem porRelease_kill {s : Hw} (por : s.mc.por = true) (run : s.sec.power = .run) (block : BitVec 3) (idcode : BitVec 32) :
    porRelease block idcode true s = killPin { s.released block idcode with
      freeCount := s.freeCount + 1
      keys := { s.keys with tgen := (Config.freeWord s.freeCount).setWidth 6 } } := by
  unfold porRelease
  rw [if_neg (by simp [por, run])]
  rfl

/-- The release while it is high acts on a power-fail warning that stands. -/
theorem porRelease_high {s : Hw} (por : s.mc.por = true) (run : s.sec.power = .run) (block : BitVec 3) (idcode : BitVec 32) :
    porRelease block idcode false s =
      if s.mc.pfw then sealWarned (s.released block idcode) else s.released block idcode := by
  unfold porRelease
  rw [if_neg (by simp [por, run])]
  rfl

/-! ### The fuses (R241, R327, R382, R438) -/

/-- A number summed from powers of two has the bits that were summed. -/
theorem sumBits_getLsbD (f : Nat → Bool) {i : Nat} (low : i < 5) :
    (BitVec.ofNat 5 ((List.range 5).foldl (fun n k => if f k then n + 2 ^ k else n) 0)).getLsbD i = f i := by
  have five : ∀ a b c d e : Bool, ∀ k < 5, (BitVec.ofNat 5 ([(a, 0), (b, 1), (c, 2), (d, 3), (e, 4)].foldl
      (fun n p => if p.1 then n + 2 ^ p.2 else n) 0)).getLsbD k = [a, b, c, d, e].getD k false := by decide
  have this := five (f 0) (f 1) (f 2) (f 3) (f 4) i low
  interval_cases i <;> exact this

/-- A life-cycle bit is blown when either fuse of its pair is (R382). -/
theorem fusePairs_getLsbD (w : Word) {i : Nat} (low : i < 5) :
    (fusePairs w).getLsbD i = (w.getLsbD (2 * i) || w.getLsbD (2 * i + 1)) :=
  sumBits_getLsbD (fun k => w.getLsbD (2 * k) || w.getLsbD (2 * k + 1)) low

theorem popBits_length (w : Word) (o n : Nat) :
    popBits w o n = ((List.range n).filter fun i => w.getLsbD (o + i)).length := by
  simp [popBits, bit]

theorem popBits_zero (w : Word) (n : Nat) : popBits w 0 n = ((List.range n).filter fun i => w.getLsbD i).length := by
  simp [popBits_length]

theorem wordsBytes_length (ws : List Word) : (wordsBytes ws).length = 8 * ws.length := by
  induction ws with
  | nil => rfl
  | cons w r ih =>
    have step : wordsBytes (w :: r) = leBytes 8 w.toNat ++ wordsBytes r := rfl
    rw [step, List.length_append, leBytes_length, ih, List.length_cons]
    omega

/-- The root that becomes live: none, or the one that the state selects with the key read for it (R241). -/
theorem rootTake_root (s : Hw) (key : Bytes) : ∃ root live, rootTake s key =
    { s with keys := { s.keys with root := root, rootKey := live } } ∧
      (root = .none ∧ live = [] ∨ root = rootCode s ∧ live = key) := by
  unfold rootTake
  dsimp only
  split
  · exact ⟨.none, [], rfl, .inl ⟨rfl, rfl⟩⟩
  · exact ⟨rootCode s, key, rfl, .inr ⟨rfl, rfl⟩⟩

theorem rootCode_congr {s h : Hw} (sec : h.sec = s.sec) : rootCode h = rootCode s := by unfold rootCode lcState; rw [sec]

end Sys2Proof.Machine
end

section
namespace Sys2Proof.Machine

/-! ### A failed lockstep test stands in Held (R337, R353) -/

theorem logRow_lockstepOk (s : Hw) (u e : Nat) (d : BitVec 16) (row : EvRow) :
    (logRow s u e d row).ward.lockstepOk = s.ward.lockstepOk := by
  have counted : (recCount s u e).ward = s.ward := by
    unfold recCount
    split
    · rfl
    · dsimp only
      split <;> rfl
  have logged : (if row.rec' then recCount s u e else s).ward = s.ward := by
    split
    · exact counted
    · rfl
  unfold logRow
  dsimp only
  generalize (if row.rec' then recCount s u e else s) = t at logged ⊢
  generalize kept : (if row.hist then t.modBlk u _ else t) = v
  have same : v.ward = s.ward := by
    rw [← kept, ← logged]
    split <;> rfl
  split
  · unfold errPulse
    dsimp only
    split <;> rw [same]
  · rw [same]

theorem note_lockstepOk (s : Hw) (u e : Nat) (d : BitVec 16) : (note s u e d).ward.lockstepOk = s.ward.lockstepOk := by
  unfold note
  split
  · exact logRow_lockstepOk ..
  · rfl

theorem breakCinch_lockstepOk (s : Hw) (cause : BitVec 3) : (breakCinch s cause).ward.lockstepOk = s.ward.lockstepOk := by
  have dropped : ∀ (t : Hw) p, (dropHolder t p).ward = t.ward := fun t p => by
    unfold dropHolder abandonAppr abandonIntake
    split <;> split <;> rfl
  unfold breakCinch
  split
  · rfl
  · next p holder =>
    dsimp only
    generalize broken : note (dropHolder _ p) 0x8A 1 = t
    have kept : t.ward.lockstepOk = s.ward.lockstepOk := by
      rw [← broken, note_lockstepOk, dropped]
    split
    · exact kept
    · exact kept

theorem setMode_lockstepOk (s : Hw) (m : Mode) : (setMode s m).ward.lockstepOk = s.ward.lockstepOk := by
  unfold setMode
  split
  · rfl
  · exact note_lockstepOk ..

theorem leaveFtest_ward (s : Hw) : (leaveFtest s).ward = s.ward := by
  unfold leaveFtest
  split <;> rfl

theorem enterHeld_lockstepOk (s : Hw) : (enterHeld s).ward.lockstepOk = s.ward.lockstepOk := by
  have ended : (endAllWork (leaveFtest s)).ward = s.ward :=
    (Hw.ward_of_standing (endAllWork_standing (leaveFtest s))).trans (leaveFtest_ward s)
  unfold enterHeld
  split
  · rfl
  · dsimp only
    generalize endAllWork (leaveFtest s) = t at ended ⊢
    rw [note_lockstepOk, setMode_lockstepOk]
    exact (breakCinch_lockstepOk (cenEnd t) 4).trans (congrArg Warden.lockstepOk ended)

/-! ### The fence of the keeper port (R304, R330, R348) -/

theorem kpWrite_fenced (s : Hw) (cls addr : Nat) (data : Bytes) (why : KpWhy) (u : Nat) :
    (kpWrite s cls addr data why).fenced u = s.fenced u :=
  Hw.fenced_congr (congrArg Hw.flt (kpWrite_sansKp s cls addr data why) :) u

theorem tombLost_fenced (s : Hw) (u : Nat) : (tombLost s).fenced u = s.fenced u := by
  unfold tombLost
  rw [note_fenced]
  rfl

/-- A stop writes its tombstone or loses it, and fences nothing. -/
theorem recStop_fenced (s : Hw) (cause u : Nat) : (recStop s cause).fenced u = s.fenced u := by
  have written : ∀ (t : Hw) (tomb : Bytes),
      (if kpLive t then kpWrite t 2 0x140 tomb .tombstone else tombLost t).fenced u = t.fenced u := fun t tomb => by
    split
    · exact kpWrite_fenced t 2 0x140 tomb .tombstone u
    · exact tombLost_fenced t u
  unfold recStop
  dsimp only
  split
  · rfl
  · rw [written]
    rfl

theorem bringStops_flt (s : Hw) : (bringStops s).flt = s.flt := by
  unfold bringStops
  dsimp only
  split <;> rfl

/-- The work that the keeper port's fence affects ends without lifting a fence. -/
theorem keeperFenced_fenced (s : Hw) (u : Nat) : (keeperFenced s).fenced u = s.fenced u := by
  have scattered := kpScatter_flt s
  unfold keeperFenced
  dsimp only
  generalize kpScatter s = t at scattered ⊢
  refine (Hw.fenced_congr (bringStops_flt _) u).trans ?_
  generalize refused : List.foldl _ _ _ = r
  have kept : r.fenced u = s.fenced u := by
    rw [← refused]
    refine (Hw.fenced_congr (foldl_keeps Hw.flt _ (fun v w => ?_) _ _) u).trans (Hw.fenced_congr scattered u)
    exact Hw.flt_of_standing (updRefuse_standing v w stEngineFenced 2)
  split
  · exact (tombLost_fenced r u).trans kept
  · exact (recStop_fenced r 3 u).trans kept

/-- An error of a read and an answer to nothing fence the port (R304, R437). -/
theorem raise_keeper {s : Hw} {e : Nat} (he : e = 1 ∨ e = 0x40) (unfenced : s.fenced 0x82 = false) :
    (raise s 0x82 e).fenced 0x82 = true := by
  have row : eventRow s 0x82 e = some rowFence := by rcases he with rfl | rfl <;> rfl
  have work : (fenceWork (fenceMark s 0x82 e rowFence) 0x82).fenced 0x82 = true :=
    (keeperFenced_fenced _ 0x82).trans (fenceMark_fenced s 0x82 e rowFence)
  rw [raise_fences row unfenced]
  split
  · rw [(setMode_keeps _ _).1, work]
  · exact work

/-! ### The keeper reads of bring-up (R303, R304) -/

theorem bringStep_counters {s : Hw} (phase : s.mc.bring.phase = .counters) (more : s.mc.bring.unit < 4096) :
    bringStep s = none := by
  unfold bringStep bringUnits
  simp [phase, more]

theorem bringAdvance_counters (n : Nat) {s : Hw} (phase : s.mc.bring.phase = .counters) (more : s.mc.bring.unit < 4096) :
    bringAdvance n s = s := by
  cases n with
  | zero => rfl
  | succ n => rw [bringAdvance, bringStep_counters phase more]

/-- A unit of the domain counters arrives, and more are to come. -/
theorem bringUnit_counters {s : Hw} (phase : s.mc.bring.phase = .counters) (more : s.mc.bring.unit + 1 < 4096) :
    bringUnit s = { s with
      kp := { s.kp with pilotBytes := satInc s.kp.pilotBytes 64 }
      mc := { s.mc with bring := { s.mc.bring with unit := s.mc.bring.unit + 1 } } } := by
  have counted : bringCount s 64 = { s with kp := { s.kp with pilotBytes := satInc s.kp.pilotBytes 64 } } := by
    unfold bringCount
    simp [phase]
  unfold bringUnit
  rw [counted]
  dsimp only
  rw [if_neg (by simp [phase])]
  exact bringAdvance_counters 12 (s := { s with
    kp := { s.kp with pilotBytes := satInc s.kp.pilotBytes 64 }
    mc := { s.mc with bring := { s.mc.bring with unit := s.mc.bring.unit + 1 } } }) phase more

/-- An answer of the keeper is one of bring-up's reads while those go on and no window asks. -/
theorem keeperRead_unit {s : Hw} (unfenced : s.fenced 0x82 = false) (out : s.kp.inReset = false) (reads : s.kp.reads = [])
    (reading : bringReads s = true) (tag : BitVec 6) : keeperRead tag false s = bringUnit s := by
  unfold keeperRead
  rw [if_neg (by simp [unfenced, out]), reads]
  dsimp only [List.find?]
  rw [if_pos reading, if_neg Bool.false_ne_true]

/-- An error, of a unit of bring-up or of a read that nothing asked for, fences the port. -/
theorem keeperRead_error {s : Hw} (unfenced : s.fenced 0x82 = false) (out : s.kp.inReset = false) (reads : s.kp.reads = [])
    (asked : bringReads s = true ∨ s.mc.mode ≠ .seal) (tag : BitVec 6) : (keeperRead tag true s).fenced 0x82 = true := by
  unfold keeperRead
  rw [if_neg (by simp [unfenced, out]), reads]
  dsimp only [List.find?]
  split
  · exact raise_keeper (.inl rfl) unfenced
  · next idle =>
    rw [if_neg (by simp [asked.resolve_left (by simpa using idle)])]
    exact raise_keeper (.inr rfl) unfenced

end Sys2Proof.Machine
end

section
namespace Sys2Proof.Machine

/-! ### The configuration image of bring-up (R301, R318, R320, R327) -/

/-- The harness follows the pairings of the set, and nothing else does (R420). -/
theorem mirrorEnter_hns (s : Hw) : ∃ hns, mirrorEnter s = { s with hns := hns } := by
  unfold mirrorEnter
  split
  · exact ⟨_, rfl⟩
  · split <;> exact ⟨_, rfl⟩

/-- The block once an image has been judged: the tack directory is read next, and configuration, seam and keeper port are as
they were. -/
structure Hw.Imaged (s h : Hw) : Prop where
  active : h.active = s.active
  seam : h.seam = s.seam
  kp : h.kp = s.kp
  phase : h.mc.bring.phase = .tackDir

theorem imageNone_imaged (s : Hw) : s.Imaged (imageNone s) := by
  obtain ⟨hns, entered⟩ := mirrorEnter_hns s
  unfold imageNone
  rw [entered]
  exact ⟨rfl, rfl, rfl, rfl⟩

/-- The set that an image holds is active with its EPOCH, and the shadow copy begins (R327 step 5). -/
def Hw.takesImage (s : Hw) (img : Bytes) (pointer : BitVec 16) : Hw :=
  recClamp (startCopy { s with
    active := imageHolds img
    seam := { s.seam with epoch := BitVec.ofNat 16 (leAt img 0 2), oldEpoch := BitVec.ofNat 16 (leAt img 0 2) }
    kp := { s.kp with durableEpoch := pointer, cfgDurable := pointer = BitVec.ofNat 16 (leAt img 0 2) } })

theorem takesImage_active (s : Hw) (img : Bytes) (pointer : BitVec 16) : (s.takesImage img pointer).active = imageHolds img := rfl

theorem takesImage_epoch (s : Hw) (img : Bytes) (pointer : BitVec 16) :
    (s.takesImage img pointer).seam.epoch = BitVec.ofNat 16 (leAt img 0 2) := rfl

theorem takesImage_copying (s : Hw) (img : Bytes) (pointer : BitVec 16) : (s.takesImage img pointer).seam.st = .copying := rfl

theorem takesImage_kp (s : Hw) (img : Bytes) (pointer : BitVec 16) : (s.takesImage img pointer).kp =
    { s.kp with durableEpoch := pointer, cfgDurable := pointer = BitVec.ofNat 16 (leAt img 0 2) } := rfl

theorem imageActivate_imaged (s : Hw) (b : Bool) :
    (s.takesImage (bankImage s b) (pointerEpoch s b)).Imaged (imageActivate s b) := imageNone_imaged _

end Sys2Proof.Machine
end

section
namespace Sys2Proof.Machine

/-! ### The bank that is read (R301) -/

theorem bankImage_congr {s h : Hw} (bytes : h.kp.bytes = s.kp.bytes) (b : Bool) : bankImage h b = bankImage s b := by
  unfold bankImage bankLength
  rw [bytes]

theorem pointerOf_congr {s h : Hw} (bytes : h.kp.bytes = s.kp.bytes) (b : Bool) : pointerOf h b = pointerOf s b := by
  unfold pointerOf
  rw [bytes]

theorem bankWhole_congr {s h : Hw} (bytes : h.kp.bytes = s.kp.bytes) (b : Bool) : bankWhole h b = bankWhole s b := by
  unfold bankWhole
  rw [bankImage_congr bytes, pointerOf_congr bytes]

theorem pointerEpoch_congr {s h : Hw} (bytes : h.kp.bytes = s.kp.bytes) (b : Bool) : pointerEpoch h b = pointerEpoch s b := by
  unfold pointerEpoch
  rw [pointerOf_congr bytes]

/-- EPOCH of an image is a 16-bit number. -/
theorem leAt_two_lt (b : Bytes) (o : Nat) : leAt b o 2 < 2 ^ 16 :=
  calc leAt b o 2 < 256 ^ ((b.drop o).take 2).length := leNat_lt _
    _ ≤ 256 ^ 2 := Nat.pow_le_pow_right (by decide) (by simp)

/-- The block that goes on to the bank that is not current: CFG_FALLBACK and its event, and the bytes to be read count. -/
def Hw.fallsBack (s : Hw) : Hw :=
  bringCount (note { s with kp := { s.kp with cfgFallback := true } } 0x82 2) (bankLength s (!s.kp.bank))

theorem fallsBack_active (s : Hw) : s.fallsBack.active = s.active := note_active ..

theorem fallsBack_kp (s : Hw) : s.fallsBack.kp.bytes = s.kp.bytes ∧ s.fallsBack.kp.bank = s.kp.bank ∧
    s.fallsBack.kp.cfgLost = s.kp.cfgLost ∧ s.fallsBack.kp.cfgFallback = true := by
  unfold Hw.fallsBack bringCount
  simp only [note_kp]
  split <;> exact ⟨rfl, rfl, rfl, rfl⟩

/-- The image of a bank becomes active: what R327 step 5 does, with CFG_FALLBACK as the fallback leaves it. -/
structure Hw.ActivatesBank (s h : Hw) (b fallback : Bool) : Prop where
  active : h.active = imageHolds (bankImage s b)
  epoch : h.seam.epoch.toNat = leAt (bankImage s b) 0 2
  copying : h.seam.st = .copying
  phase : h.mc.bring.phase = .tackDir
  durable : h.kp.durableEpoch = pointerEpoch s b
  bank : h.kp.bank = s.kp.bank
  lost : h.kp.cfgLost = s.kp.cfgLost
  fallback : h.kp.cfgFallback = fallback

theorem imageActivate_bank (s : Hw) (b : Bool) : s.ActivatesBank (imageActivate s b) b s.kp.cfgFallback := by
  obtain ⟨active, seam, kp, phase⟩ := imageActivate_imaged s b
  rw [takesImage_active] at active
  rw [takesImage_kp] at kp
  refine ⟨active, ?_, by rw [seam, takesImage_copying], phase, by rw [kp], by rw [kp], by rw [kp], by rw [kp]⟩
  rw [seam, takesImage_epoch, BitVec.toNat_ofNat, Nat.mod_eq_of_lt (leAt_two_lt _ 0)]

/-- The other bank's image becomes active after the current one has failed. -/
theorem imageActivate_other (s : Hw) : s.ActivatesBank (imageActivate s.fallsBack (!s.kp.bank)) (!s.kp.bank) true := by
  obtain ⟨bytes, current, kept, fell⟩ := fallsBack_kp s
  obtain ⟨active, epoch, copying, phase, durable, bank, lost, fallback⟩ := imageActivate_bank s.fallsBack (!s.kp.bank)
  rw [bankImage_congr bytes] at active epoch
  rw [pointerEpoch_congr bytes] at durable
  exact ⟨active, epoch, copying, phase, durable, bank.trans current, lost.trans kept, fallback.trans fell⟩

/-- Every image named has failed (R301). -/
theorem imageLost_lost (s : Hw) : (imageLost s).kp = { s.kp with cfgLost := true } ∧ (imageLost s).active = s.active ∧
    (imageLost s).mc.bring.phase = .tackDir := by
  unfold imageLost
  obtain ⟨active, -, kp, phase⟩ := imageNone_imaged (note { s with kp := { s.kp with cfgLost := true } } 0x82 3)
  exact ⟨kp.trans (note_kp ..), active.trans (note_active ..), phase⟩

/-- Which image is taken: the current one, else the other one if a pointer names it, else none. -/
theorem configImageRead_imageHash {s : Hw} (phase : s.mc.bring.phase = .imageHash) (cur oth : Bool) :
    configImageRead cur oth s =
      if cur && bankWhole s s.kp.bank then imageActivate s s.kp.bank
      else if pointerSeq s (!s.kp.bank) = 0 then imageLost s
      else if oth && bankWhole s (!s.kp.bank) then imageActivate s.fallsBack (!s.kp.bank)
      else imageLost s.fallsBack := by
  unfold configImageRead
  rw [if_neg (by simp [phase]), ← bankWhole_congr (fallsBack_kp s).1 (!s.kp.bank)]
  rfl

end Sys2Proof.Machine
end

section
namespace Sys2Proof.Machine

/-! ### The end of work leaves the mask generators seeded as they were (R330) -/

theorem modPair_seeded (s : Hw) (p q : Nat) {f : Pair → Pair} (h : ∀ v, (f v).seeded = v.seeded) :
    ((s.modPair p f).pair q).seeded = (s.pair q).seeded := by
  unfold Hw.pair Hw.modPair
  by_cases e : q = p
  · subst e
    rw [tget_tmod, h]
  · rw [tget_tmod_ne _ e]

theorem stallEnd_seeded (s : Hw) (p k q : Nat) : ((stallEnd s p k).pair q).seeded = (s.pair q).seeded := by
  unfold stallEnd
  split
  · refine modPair_seeded s p q fun v => ?_
    unfold Pair.stallOver
    split <;> rfl
  · rfl

/-- What a job gives back ends at most one wait for masks. -/
theorem releaseJob_pairs (s : Hw) (k : Nat) :
    (releaseJob s k).pairs = s.pairs ∨ ∃ p, (releaseJob s k).pairs = (stallEnd s p k).pairs := by
  unfold releaseJob
  dsimp only
  split
  · split
    · right
      split <;> exact ⟨_, rfl⟩
    · exact .inl rfl
  · exact .inl rfl

theorem Hw.pair_congr {s h : Hw} (pairs : h.pairs = s.pairs) (q : Nat) : h.pair q = s.pair q := by
  unfold Hw.pair
  rw [pairs]

theorem releaseJob_seeded (s : Hw) (k q : Nat) : ((releaseJob s k).pair q).seeded = (s.pair q).seeded := by
  rcases releaseJob_pairs s k with same | ⟨p, ended⟩
  · rw [Hw.pair_congr same]
  · rw [Hw.pair_congr ended, stallEnd_seeded]

theorem finish_pairs (s : Hw) (k : Nat) (st : BitVec 8) (r : Word) : (finish s k st r).pairs = (releaseJob s k).pairs := rfl

theorem finish_seeded (s : Hw) (k : Nat) (st : BitVec 8) (r : Word) (q : Nat) :
    ((finish s k st r).pair q).seeded = (s.pair q).seeded := by
  rw [Hw.pair_congr (finish_pairs s k st r), releaseJob_seeded]

theorem finishFree_seeded (s : Hw) (k : Nat) (st : BitVec 8) (q : Nat) :
    ((finishFree s k st).pair q).seeded = (s.pair q).seeded := finish_seeded (drawFree s).2 k st _ q

theorem stopTransfer_seeded (s : Hw) (k : Nat) (j : Job) (st : BitVec 8) (q : Nat) :
    ((stopTransfer s k j st).pair q).seeded = (s.pair q).seeded := by
  unfold stopTransfer
  split
  · exact finish_seeded s k st _ q
  · rfl

theorem endJob_seeded (s : Hw) (k : Nat) (st : BitVec 8) (q : Nat) :
    ((endJob s k st).pair q).seeded = (s.pair q).seeded := by
  unfold endJob
  split
  · rfl
  · split <;> simp [finish_seeded, finishFree_seeded, stopTransfer_seeded]

theorem endJobs_seeded (s : Hw) (c : Nat) (p : Job → Bool) (st : BitVec 8) (q : Nat) :
    ((endJobs s c p st).pair q).seeded = (s.pair q).seeded :=
  foldl_keeps (fun t : Hw => (t.pair q).seeded) _ (fun t (e : Nat × Job) => endJob_seeded t e.1 st q) _ s

theorem failDs_seeded (s : Hw) (c n : Nat) (st : BitVec 8) (q : Nat) :
    ((failDs s c n st).pair q).seeded = (s.pair q).seeded := by
  unfold failDs
  exact endJobs_seeded (s.modCtx c _) c _ st q

theorem rgWrite_pairs (s : Hw) (c : Nat) (r : Word) (b : Bytes) : (rgWrite s c r b).pairs = s.pairs := by
  unfold rgWrite
  split <;> rfl

theorem dropHold_seeded (s : Hw) (c n : Nat) (st : BitVec 8) (q : Nat) :
    ((dropHold s c n st).pair q).seeded = (s.pair q).seeded := by
  have zeroed := foldl_keeps Hw.pairs (fun s r => rgWrite s c r (zeros (rgLen r))) (fun t r => rgWrite_pairs t c r _)
    ((s.ctx c).cs n).held s
  unfold dropHold
  dsimp only
  generalize List.foldl _ s _ = t at zeroed ⊢
  refine (endJobs_seeded _ c _ st q).trans ?_
  refine (foldl_keeps (fun t : Hw => (t.pair q).seeded) _ (fun t n => failDs_seeded t c n st q) _ _).trans ?_
  exact congrArg Pair.seeded (Hw.pair_congr zeroed q)

theorem endUndecided_seeded (s : Hw) (c : Nat) (post : Bool) (st : BitVec 8) (q : Nat) :
    ((endUndecided s c post st).pair q).seeded = (s.pair q).seeded := by
  have dropped := foldl_keeps (fun t : Hw => (t.pair q).seeded) _
    (fun t (e : Nat × CipherStream) => dropHold_seeded t c e.1 st q) ((s.ctx c).cstreams.filter fun e => e.2.undecided && !e.2.rel) s
  unfold endUndecided
  dsimp only
  generalize List.foldl _ s _ = t at dropped ⊢
  split
  · exact dropped
  · split <;> exact dropped

theorem settle_seeded (s : Hw) (c q : Nat) : ((settle s c).pair q).seeded = (s.pair q).seeded := by
  unfold settle
  split
  · dsimp only
    generalize ended : endUndecided s c _ _ = t
    have kept : (t.pair q).seeded = (s.pair q).seeded := ended ▸ endUndecided_seeded s c _ _ q
    split <;> exact kept
  · rfl

theorem settleAll_seeded (s : Hw) (q : Nat) : ((settleAll s).pair q).seeded = (s.pair q).seeded :=
  foldl_keeps (fun t : Hw => (t.pair q).seeded) settle (fun t c => settle_seeded t c q) _ s

/-! ### Pilot and its end (R327 step 9, R328 to R330) -/

/-- A pair of a list whose pairs all take one value of `seeded`. -/
theorem foldl_modPair_seeded {f : Pair → Pair} {ok : Bool} (sets : ∀ v, (f v).seeded = ok) (l : List Nat) (s : Hw) {q : Nat}
    (reached : q ∈ l ∨ (s.pair q).seeded = ok) : ((l.foldl (fun s p => s.modPair p f) s).pair q).seeded = ok := by
  induction l generalizing s with
  | nil => exact reached.resolve_left (by simp)
  | cons p r ih =>
    refine ih _ ?_
    by_cases same : q = p
    · right
      subst same
      exact (congrArg Pair.seeded (tget_tmod ..)).trans (sets _)
    · rcases reached with listed | kept
      · exact .inl ((List.mem_cons.mp listed).resolve_left same)
      · exact .inr ((congrArg Pair.seeded (tget_tmod_ne _ same ..)).trans kept)

/-- The block with the DRBG and the pairs blanked. -/
def Hw.sansSeeds (s : Hw) : Hw := { s with keys := {}, pairs := [] }

theorem Hw.mc_of_sansSeeds {s t : Hw} (h : s.sansSeeds = t.sansSeeds) : s.mc = t.mc := (congrArg Hw.mc h :)

theorem Hw.clk_of_sansSeeds {s t : Hw} (h : s.sansSeeds = t.sansSeeds) : s.clk = t.clk := (congrArg Hw.clk h :)

theorem Hw.rm_of_sansSeeds {s t : Hw} (h : s.sansSeeds = t.sansSeeds) : s.rm = t.rm := (congrArg Hw.rm h :)

/-- A pair whose generators start anew, seeded or not. -/
def Pair.startsAnew (ok : Bool) (v : Pair) : Pair :=
  { v with seeded := ok, entStop := !ok, workerOut := 0, checkerOut := 0, workerAsked := false, checkerAsked := false }

/-- The block once the DRBG has given the seeds of all pairs, if it gives any. -/
def Hw.seedsDrawn (ok : Bool) (s : Hw) : Hw := if ok then (List.range 16).foldl (fun s _ => (drbgBytes s 32).2) s else s

theorem seedMasks_eq (s : Hw) : seedMasks s =
    (List.range 8).foldl (fun t p => t.modPair p (Pair.startsAnew !s.fenced 0x84)) (s.seedsDrawn !s.fenced 0x84) := rfl

theorem seedsDrawn_sansSeeds (ok : Bool) (s : Hw) : (s.seedsDrawn ok).sansSeeds = s.sansSeeds := by
  unfold Hw.seedsDrawn
  split
  · exact foldl_keeps Hw.sansSeeds (fun t (_ : Nat) => (drbgBytes t 32).2) (fun _ _ => rfl) _ s
  · rfl

theorem startsAnew_seeded (ok : Bool) (v : Pair) : (v.startsAnew ok).seeded = ok := rfl

theorem seedMasks_sansSeeds (s : Hw) : (seedMasks s).sansSeeds = s.sansSeeds := by
  rw [seedMasks_eq, foldl_keeps Hw.sansSeeds (fun t p => t.modPair p (Pair.startsAnew !s.fenced 0x84)) fun _ _ => rfl]
  exact seedsDrawn_sansSeeds _ s

/-- The generators of every pair are seeded, unless the entropy source is fenced. -/
theorem seedMasks_seeded (s : Hw) {q : Nat} (low : q < 8) : ((seedMasks s).pair q).seeded = !s.fenced 0x84 := by
  rw [seedMasks_eq]
  generalize Hw.seedsDrawn _ s = t
  exact foldl_modPair_seeded (startsAnew_seeded _) (List.range 8) t (.inl (List.mem_range.mpr low))

/-- Pilot, as it is entered from block s. -/
structure Hw.Pilots (s h : Hw) : Prop where
  mode : h.mc.mode = .pilot
  pilotUs : h.mc.pilotUs = BitVec.ofNat 32 (min (2 ^ 32 - 1) (sinceRelease s))
  clk : h.clk = if s.mc.bring.warm then s.clk else { s.clk with cycles := s.clk.cycles + 1 }
  pairs : h.pairs = (seedMasks s).pairs

theorem Hw.mc_of_sansKp {s t : Hw} (h : s.sansKp = t.sansKp) : s.mc = t.mc := (congrArg Hw.mc h :)

theorem Hw.clk_of_sansKp {s t : Hw} (h : s.sansKp = t.sansKp) : s.clk = t.clk := (congrArg Hw.clk h :)

theorem Hw.pairs_of_sansKp {s t : Hw} (h : s.sansKp = t.sansKp) : s.pairs = t.pairs := (congrArg Hw.pairs h :)

/-- The block whose times of Pilot's entry stand, and whose CYCLES counts a power-on bring-up. -/
def Hw.timesPilot (s : Hw) (late : Bool) : Hw := { s with
  mc := { s.mc with
    pilotUs := BitVec.ofNat 32 (min (2 ^ 32 - 1) (sinceRelease s)), warm := s.mc.bring.warm, budgetMiss := s.mc.budgetMiss || late
    bring := { s.mc.bring with pilotAt := s.clk.core } }
  clk := if s.mc.bring.warm then s.clk else { s.clk with cycles := s.clk.cycles + 1 } }

theorem pilotEntry_ready {s : Hw} (ready : pilotReady s = true) : ∃ late : Bool, pilotEntry s =
    timeWrite (if late then note ((setMode (seedMasks s) .pilot).timesPilot late) 0x8B 2
      else (setMode (seedMasks s) .pilot).timesPilot late) := by
  unfold pilotEntry
  rw [if_neg (by simp [ready])]
  dsimp only
  generalize setMode (seedMasks s) .pilot = t
  refine ⟨decide (2000 * clkPerUs t < t.clk.core - t.mc.bring.startedAt), ?_⟩
  simp only [decide_eq_true_eq]
  rfl

theorem pilotEntry_pilots {s : Hw} (ready : pilotReady s = true) : s.Pilots (pilotEntry s) := by
  have seeds := seedMasks_sansSeeds s
  have mc : (setMode (seedMasks s) .pilot).mc = { s.mc with mode := .pilot } := by
    rw [setMode_mc, Hw.mc_of_sansSeeds seeds]
  have clk : (setMode (seedMasks s) .pilot).clk = s.clk := (setMode_clk ..).trans (Hw.clk_of_sansSeeds seeds)
  have rm : (setMode (seedMasks s) .pilot).rm = s.rm := (setMode_rm ..).trans (Hw.rm_of_sansSeeds seeds)
  have pairs := setMode_pairs (seedMasks s) .pilot
  have since : sinceRelease (setMode (seedMasks s) .pilot) = sinceRelease s := by
    unfold sinceRelease clkPerUs
    rw [mc, clk, rm]
  obtain ⟨late, entered⟩ := pilotEntry_ready ready
  rw [entered]
  generalize setMode (seedMasks s) .pilot = t at mc clk rm pairs since ⊢
  generalize noted : (if late then note (t.timesPilot late) 0x8B 2 else t.timesPilot late) = u
  have same : u.mc = (t.timesPilot late).mc ∧ u.clk = (t.timesPilot late).clk ∧ u.pairs = t.pairs := by
    rw [← noted]
    split
    · exact ⟨note_mc .., note_clk .., note_pairs ..⟩
    · exact ⟨rfl, rfl, rfl⟩
  obtain ⟨sameMc, sameClk, samePairs⟩ := same
  have written := timeWrite_sansKp u
  constructor
  · rw [Hw.mc_of_sansKp written, sameMc]
    exact congrArg ModeCtl.mode mc
  · rw [Hw.mc_of_sansKp written, sameMc, ← since]
    rfl
  · rw [Hw.clk_of_sansKp written, sameClk, ← clk, show s.mc.bring = t.mc.bring by rw [mc]]
    rfl
  · rw [Hw.pairs_of_sansKp written, samePairs, pairs]

theorem pilotEnd_ends {s : Hw} (pilot : s.mc.mode = .pilot) (done : s.mc.bring.fullSetDone = true) :
    (pilotEnd s).mc.mode = serviceMode s ∧
      (pilotEnd s).clk.core = max s.clk.core (max s.mc.bring.fullAt s.mc.bring.pilotAt + 20 * clkPerUs s) := by
  unfold pilotEnd
  rw [if_pos (by simp [pilot, done])]
  dsimp only
  rw [setMode_mode, setMode_clk]
  exact ⟨rfl, rfl⟩

end Sys2Proof.Machine
end

section
namespace Sys2Proof.Machine

/-! ### What the fuses give (R241, R327 step 3, R382, R438) -/

/-- The block once the fuse words stand in it, before it takes a root. -/
def Hw.fused (s : Hw) (words : List Word) : Hw := { s with
  sec := { s.sec with
    lcBits := fusePairs (words.getD 19 0), calFuse0 := words.getD 20 0, calFuse1 := words.getD 21 0, entStartup := true }
  keys := { s.keys with tgen := BitVec.ofNat 6 (popBits (words.getD 18 0) 0 63) }
  ucode := { s.ucode with
    floor := BitVec.ofNat 5 (popBits (words.getD 19 0) 16 31)
    signer := wordsBytes ((List.range 6).map fun i => words.getD (12 + i) 0) }
  mc := { s.mc with bring := { s.mc.bring with phase := .head, unit := 0, fusesDone := true } } }

/-- The key that the fuses hold for the root of the life cycle. -/
def Hw.fusedKey (s : Hw) (words : List Word) : Bytes :=
  wordsBytes ((List.range 4).map fun i => words.getD ((rootCode (s.fused words)).fuseWord + i) 0)

theorem fusedKey_length (s : Hw) (words : List Word) : (s.fusedKey words).length = 32 := by
  unfold Hw.fusedKey
  rw [wordsBytes_length, List.length_map, List.length_range]

theorem fusesRead_right {s : Hw} (phase : s.mc.bring.phase = .fuses) (words : List Word) :
    fusesRead words true s = rootTake (s.fused words) (s.fusedKey words) := by
  unfold fusesRead
  rw [if_neg (by simp [phase])]
  rfl

/-- A lockstep test that fails is fatal (R353). -/
theorem fusesRead_wrong {s : Hw} (phase : s.mc.bring.phase = .fuses) (words : List Word) :
    (fusesRead words false s).mc.mode = .held ∧ (fusesRead words false s).ward.lockstepOk = false := by
  unfold fusesRead
  rw [if_neg (by simp [phase])]
  dsimp only
  rw [if_neg Bool.false_ne_true, raise_fatal rfl, enterHeld_lockstepOk, logRow_lockstepOk]
  exact ⟨enterHeld_mode _, rfl⟩

/-- The block once the fuses have been read right: what it has taken from each fuse word. -/
structure Hw.TakesFuses (words : List Word) (h : Hw) : Prop where
  phase : h.mc.bring.phase = .head
  tgen : h.keys.tgen = BitVec.ofNat 6 (((List.range 63).filter fun i => (words.getD 18 0).getLsbD i).length)
  lifeCycle : ∀ i < 5, h.sec.lcBits.getLsbD i = ((words.getD 19 0).getLsbD (2 * i) || (words.getD 19 0).getLsbD (2 * i + 1))
  floor : h.ucode.floor = BitVec.ofNat 5 (((List.range 31).filter fun i => (words.getD 19 0).getLsbD (16 + i)).length)
  cal0 : h.sec.calFuse0 = words.getD 20 0
  cal1 : h.sec.calFuse1 = words.getD 21 0
  entropy : h.sec.entStartup = true
  root : h.keys.root = .none ∧ h.keys.rootKey = [] ∨ h.keys.root = rootCode h ∧ h.keys.rootKey.length = 32

theorem fusesRead_takes {s : Hw} (phase : s.mc.bring.phase = .fuses) (words : List Word) :
    (fusesRead words true s).TakesFuses words := by
  rw [fusesRead_right phase]
  obtain ⟨root, live, taken, roots⟩ := rootTake_root (s.fused words) (s.fusedKey words)
  rw [taken]
  refine ⟨rfl, congrArg (BitVec.ofNat 6) (popBits_zero ..), fun i low => fusePairs_getLsbD _ low,
    congrArg (BitVec.ofNat 5) (popBits_length ..), rfl, rfl, rfl, ?_⟩
  exact roots.imp_right fun ⟨code, key⟩ => ⟨code, key ▸ fusedKey_length s words⟩

theorem Hw.TakesFuses.settles {words : List Word} {h : Hw} (taken : h.TakesFuses words) : (settleAll h).TakesFuses words := by
  obtain ⟨phase, tgen, lifeCycle, floor, cal0, cal1, entropy, root⟩ := taken
  constructor <;> simp_all [rootCode_congr (settleAll_sec h)]

/-! ### Which image becomes active (R301, R327 step 5) -/

theorem Hw.ActivatesBank.settles {s h : Hw} {b fallback : Bool} (taken : s.ActivatesBank h b fallback) :
    s.ActivatesBank (settleAll h) b fallback := by
  obtain ⟨active, epoch, copying, phase, durable, bank, lost, fallback⟩ := taken
  constructor <;> simp_all

section
variable {s : Hw} (phase : s.mc.bring.phase = .imageHash) {cur oth : Bool}
include phase

/-- The current image is right: the port has not fallen back. -/
theorem configImageRead_current (right : cur = true ∧ bankWhole s s.kp.bank = true) :
    s.ActivatesBank (configImageRead cur oth s) s.kp.bank s.kp.cfgFallback := by
  rw [configImageRead_imageHash phase, if_pos (by simp [right])]
  exact imageActivate_bank s s.kp.bank

/-- The current image is wrong, and the other one is named and right: the port has fallen back. -/
theorem configImageRead_other (wrong : ¬(cur = true ∧ bankWhole s s.kp.bank = true)) (named : pointerSeq s (!s.kp.bank) ≠ 0)
    (right : oth = true ∧ bankWhole s (!s.kp.bank) = true) :
    s.ActivatesBank (configImageRead cur oth s) (!s.kp.bank) true := by
  rw [configImageRead_imageHash phase, if_neg (by simpa using wrong), if_neg named, if_pos (by simp [right])]
  exact imageActivate_other s

/-- No image is right: the configuration is lost, after a fallback if a pointer names the other bank. -/
theorem configImageRead_none (wrong : ¬(cur = true ∧ bankWhole s s.kp.bank = true))
    (neither : ¬(pointerSeq s (!s.kp.bank) ≠ 0 ∧ oth = true ∧ bankWhole s (!s.kp.bank) = true)) :
    let h := configImageRead cur oth s
    h.kp.cfgLost = true ∧ h.active = s.active ∧
      h.kp.cfgFallback = (s.kp.cfgFallback || pointerSeq s (!s.kp.bank) != 0) ∧ h.mc.bring.phase = .tackDir := by
  dsimp only
  rw [configImageRead_imageHash phase, if_neg (by simpa using wrong)]
  by_cases unnamed : pointerSeq s (!s.kp.bank) = 0
  · obtain ⟨kp, active, done⟩ := imageLost_lost s
    rw [if_pos unnamed, kp]
    exact ⟨rfl, active, by simp [unnamed], done⟩
  · obtain ⟨kp, active, done⟩ := imageLost_lost s.fallsBack
    obtain ⟨-, -, -, fell⟩ := fallsBack_kp s
    have wrongToo : ¬(oth && bankWhole s (!s.kp.bank)) = true := fun right => neither ⟨unnamed, by simpa using right⟩
    rw [if_neg unnamed, if_neg wrongToo, kp, bne_iff_ne.mpr unnamed, Bool.or_true]
    exact ⟨rfl, active.trans (fallsBack_active s), fell, done⟩

end

/-! ### What the release leads to (R255, R327, R454) -/

theorem porRelease_warned {s : Hw} (por : s.mc.por = true) (run : s.sec.power = .run) (warned : s.mc.pfw = true)
    (cold : s.mc.mode = .cold) (block : BitVec 3) (idcode : BitVec 32) :
    porRelease block idcode false s = sealEnter 1 (s.released block idcode) := by
  rw [porRelease_high por run, if_pos warned]
  unfold sealWarned
  exact if_pos (by simp [Hw.released, cold])

/-- The kill line clears the store of a block that runs, and puts it in Held (R255). -/
theorem killPin_kills {s : Hw} (por : s.mc.por = false) (run : s.sec.power = .run) (unkilled : s.keys.kill = false) :
    s.keys.KilledTo (killPin s) := by
  rw [killPin_asserts por (by simp [run]) unkilled]
  exact (detectorNote_kills (by decide) 0 por run unkilled).1

/-- With the kill line low at the release the store is cleared and the block is Held. -/
theorem porRelease_kills {s : Hw} (por : s.mc.por = true) (run : s.sec.power = .run) (unkilled : s.keys.kill = false)
    (block : BitVec 3) (idcode : BitVec 32) : ∃ k : KeyStore, k.KilledTo (porRelease block idcode true s) := by
  rw [porRelease_kill por run]
  exact ⟨_, killPin_kills rfl run unkilled⟩

end Sys2Proof.Machine
end

section
open Sys2Proof Sys2Proof.Machine

/-- Settles O40: each command of bring-up by what it does to the parts that the statement names; ending work and listing ready
records leaves those. -/
theorem bringUpReachesService : Obligations.BringUpReachesService := by
  intro s block idcode words tag cur oth m b k w other current second activates
  refine ⟨?_, fun por run => ⟨fun warned cold => ?_, fun calm => ?_, fun unkilled => ?_⟩,
    fun awake phase => ⟨?_, ?_⟩, fun awake unfenced out reads => ⟨fun reading phase more => ?_, fun asked => ?_⟩,
    fun awake phase => ⟨fun first => ?_, fun failed next => ?_, fun failed missing => ?_⟩,
    fun awake cold fuses entropy pilotSet tacks => ?_, fun awake cold missing => ?_, fun awake pilot full => ?_⟩
  · refine completes_of_to (h := powerReset s.hw) rfl ⟨?_, rfl, rfl, rfl, rfl, rfl, rfl, rfl, rfl, rfl, rfl, rfl, rfl, rfl, rfl,
      kpScatter_bytes s.hw⟩
    exact congrArg (fun m : ModeCtl => ({ pfw := m.pfw } : ModeCtl)) (kpScatter_mc s.hw)
  · refine completes_events rfl (porRelease_warned por run warned cold block idcode) ?_
    obtain ⟨mode, src, released, kept⟩ := sealEnter_seals 1 (s.hw.released block idcode)
    rw [settleAll_mc, settleAll_hns]
    exact ⟨released, mode, src, kept⟩
  · refine completes_events rfl ((porRelease_high por run block idcode).trans (if_neg (by simpa using calm))) ?_
    rw [settleAll_mc, settleAll_hns, settleAll_keys_kill]
    exact ⟨rfl, rfl, rfl, rfl, rfl, rfl, rfl⟩
  · obtain ⟨killed, drawn⟩ := porRelease_kills por run unkilled block idcode
    obtain ⟨⟨slots, root, zeroized, kill, kills, charges, updates, tgen⟩, mode, busy, ack⟩ := drawn.drains (settleAll_drains _)
    exact completes_events rfl rfl ⟨mode, kill, slots, root⟩
  · refine completes_settleAll (f := fusesRead words true) rfl awake ?_
    obtain ⟨fetched, tgen, lifeCycle, floor, cal0, cal1, entropy, root⟩ := (fusesRead_takes phase words).settles
    exact ⟨fetched, tgen, lifeCycle, floor, cal0, cal1, entropy, root⟩
  · refine completes_settleAll (f := fusesRead words false) rfl awake ?_
    rw [settleAll_mc, settleAll_ward]
    exact fusesRead_wrong phase words
  · refine completes_settleAll (f := keeperRead tag false) rfl awake ?_
    rw [keeperRead_unit unfenced out reads reading, bringUnit_counters phase more, settleAll_mc, settleAll_kp]
    exact ⟨rfl, rfl⟩
  · refine completes_settleAll (f := keeperRead tag true) rfl awake ?_
    rw [settleAll_fenced]
    exact keeperRead_error unfenced out reads asked tag
  · refine completes_settleAll (f := configImageRead cur oth) rfl awake ?_
    obtain ⟨active, epoch, copying, done, durable, bank, lost, fallback⟩ := (configImageRead_current phase first).settles
    exact ⟨active, epoch, copying, done, durable, bank, lost, fallback.trans (by simp [k])⟩
  · refine completes_settleAll (f := configImageRead cur oth) rfl awake ?_
    obtain ⟨named, right⟩ := next
    obtain ⟨active, epoch, copying, done, durable, bank, lost, fallback⟩ :=
      (configImageRead_other phase failed named right).settles
    exact ⟨active, epoch, copying, done, durable, bank, lost, fallback.trans (by simp [other])⟩
  · refine completes_settleAll (f := configImageRead cur oth) rfl awake ?_
    rw [settleAll_kp, settleAll_active, settleAll_mc]
    exact configImageRead_none phase failed missing
  · refine completes_settleAll (f := pilotEntry) rfl awake ?_
    obtain ⟨mode, us, clk, pairs⟩ := pilotEntry_pilots (s := s.hw)
      (by simp_all [pilotReady, m, b])
    refine ⟨by rw [settleAll_mc, mode], ?_, ?_, fun q low => ?_⟩
    · rw [settleAll_mc, us, BitVec.toNat_ofNat, Nat.mod_eq_of_lt (by omega)]
      rfl
    · rw [settleAll_clk, clk]
      split <;> rfl
    · rw [settleAll_seeded, Hw.pair_congr pairs, seedMasks_seeded s.hw low]
  · have unready : pilotReady s.hw = false := by rcases missing with short | short | short <;> simp_all [pilotReady, m, b]
    have stays : pilotEntry s.hw = s.hw := if_pos (by simp [unready])
    exact (s.work_awake pilotEntry awake).trans (congrArg (fun h => s.to (settleAll h)) stays)
  · refine completes_settleAll (f := pilotEnd) rfl awake ?_
    rw [settleAll_mc, settleAll_clk]
    exact pilotEnd_ends pilot full

end

section
namespace Sys2Proof.Machine

/-! ### Strings read back from a byte memory -/

theorem mread_congr {m k : Memory} {a n : Nat} (same : ∀ i < n, mget m (a + i) = mget k (a + i)) :
    mread m a n = mread k a n := by
  refine List.ext_getElem? fun i => ?_
  by_cases h : i < n
  · rw [getElem?_mread m a h, getElem?_mread k a h, same i h]
  · rw [List.getElem?_eq_none (by rw [mread_length]; omega), List.getElem?_eq_none (by rw [mread_length]; omega)]

/-- A number of a string just written reads back from it. -/
theorem leAt_mread_mwrite (m : Memory) (a : Nat) (l : Bytes) {n off len : Nat} (inside : off + len ≤ n)
    (listed : off + len ≤ l.length) : leAt (mread (mwrite m a l) a n) off len = leAt l off len := by
  unfold leAt
  refine congrArg leNat (List.ext_getElem? fun i => ?_)
  rw [List.getElem?_take, List.getElem?_take, List.getElem?_drop, List.getElem?_drop]
  split
  · rw [getElem?_mread _ _ (by omega), mget_mwrite _ _ _ (by omega), List.getElem?_eq_getElem]
  · rfl

/-! ### Pointer blocks (R300, R301) -/

theorem pointerBlock_length_le (seq : BitVec 32) (epoch : BitVec 16) (image : Bytes) :
    (pointerBlock seq epoch image).length ≤ 64 := by
  simp only [pointerBlock, sha384, zeros, List.length_append, leBytes_length, List.length_take, List.length_replicate]
  omega

theorem pointerBlock_length_ge (seq : BitVec 32) (epoch : BitVec 16) (image : Bytes) :
    6 ≤ (pointerBlock seq epoch image).length := by
  simp only [pointerBlock, List.length_append, leBytes_length]
  omega

theorem pointerBlock_seq (seq : BitVec 32) (epoch : BitVec 16) (image : Bytes) :
    leAt (pointerBlock seq epoch image) 0 4 = seq.toNat := by
  simp only [leAt, pointerBlock, List.append_assoc, List.drop_zero]
  rw [List.take_left' (leBytes_length ..), leNat_leBytes 4 _ seq.isLt]

theorem pointerBlock_epoch (seq : BitVec 32) (epoch : BitVec 16) (image : Bytes) :
    leAt (pointerBlock seq epoch image) 4 2 = epoch.toNat := by
  simp only [leAt, pointerBlock, List.append_assoc]
  rw [List.drop_left' (leBytes_length ..), List.take_left' (leBytes_length ..), leNat_leBytes 2 _ epoch.isLt]

/-- A bank's pointer stands when nothing in its 64 B changes. -/
theorem pointerSeq_of_bytes {s h : Hw} {b : Bool}
    (same : ∀ i < 64, mget h.kp.bytes (ptrAddr b + i) = mget s.kp.bytes (ptrAddr b + i)) : pointerSeq h b = pointerSeq s b := by
  unfold pointerSeq pointerOf
  rw [mread_congr same]

theorem pointerSeq_congr {s h : Hw} (bytes : h.kp.bytes = s.kp.bytes) (b : Bool) : pointerSeq h b = pointerSeq s b :=
  pointerSeq_of_bytes fun _ _ => by rw [bytes]

/-- A bank's pointer reads as it was written, and the other bank's stands. -/
theorem pointer_written {s h : Hw} {b : Bool} {seq : BitVec 32} {epoch : BitVec 16} {image : Bytes}
    (bytes : h.kp.bytes = mwrite s.kp.bytes (ptrAddr b) (pointerBlock seq epoch image)) :
    pointerSeq h b = seq ∧ pointerEpoch h b = epoch ∧ pointerSeq h (!b) = pointerSeq s (!b) := by
  have short := pointerBlock_length_le seq epoch image
  have long := pointerBlock_length_ge seq epoch image
  refine ⟨?_, ?_, pointerSeq_of_bytes fun i hi => ?_⟩
  · unfold pointerSeq pointerOf
    rw [bytes, leAt_mread_mwrite _ _ _ (by omega) (by omega), pointerBlock_seq, BitVec.ofNat_toNat, BitVec.setWidth_eq]
  · unfold pointerEpoch pointerOf
    rw [bytes, leAt_mread_mwrite _ _ _ (by omega) (by omega), pointerBlock_epoch, BitVec.ofNat_toNat, BitVec.setWidth_eq]
  · rw [bytes]
    refine mget_mwrite_outside _ _ _ _ ?_
    cases b
    · right
      show 0x40 + _ ≤ 0x80 + i
      omega
    · left
      show 0x40 + i < 0x80
      omega

/-- An image lies above the pointers. -/
theorem pointerSeq_image {s h : Hw} {b : Bool} {image : Bytes} (bytes : h.kp.bytes = mwrite s.kp.bytes (bankAddr b) image)
    (c : Bool) : pointerSeq h c = pointerSeq s c := by
  refine pointerSeq_of_bytes fun i hi => ?_
  have low : ptrAddr c ≤ 0x80 := by cases c <;> decide
  have high : 0x2400000 ≤ bankAddr b := by cases b <;> decide
  rw [bytes]
  exact mget_mwrite_outside _ _ _ _ (.inl (by omega))

/-! ### What issuing and acknowledging leave of the keeper port -/

/-- The keeper port with what issuing writes blanked: its queue, what is outstanding, and how far an image or a format is. -/
def Keeper.sansIssue (k : Keeper) : Keeper := { k with waiting := [], out := [], unit := 0, imagePtr := false }

theorem kpPump_sansIssue (n : Nat) (s : Hw) : (kpPump n s).kp.sansIssue = s.kp.sansIssue := by
  induction n generalizing s with
  | zero => rfl
  | succ n ih =>
    unfold kpPump
    split
    · exact ih _
    · split <;> exact ih _
    · exact ih _
    · rfl

theorem kpIssue_sansIssue (s : Hw) : (kpIssue s).kp.sansIssue = s.kp.sansIssue := kpPump_sansIssue _ s

theorem kpIssue_sansKp (s : Hw) : (kpIssue s).sansKp = s.sansKp := kpPump_sansKp _ s

theorem kpIssue_bytes (s : Hw) : (kpIssue s).kp.bytes = s.kp.bytes := (congrArg Keeper.bytes (kpIssue_sansIssue s) :)

theorem kpIssue_active (s : Hw) : (kpIssue s).active = s.active := (congrArg Hw.active (kpIssue_sansKp s) :)

/-- The keeper port with what an acknowledgement writes blanked besides: the bytes, and the counts of writes. -/
def Keeper.sansAck (k : Keeper) : Keeper := { k.sansIssue with bytes := [], writes := 0, worstAck := 0 }

theorem kpIssue_sansAck (s : Hw) : (kpIssue s).kp.sansAck = s.kp.sansAck :=
  (congrArg (fun k : Keeper => { k with bytes := [], writes := 0, worstAck := 0 }) (kpIssue_sansIssue s) :)

theorem kpDurable_sansAck (s : Hw) (w : KpWrite) : (kpDurable s w).kp.sansAck = s.kp.sansAck := kpIssue_sansAck _

/-- An acknowledged write is durable (R289). -/
theorem kpDurable_bytes (s : Hw) (w : KpWrite) : (kpDurable s w).kp.bytes = mwrite s.kp.bytes w.addr w.data := kpIssue_bytes _

theorem kpDurable_active (s : Hw) (w : KpWrite) : (kpDurable s w).active = s.active := kpIssue_active _

theorem kpDurable_seam (s : Hw) (w : KpWrite) : (kpDurable s w).seam = s.seam := (congrArg Hw.seam (kpIssue_sansKp _) :)

/-! ### What is issued when nothing waits -/

theorem kpPump_third {s : Hw} {w : KpWrite} (idle : s.kp.waiting = []) (third : kpThird s = some w) (ready : kpReady s.kp w = true)
    (n : Nat) : kpPump (n + 1) s = kpPump n (kpIssueThird s w) := by
  simp only [kpPump, idle, List.filter_nil, leastBy, third, Option.filter_some, if_pos ready]

theorem kpPump_idle {s : Hw} (idle : s.kp.waiting = []) (third : kpThird s = none) (n : Nat) : kpPump n s = s := by
  cases n with
  | zero => rfl
  | succ n => simp [kpPump, idle, leastBy, third]

/-- An image is whole units of 64 B. -/
theorem imageSize_units (c : CfgSet) : 64 * (imageSize c / 64) = imageSize c := by
  unfold imageSize up64
  omega

/-- The pointer write of an image (R301). -/
def pointerWrite (s : Hw) (b : Bool) : KpWrite :=
  ⟨kpFreeTag s.kp, 3, ptrAddr b,
    pointerBlock (seqNext (pointerSeq s (!b))) s.kp.imageEpoch (imageBytes s.kp.imageSet s.kp.imageEpoch), .pointer, s.clk.core⟩

/-- With all of an image acknowledged and nothing else to issue, its pointer write goes out alone. -/
theorem kpIssue_pointer {s : Hw} {b : Bool} (waiting : s.kp.waiting = []) (out : s.kp.out = [])
    (formatting : s.kp.formatting = false) (imageTo : s.kp.imageTo = some b) (imagePtr : s.kp.imagePtr = false)
    (mode : s.mc.mode ≠ .seal) (whole : s.kp.unit = imageSize s.kp.imageSet / 64) : kpIssue s = kpIssueThird s (pointerWrite s b) := by
  have units := imageSize_units s.kp.imageSet
  have third : kpThird s = some (pointerWrite s b) := by
    simp only [kpThird, mode, formatting, imageTo, whole, units, imagePtr, kpNone, out]
    simp [pointerWrite]
  have ready : kpReady s.kp (pointerWrite s b) = true := by
    simp [kpReady, kpSlotFree, out, pointerWrite, KpWrite.isLease]
  have next : kpThird (kpIssueThird s (pointerWrite s b)) = none := by
    have past : ¬64 * (imageSize s.kp.imageSet / 64 + 1) < imageSize s.kp.imageSet := by omega
    simp [kpThird, kpIssueThird, pointerWrite, mode, formatting, imageTo, whole, past]
  unfold kpIssue
  rw [kpPump_third waiting third ready, kpPump_idle (s := kpIssueThird s (pointerWrite s b)) waiting next]

/-! ### The two acknowledgements of a configuration (R301) -/

/-- The block with every write of an image or a format up to a unit issued. -/
def Hw.issuedTo (s : Hw) (n : Nat) : Hw := { s with kp := { s.kp with unit := n } }

theorem issuedTo_sansAck (s : Hw) (n : Nat) : (s.issuedTo n).kp.sansAck = s.kp.sansAck := rfl

theorem issuedTo_active (s : Hw) (n : Nat) : (s.issuedTo n).active = s.active := rfl

/-- The block once every write of an image is issued, and those outstanding are acknowledged. -/
def imageDrained (s : Hw) (n : Nat) : Hw := (s.kp.out.filter fun w => w.why = .image).foldl kpDurable (s.issuedTo n)

theorem imageDrained_sansAck (s : Hw) (n : Nat) : (imageDrained s n).kp.sansAck = s.kp.sansAck :=
  (foldl_keeps (fun t : Hw => t.kp.sansAck) kpDurable kpDurable_sansAck _ _).trans (issuedTo_sansAck s n)

theorem imageDrained_active (s : Hw) (n : Nat) : (imageDrained s n).active = s.active :=
  (foldl_keeps Hw.active kpDurable kpDurable_active _ _).trans (issuedTo_active s n)

/-- A byte beside the outstanding writes stands. -/
theorem imageDrained_bytes (s : Hw) (n a : Nat) (outside : ∀ w ∈ s.kp.out, a < w.addr ∨ w.addr + w.data.length ≤ a) :
    mget (imageDrained s n).kp.bytes a = mget s.kp.bytes a := by
  have kept := foldl_keeps_mem (fun t : Hw => mget t.kp.bytes a) kpDurable (s.kp.out.filter fun w => w.why = .image)
    (fun w listed t => ?_) (s.issuedTo n)
  · exact kept
  · rw [kpDurable_bytes]
    exact mget_mwrite_outside _ _ _ _ (outside w (List.mem_of_mem_filter listed))

/-- The block with other bytes in the keeper, after a number of writes. -/
def Hw.storesBytes (s : Hw) (bytes : Memory) (writes : BitVec 32) : Hw :=
  { s with kp := { s.kp with bytes := bytes, writes := writes } }

theorem storesBytes_sansAck (s : Hw) (bytes : Memory) (writes : BitVec 32) :
    (s.storesBytes bytes writes).kp.sansAck = s.kp.sansAck := rfl

theorem storesBytes_bytes (s : Hw) (bytes : Memory) (writes : BitVec 32) : (s.storesBytes bytes writes).kp.bytes = bytes := rfl

theorem storesBytes_active (s : Hw) (bytes : Memory) (writes : BitVec 32) : (s.storesBytes bytes writes).active = s.active := rfl

/-- The keeper's bytes once an image is written to a bank (R301). -/
def imageWritten (s : Hw) (b : Bool) : Memory := mwrite s.kp.bytes (bankAddr b) (imageBytes s.kp.imageSet s.kp.imageEpoch)

theorem imageRest_eq (s : Hw) (b : Bool) : ∃ n writes, n = imageSize s.kp.imageSet / 64 ∧
    imageRest s b = kpIssue ((imageDrained s n).storesBytes (imageWritten (imageDrained s n) b) writes) := by
  unfold imageRest
  generalize imageSize s.kp.imageSet / 64 = n
  exact ⟨n, satInc (imageDrained s n).kp.writes (n - s.kp.unit), rfl, rfl⟩

theorem imageRest_sansAck (s : Hw) (b : Bool) : (imageRest s b).kp.sansAck = s.kp.sansAck := by
  obtain ⟨n, writes, -, eq⟩ := imageRest_eq s b
  rw [eq, kpIssue_sansAck, storesBytes_sansAck, imageDrained_sansAck]

theorem imageRest_active (s : Hw) (b : Bool) : (imageRest s b).active = s.active := by
  obtain ⟨n, writes, -, eq⟩ := imageRest_eq s b
  rw [eq, kpIssue_active, storesBytes_active, imageDrained_active]

/-- The bank holds the image, over what was acknowledged before. -/
theorem imageRest_bytes (s : Hw) (b : Bool) : ∃ n, (imageRest s b).kp.bytes =
    mwrite (imageDrained s n).kp.bytes (bankAddr b) (imageBytes s.kp.imageSet s.kp.imageEpoch) := by
  obtain ⟨n, writes, -, eq⟩ := imageRest_eq s b
  have set : (imageDrained s n).kp.imageSet = s.kp.imageSet := (congrArg Keeper.imageSet (imageDrained_sansAck s n) :)
  have epoch : (imageDrained s n).kp.imageEpoch = s.kp.imageEpoch := (congrArg Keeper.imageEpoch (imageDrained_sansAck s n) :)
  refine ⟨n, ?_⟩
  rw [eq, kpIssue_bytes, storesBytes_bytes, imageWritten, set, epoch]

section
variable {s : Hw} {b : Bool} (waiting : s.kp.waiting = []) (out : s.kp.out = []) (formatting : s.kp.formatting = false)
  (imageTo : s.kp.imageTo = some b) (imagePtr : s.kp.imagePtr = false) (mode : s.mc.mode ≠ .seal)
include waiting out formatting imageTo imagePtr mode

/-- Over an image that is stored with nothing else to issue, the pointer write goes out. -/
theorem storesBytes_pointer {n : Nat} (whole : n = imageSize s.kp.imageSet / 64) (bytes : Memory) (writes : BitVec 32) :
    let h := kpIssue ((s.issuedTo n).storesBytes bytes writes)
    h.kp.imagePtr = true ∧ ∃ w, h.kp.out = [w] ∧ w.why = .pointer ∧ w.addr = ptrAddr b ∧
      w.data = pointerBlock (seqNext (pointerSeq ((s.issuedTo n).storesBytes bytes writes) (!b))) s.kp.imageEpoch
        (imageBytes s.kp.imageSet s.kp.imageEpoch) := by
  dsimp only
  rw [kpIssue_pointer (s := (s.issuedTo n).storesBytes bytes writes) waiting out formatting imageTo imagePtr mode whole]
  refine ⟨?_, _, (congrArg (· ++ [pointerWrite ((s.issuedTo n).storesBytes bytes writes) b]) out :), rfl, rfl, rfl⟩
  simp [kpIssueThird, pointerWrite]

/-- With nothing else before it, the pointer write goes out, over the SEQ of the other bank's pointer (R301). -/
theorem imageRest_pointer :
    (imageRest s b).kp.imagePtr = true ∧ ∃ w, (imageRest s b).kp.out = [w] ∧ w.why = .pointer ∧ w.addr = ptrAddr b ∧
      w.data = pointerBlock (seqNext (pointerSeq s (!b))) s.kp.imageEpoch (imageBytes s.kp.imageSet s.kp.imageEpoch) := by
  obtain ⟨n, writes, whole, eq⟩ := imageRest_eq s b
  rw [imageDrained, out, List.filter_nil, List.foldl_nil] at eq
  have seq : pointerSeq ((s.issuedTo n).storesBytes (imageWritten (s.issuedTo n) b) writes) (!b) = pointerSeq (s.issuedTo n) (!b) :=
    pointerSeq_image (storesBytes_bytes ..) (!b)
  have issued := storesBytes_pointer waiting out formatting imageTo imagePtr mode whole (imageWritten (s.issuedTo n) b) writes
  rw [seq, ← eq] at issued
  exact issued

end

theorem configImageAck_rest {s : Hw} {b : Bool} (imageTo : s.kp.imageTo = some b) (imagePtr : s.kp.imagePtr = false)
    (live : kpLive s = true) (mode : s.mc.mode ≠ .seal) : configImageAck s = imageRest s b := by
  simp [configImageAck, imageTo, imagePtr, live, mode]

/-- The pointer's bank becomes the current one, and its set the durable one. -/
def Hw.currentImage (s : Hw) (b : Bool) : Hw := { s with kp := { s.kp with
  bank := b, durableEpoch := s.kp.imageEpoch, cfgDurable := s.kp.imageEpoch = s.seam.epoch, imageTo := none, imagePtr := false
  imageSet := [] } }

theorem pointerAcked_last {s : Hw} {w : KpWrite} {b : Bool} (imageTo : s.kp.imageTo = some b) (imageNext : s.kp.imageNext = false) :
    pointerAcked s w = (kpDurable s w).currentImage b := by
  have same := kpDurable_sansAck s w
  have bank : (kpDurable s w).kp.imageTo = s.kp.imageTo := (congrArg Keeper.imageTo same :)
  have next : (kpDurable s w).kp.imageNext = s.kp.imageNext := (congrArg Keeper.imageNext same :)
  simp [pointerAcked, bank, next, imageTo, imageNext, Hw.currentImage]

theorem configPointerAck_last {s : Hw} {w : KpWrite} {b : Bool} (out : s.kp.out.find? (fun w => w.why = .pointer) = some w)
    (running : s.ward.warmPending = false) (imageTo : s.kp.imageTo = some b) (imageNext : s.kp.imageNext = false) :
    configPointerAck s = (kpDurable s w).currentImage b := by
  simp [configPointerAck, out, running, pointerAcked_last imageTo imageNext]

end Sys2Proof.Machine
end

section
open Sys2Proof Sys2Proof.Machine

/-- Settles O38: the image is the last write to its bank before the port issues what may go, and the pointer is a write of its
block, read back by its parts. -/
theorem configurationBecomesDurable : Obligations.ConfigurationBecomesDurable := by
  intro s b awake live imageTo k image pointer
  refine ⟨fun imagePtr mode => ?_, fun w imagePtr imageNext found running addr data => ?_⟩
  · refine completes_settleAll (f := configImageAck) rfl awake ?_
    rw [configImageAck_rest imageTo imagePtr live mode, settleAll_kp, settleAll_active]
    have same := imageRest_sansAck s.hw b
    obtain ⟨n, bytes⟩ := imageRest_bytes s.hw b
    refine ⟨?_, (congrArg Keeper.bank same :), (congrArg Keeper.durableEpoch same :),
      (congrArg Keeper.imageTo same :).trans imageTo, imageRest_active .., fun a beside outside => ?_,
      fun out waiting formatting => imageRest_pointer waiting out formatting imageTo imagePtr mode⟩
    · rw [bytes]
      exact mread_mwrite ..
    · rw [bytes, mget_mwrite_outside _ _ _ _ beside]
      exact imageDrained_bytes s.hw n a outside
  · refine completes_settleAll (f := configPointerAck) rfl awake ?_
    have epoch : (kpDurable s.hw w).kp.imageEpoch = k.imageEpoch :=
      (congrArg Keeper.imageEpoch (kpDurable_sansAck s.hw w) :)
    have seam := kpDurable_seam s.hw w
    have bytes : (kpDurable s.hw w).kp.bytes = mwrite k.bytes (ptrAddr b) pointer := by rw [kpDurable_bytes, addr, data]
    obtain ⟨seq, named, other⟩ := pointer_written (h := (kpDurable s.hw w).currentImage b) bytes
    have stands := settleAll_kp ((kpDurable s.hw w).currentImage b)
    have stored := congrArg Keeper.bytes stands
    rw [configPointerAck_last found running imageTo imageNext, pointerEpoch_congr stored, pointerSeq_congr stored,
      pointerSeq_congr stored, stands, settleAll_active]
    refine ⟨rfl, epoch, ?_, rfl, seq, named, other, kpDurable_active ..⟩
    simp [Hw.currentImage, epoch, seam, k]
end

section
namespace Sys2Proof.Machine

/-! ### The word that the patrol reads (R280, R281) -/

theorem decodeWord_marked {marks : List (BitVec 6)} {pos : BitVec 6} (valid : pos.toNat < 36) (marked : pos ∈ marks) :
    decodeWord marks [pos] = .corrected [] := by
  simp [decodeWord, List.eraseDups_cons, valid, marked]

theorem decodeWord_new {marks : List (BitVec 6)} {pos : BitVec 6} (valid : pos.toNat < 36) (unmarked : pos ∉ marks)
    (few : marks.length < 2) : decodeWord marks [pos] = .corrected [pos] := by
  simp [decodeWord, List.eraseDups_cons, valid, unmarked, few]

/-- Two symbols that are not marked are more than the code corrects. -/
theorem decodeWord_two {marks : List (BitVec 6)} {pos more : BitVec 6} (ne : pos ≠ more) (valid : pos.toNat < 36)
    (validToo : more.toNat < 36) (unmarked : pos ∉ marks) (unmarkedToo : more ∉ marks) :
    decodeWord marks [pos, more] = .lost := by
  have few : (if marks.length < 2 then 1 else 0) < 2 := by split <;> omega
  simp only [decodeWord]
  rw [if_neg (by simp [List.eraseDups_cons, valid]), if_neg]
  simpa [List.eraseDups_cons, Ne.symm ne, valid, validToo, unmarked, unmarkedToo] using few

/-- The patrol's word of a row lies in the bank that it reads. -/
theorem wordBank_patrolWord {bank row : Nat} (hb : bank < 128) (hr : row < 8192) :
    wordBank row (patrolWord bank row) = bank := by
  unfold wordBank patrolWord
  omega

/-- The decoder of the patrol's word is that of the bank's marks. -/
theorem patrolWord_decode (s : Hw) (bank : BitVec 7) (positions : List (BitVec 6)) :
    wordDecode s s.cs.patrolRow.toNat (patrolWord bank.toNat s.cs.patrolRow.toNat) positions =
      decodeWord (tget [] s.cs.marks bank.toNat) positions := by
  unfold wordDecode
  rw [wordBank_patrolWord bank.isLt s.cs.patrolRow.isLt]

/-! ### What the patrol does with it (R283, R284, R286, R287) -/

/-- A word is queued for its write-back, once (R284). -/
def CentralStore.awaits (k : CentralStore) (b w : Nat) : CentralStore :=
  { k with writeBacks := if k.writeBacks.contains (b, w) then k.writeBacks else k.writeBacks ++ [(b, w)] }

theorem CentralStore.mem_awaits (k : CentralStore) (b w : Nat) : (b, w) ∈ (k.awaits b w).writeBacks := by
  unfold CentralStore.awaits
  split
  · next listed => exact List.contains_iff_mem.mp listed
  · simp

/-- One more row of a bank is corrected at a position. -/
def CentralStore.tallies (k : CentralStore) (bank : Nat) (pos : BitVec 6) : CentralStore :=
  { k with corrections := tset 0 k.corrections (36 * bank + pos.toNat) (tget 0 k.corrections (36 * bank + pos.toNat) + 1) }

/-- The effect of a step on the central store, with the contexts and the ready list as they were. -/
structure Hw.Stores (s h : Hw) (k : CentralStore) : Prop where
  cs : h.cs = k
  ctxs : h.ctxs = s.ctxs
  rm : h.rm = s.rm

/-- The central store is written, and an event is logged. -/
theorem stores_note {s h : Hw} (ctxs : h.ctxs = s.ctxs) (rm : h.rm = s.rm) (k : CentralStore) (u e : Nat) (d : BitVec 16) :
    s.Stores (note { h with cs := k } u e d) k :=
  ⟨note_cs .., (note_ctxs ..).trans ctxs, (note_rm ..).trans rm⟩

/-- Before the 16th row a correction is tallied. -/
theorem patrolCorrected_few {s h : Hw} {k : CentralStore} (stored : s.Stores h k) {bank : Nat} {pos : BitVec 6}
    (few : tget 0 k.corrections (36 * bank + pos.toNat) + 1 < 16) :
    s.Stores (patrolCorrected h bank pos) (k.tallies bank pos) := by
  obtain ⟨rfl, ctxs, rm⟩ := stored
  unfold patrolCorrected
  dsimp only
  rw [if_pos few]
  exact ⟨rfl, ctxs, rm⟩

/-- The 16th row marks the position, while fewer than two are marked. -/
theorem patrolCorrected_marks {s h : Hw} {k : CentralStore} (stored : s.Stores h k) {bank : Nat} {pos : BitVec 6}
    (rows : tget 0 k.corrections (36 * bank + pos.toNat) + 1 = 16) (few : (tget [] k.marks bank).length < 2) :
    s.Stores (patrolCorrected h bank pos)
      { k.tallies bank pos with marks := tset [] k.marks bank (tget [] k.marks bank ++ [pos]) } := by
  obtain ⟨rfl, ctxs, rm⟩ := stored
  unfold patrolCorrected
  dsimp only
  rw [if_neg (by omega), if_neg (by omega)]
  exact stores_note ctxs rm _ 0x80 5 0

/-- A free buffer with a lost word, on its way through the zeroer. -/
def CentralStore.rezeroes (k : CentralStore) (b : Nat) : CentralStore :=
  { k with
    cntFree := satInc k.cntFree, bufs := tput b .zeroing k.bufs, zeroQ := k.zeroQ ++ [b], recheck := k.recheck ++ [b]
    writeBacks := k.writeBacks.filter fun w => w.1 != b }

theorem patrolZero_stores (s : Hw) (b : Nat) : s.Stores (patrolZero s b) (s.cs.rezeroes b) :=
  stores_note rfl rfl _ 0x80 3 0

/-- The central store once a read of the patrol's word of a bank has been corrected. -/
def Hw.patrolAwaits (s : Hw) (bank : Nat) : CentralStore :=
  s.cs.awaits s.cs.patrolRow.toNat (patrolWord bank s.cs.patrolRow.toNat)

theorem patrolFound_clean (s : Hw) (bank : BitVec 7) : patrolFound s bank.toNat [] = s := by
  simp only [patrolFound, patrolWord_decode]
  rfl

section
variable {s : Hw} {bank : BitVec 7} {pos more : BitVec 6} (free : tget BufState.free s.cs.bufs s.cs.patrolRow.toNat = .free)
include free

/-- A correction at a marked position alone only asks for the write-back. -/
theorem patrolFound_marked (valid : pos.toNat < 36) (marked : pos ∈ tget [] s.cs.marks bank.toNat) :
    s.Stores (patrolFound s bank.toNat [pos]) (s.patrolAwaits bank.toNat) ∧ (patrolFound s bank.toNat [pos]).flt = s.flt := by
  simp only [patrolFound, storeRead, patrolWord_decode, decodeWord_marked valid marked, free]
  exact ⟨⟨rfl, rfl, rfl⟩, rfl⟩

/-- A correction at a new position is counted, and then tallied in its bank. -/
theorem patrolFound_new (valid : pos.toNat < 36) (unmarked : pos ∉ tget [] s.cs.marks bank.toNat)
    (few : (tget [] s.cs.marks bank.toNat).length < 2) :
    ∃ h, patrolFound s bank.toNat [pos] = patrolCorrected h bank.toNat pos ∧
      s.Stores h { s.patrolAwaits bank.toNat with cntCorr := satInc s.cs.cntCorr } := by
  simp only [patrolFound, storeRead, patrolWord_decode, decodeWord_new valid unmarked few, free]
  exact ⟨_, rfl, stores_note (h := s) rfl rfl _ 0x80 1 0⟩

/-- A lost word of a free buffer sends it to the zeroer, to be read back. -/
theorem patrolFound_lost (ne : pos ≠ more) (valid : pos.toNat < 36) (validToo : more.toNat < 36)
    (unmarked : pos ∉ tget [] s.cs.marks bank.toNat) (unmarkedToo : more ∉ tget [] s.cs.marks bank.toNat) :
    s.Stores (patrolFound s bank.toNat [pos, more]) (s.cs.rezeroes s.cs.patrolRow.toNat) := by
  have lost := decodeWord_two ne valid validToo unmarked unmarkedToo
  simp only [patrolFound, patrolWord_decode, lost, free]
  exact patrolZero_stores ..

end

/-! ### The patrol moves on (R282) -/

/-- One more bank of the row is read: the next row follows the last of them, and a pass ends after the last row. -/
def CentralStore.Moves (k c : CentralStore) (bank : Nat) : Prop :=
  (¬k.patrolBanks.length = 127 → c.patrolBanks = bank :: k.patrolBanks ∧ c.patrolRow = k.patrolRow) ∧
  (k.patrolBanks.length = 127 → c.patrolBanks = [] ∧ c.patrolRow = k.patrolRow + 1 ∧
    c.passes = if k.patrolRow.toNat = 8191 then satInc k.passes else k.passes)

theorem Hw.Stores.moves {s h : Hw} {k : CentralStore} (stored : s.Stores h k) (room : k.patrolBanks.length < 128) (bank : Nat) :
    k.Moves (patrolMove h bank).cs bank := by
  obtain ⟨rfl, -, -⟩ := stored
  unfold patrolMove
  dsimp only
  split
  · exact ⟨fun _ => ⟨rfl, rfl⟩, fun last => by omega⟩
  · exact ⟨fun more => by omega, fun _ => ⟨rfl, rfl, rfl⟩⟩

/-- Moving on leaves all but the row, its banks, the passes and their corrections. -/
theorem patrolMove_eq (s : Hw) (bank : Nat) : ∃ banks row passes corrections, patrolMove s bank = { s with cs := { s.cs with
    patrolBanks := banks, patrolRow := row, passes := passes, corrections := corrections } } := by
  unfold patrolMove
  dsimp only
  split <;> exact ⟨_, _, _, _, rfl⟩

/-- What the move leaves of a central store. -/
structure CentralStore.SameFound (k c : CentralStore) : Prop where
  bufs : c.bufs = k.bufs
  marks : c.marks = k.marks
  cntCorr : c.cntCorr = k.cntCorr
  writeBacks : c.writeBacks = k.writeBacks
  zeroQ : c.zeroQ = k.zeroQ
  recheck : c.recheck = k.recheck

theorem Hw.Stores.sameFound {s h : Hw} {k : CentralStore} (stored : s.Stores h k) (bank : Nat) :
    k.SameFound (patrolMove h bank).cs := by
  obtain ⟨rfl, -, -⟩ := stored
  obtain ⟨banks, row, passes, corrections, eq⟩ := patrolMove_eq h bank
  rw [eq]
  exact ⟨rfl, rfl, rfl, rfl, rfl, rfl⟩

/-- Within a row the corrections stand. -/
theorem Hw.Stores.sameCorrections {s h : Hw} {k : CentralStore} (stored : s.Stores h k) (more : k.patrolBanks.length + 1 < 128)
    (bank : Nat) : (patrolMove h bank).cs.corrections = k.corrections := by
  obtain ⟨rfl, -, -⟩ := stored
  unfold patrolMove
  dsimp only
  rw [if_pos more]

theorem patrolMove_blk (s : Hw) (bank u : Nat) : (patrolMove s bank).blk u = s.blk u := by
  obtain ⟨banks, row, passes, corrections, eq⟩ := patrolMove_eq s bank
  rw [eq]
  rfl

/-! ### The read and the write-back (R282, R284) -/

theorem writeBack_eq (b w : Nat) (s : Hw) : writeBack b w s =
    { s with cs := { s.cs with writeBacks := s.cs.writeBacks.filter fun x => x ≠ (b, w) } } := by
  have same : (fun x : Nat × Nat => x != (b, w)) = fun x => decide (x ≠ (b, w)) := by
    funext x
    rw [Bool.eq_iff_iff, bne_iff_ne, decide_eq_true_eq]
  rw [writeBack, same]

/-- The block once the detector of the central store has met the flipped bit (R359). -/
def Hw.patrolMet (s : Hw) : Hw := (takeFlip s 0x80).2

/-- With no bit flipped the detector leaves the fault blocks. -/
theorem patrolMet_blk {s : Hw} (flip : (s.blk 0x80).flip = false) (u : Nat) : s.patrolMet.blk u = s.blk u := by
  show tget {} (tmod {} s.flt 0x80 fun b => { b with flip := false }) u = tget {} s.flt u
  by_cases e : u = 0x80
  · subst e
    rw [tget_tmod]
    show ({ s.blk 0x80 with flip := false } : FltBlock) = s.blk 0x80
    rw [← flip]
  · exact tget_tmod_ne ({} : FltBlock) e s.flt _

theorem patrolRead_again {s : Hw} {bank : Nat} (read : bank ∈ s.cs.patrolBanks) (positions : List (BitVec 6))
    (flipped : BitVec 6) : patrolRead bank positions flipped s = s := by
  simp [patrolRead, read]

theorem patrolRead_first {s : Hw} {bank : Nat} (unread : bank ∉ s.cs.patrolBanks)
    (power : s.sec.power = .run ∨ s.sec.power = .idle) (flip : (s.blk 0x80).flip = false) (positions : List (BitVec 6))
    (flipped : BitVec 6) :
    patrolRead bank positions flipped s = patrolMove (patrolFound s.patrolMet bank positions) bank := by
  have on : (s.sec.power != .run && s.sec.power != .idle) = false := by rcases power with p | p <;> simp [p]
  simp [patrolRead, unread, on, Hw.patrolMet, takeFlip, flip]

/-- A bank that the patrol reads for the first time in a row: what it finds is stored, and it moves on. -/
theorem completes_patrol {s : State} {bank : BitVec 7} {positions : List (BitVec 6)} {flipped : BitVec 6} {h : Hw}
    {k : CentralStore} {P : Hw → Prop} (awake : s.hw.inert = false) (settled : s.hw.Settled)
    (read : patrolRead bank.toNat positions flipped s.hw = patrolMove (patrolFound s.hw.patrolMet bank.toNat positions) bank.toNat)
    (found : patrolFound s.hw.patrolMet bank.toNat positions = h) (stored : s.hw.patrolMet.Stores h k)
    (p : P (patrolMove h bank.toNat)) : Completes (.patrolRead bank positions flipped) s P := by
  rw [found] at read
  refine completes_work (f := patrolRead bank.toNat positions flipped) rfl awake ?_ (read ▸ p)
  obtain ⟨banks, row, passes, corrections, eq⟩ := patrolMove_eq h bank.toNat
  rw [read, eq]
  exact settled.congr stored.ctxs (congrArg RingMgr.ready stored.rm)

end Sys2Proof.Machine
end

section
open Sys2Proof Sys2Proof.Machine

/-- Settles O43: a read is what the decoder makes of its word, stored, and the move to the next bank or row. -/
theorem thePatrolReadsEveryRow : Obligations.ThePatrolReadsEveryRow := by
  intro s bank pos more buf word awake k row last n marks moved
  refine ⟨fun read => ?_, ?_, fun unread power flip room valid settled => ?_⟩
  · exact (s.work_awake (patrolRead bank.toNat [pos] more) awake).trans
      (congrArg (fun h => s.to (settleAll h)) (patrolRead_again read [pos] more))
  · exact (s.work_awake (writeBack buf.toNat word.toNat) awake).trans
      (congrArg (fun h => s.to (settleAll h)) (writeBack_eq ..))
  have reads := patrolRead_first unread power flip
  have blks := patrolMet_blk flip
  refine ⟨?_, fun marked free => ?_, fun unmarked few free rows unended => ?_, fun unmarked free rows few => ?_,
    fun ne validToo unmarked unmarkedToo free => ?_⟩
  · have stored : s.hw.patrolMet.Stores s.hw.patrolMet k := ⟨rfl, rfl, rfl⟩
    have same := stored.sameFound bank.toNat
    exact completes_patrol awake settled (reads [] more) (patrolFound_clean ..) stored
      ⟨stored.moves room _, same.bufs, same.marks, same.cntCorr, fun u => (patrolMove_blk ..).trans (blks u)⟩
  · obtain ⟨stored, flt⟩ := patrolFound_marked (s := s.hw.patrolMet) free valid marked
    have same := stored.sameFound bank.toNat
    refine completes_patrol awake settled (reads [pos] more) rfl stored
      ⟨stored.moves room _, same.bufs, same.marks, same.cntCorr, fun u => ?_⟩
    rw [patrolMove_blk, Hw.blk, flt]
    exact blks u
  · obtain ⟨m, found, counted⟩ := patrolFound_new (s := s.hw.patrolMet) free valid unmarked few
    have stored := patrolCorrected_few counted rows
    have same := stored.sameFound bank.toNat
    have inRow : k.patrolBanks.length + 1 < 128 := by omega
    refine completes_patrol awake settled (reads [pos] more) found stored
      ⟨stored.moves room _, same.marks, same.cntCorr, ?_, ?_⟩
    · rw [same.writeBacks]
      exact CentralStore.mem_awaits ..
    · rw [stored.sameCorrections inRow]
      exact tget_tset 0 k.corrections _ n
  · obtain ⟨m, found, counted⟩ := patrolFound_new (s := s.hw.patrolMet) free valid unmarked few
    have stored := patrolCorrected_marks counted rows few
    refine completes_patrol awake settled (reads [pos] more) found stored ⟨stored.moves room _, ?_⟩
    rw [(stored.sameFound bank.toNat).marks]
    exact tget_tset [] k.marks bank.toNat _
  · have stored := patrolFound_lost (s := s.hw.patrolMet) free ne valid validToo unmarked unmarkedToo
    have same := stored.sameFound bank.toNat
    refine completes_patrol awake settled (reads [pos, more] pos) rfl stored ⟨stored.moves room _, ?_, ?_, ?_⟩
    · rw [same.bufs]
      exact tget_tput_same ..
    · rw [same.zeroQ]
      exact List.mem_append_right _ (List.mem_singleton_self _)
    · rw [same.recheck]
      exact List.mem_append_right _ (List.mem_singleton_self _)
end

section
namespace Sys2Proof.Machine

open Sys2Proof.Tests

/-- A tombstone outstanding, while the last 64 B of a configuration image for bank 1 are still to be issued. -/
def imageBehindTombstone : Hw :=
  let h := writingRec { stopped := true, pendingTomb := true } .tombstone
  { h with kp := { h.kp with imageTo := some true, imageSet := cfg0, unit := imageSize cfg0 / 64 - 1 } }

/-- With the tombstone's acknowledgement the image's write goes out (`kpDurable`). -/
theorem imageBehindTombstone_issues :
    after (.tombstoneAck false) (st imageBehindTombstone) (fun h => h.kp.out ≠ []) = true := by
  decide +kernel

end Sys2Proof.Machine

open Sys2Proof Sys2Proof.Machine Sys2Proof.Tests

/-- Refutes O47: an acknowledged tombstone is to leave no keeper write outstanding, but every acknowledgement lets the port issue
what may go (R299), and the statement does not ask that no configuration image be under way, as its clause on the time record
does. The image's next write takes the tombstone's place. (The port would have issued that write before; the statement speaks of
every state.) -/
theorem not_theRecorderWorks : ¬Obligations.TheRecorderWorks := by
  intro all
  obtain ⟨-, events⟩ := all (st imageBehindTombstone) .ctla 0 0 0 0 (runit .tombstone) ⟨0, 0, []⟩ 0
  have awake : imageBehindTombstone.inert = false := by decide +kernel
  have unfenced : imageBehindTombstone.fenced 0x82 = false := by decide +kernel
  obtain ⟨-, -, -, -, -, -, -, writes, -⟩ := events awake
  obtain ⟨-, -, acknowledged, -⟩ := writes rfl rfl rfl unfenced
  obtain ⟨h, ⟨ack, out, -⟩, -⟩ := acknowledged rfl
  refine not_completes_of_after imageBehindTombstone_issues (P := fun h => h.kp.out = []) (fun h issued none_out => ?_)
    ⟨h, ack, out⟩
  simp [none_out] at issued
end
